-- ==== Sys2Proof/Word.lean ====
section
/-! DEFINITION. The word types of the XGT-7400: a byte, the 64-bit scalar word, a 512-lane mask (R2, R6, R52). -/
namespace Sys2Proof

/-- A byte is 8 bits (R2). -/
abbrev Byte := BitVec 8

/-- A double: a scalar register, or one lane of a vector field (R2, R6). -/
abbrev Word := BitVec 64

/-- One bit per lane of a group of up to 16 rows of 32 lanes (R8, R28). -/
abbrev Mask := BitVec 512

end Sys2Proof
end

