-- ==== Sys2Proof/Config.lean ====
section
/-! DEFINITION. What the spec leaves to the part or does not state. Every constant here has no body: nothing in Lean
can evaluate it, so a statement about it holds for every value. The free values are applied to the counter `free`
of the state (log 4), or to the operands named. -/
namespace Sys2Proof.Config

/-- The cycles that a core counts between one `GET` of `s.clock` and the next (R24, R135): a free value (log 5). -/
opaque freeClock : Nat → Nat

/-- Where in its part of its launch's save area the spilled stack entries of a thread begin (R53): a free value (log 62). -/
opaque spillPlace : Nat → Nat

/-- `MPROG` selector 2 (R224): the steps that a running command has done, before the bound of the command is applied; and the
bytes that a Depot move has moved when it meets a fault (R398): a free value (log 6). -/
opaque freeProgress : Nat → Nat

/-- What the Depot writes to line i of a save area (R49: the layout of a saved context is not stated): a free value (log 49). -/
opaque freeImage (n i : Nat) : BitVec 1024

/-- The ML-DSA-65 signature of an attestation answer (R310): a free value (log 22). -/
opaque freeSignature : Nat → Nat

/-- How many of the writes to a line of changed code a fetch does not see, newest first (R390): a free value (log 7). -/
opaque freeFetchOld : Nat → Nat

/-- Which line a full cache, or which entry a full TLB, gives up (R239, R244, R247): a free value (log 60). -/
opaque freeVictim : Nat → Nat

/-- The cluster at which the dispatcher begins its search (R30: placement is its choice): a free value (log 17). -/
opaque freePlace : Nat → Nat

/-- The SHAKE256 digest of the firmware image, and the configuration, that an attestation covers (R310; log 22). -/
opaque firmwareDigest : Nat
opaque firmwareConfig : Nat

end Sys2Proof.Config
end

