-- ==== Sys2Proof/Syntax.lean ====
section
/-! DEFINITION. The instructions of the XGT-7400: one constructor for each row of spec/opcode_table.json.
The first part of the table holds the 256 encoded words of chapter 06, the second the 104 steps of the other
agents of the part (events), whose operands name the object or the packet that the step is about. Words without
operands and hint words stand behind the others, so that Lean can compile the constructors before them. -/
namespace Sys2Proof

/-- Format T, three scalars (R93): `ea`, `eb` are the empty-trap bits of `a` and `b` (R96). -/
structure S3 where
  (d a b : Fin 64) (ea eb : Bool)
  deriving DecidableEq, Repr

/-- Format T, two scalars: `b` and `eb` are zero (R119). -/
structure S2 where
  (d a : Fin 64) (ea : Bool)
  deriving DecidableEq, Repr

/-- Format S: `d`, `a` and the 13-bit immediate (R93, R100). -/
structure SI where
  (d a : Fin 64) (imm : BitVec 13)
  deriving DecidableEq, Repr

/-- `SHI` forms: `n` is imm13[5:0] (R100, R122). -/
structure Sh where
  (d a n : Fin 64)
  deriving DecidableEq, Repr

/-- Format T, three vector fields with the qualifying predicate `q` (R93, R97). -/
structure V3 where
  (d a b : Fin 64) (q : Fin 8) (ea eb : Bool)
  deriving DecidableEq, Repr

/-- Format T with a predicate destination (R95): `VCMP`, `VFCMP`. -/
structure P3 where
  (d : Fin 8) (a b : Fin 64) (q : Fin 8) (ea eb : Bool)
  deriving DecidableEq, Repr

/-- Format T, destination and one vector source. -/
structure V2 where
  (d a : Fin 64) (q : Fin 8) (ea : Bool)
  deriving DecidableEq, Repr

/-- Format T with a predicate source `a`: `VPOPC`, `VCOUNT`. -/
structure PA where
  (d : Fin 64) (a : Fin 8) (q : Fin 8) (ea : Bool)
  deriving DecidableEq, Repr

/-- `VCVT`: `c` is the conversion code, `r` the rounding field (R107). -/
structure VC where
  (d a c : Fin 64) (q : Fin 8) (ea : Bool) (r : Fin 4)
  deriving DecidableEq, Repr

/-- Format M (R93, R98, R99). -/
structure M where
  (t k x : Fin 64) (q : Fin 8) (et : Bool) (cp : Fin 4) (m : Bool)
  deriving DecidableEq, Repr

/-- `PREF`: format M with t = 0. -/
structure M0 where
  (k x : Fin 64) (q : Fin 8) (et : Bool) (cp : Fin 4) (m : Bool)
  deriving DecidableEq, Repr

/-- `CPY.L`: format M with m = 0 (R212). -/
structure ML where
  (t k x : Fin 64) (q : Fin 8) (et : Bool) (cp : Fin 4)
  deriving DecidableEq, Repr

/-- A fabric packet: the header flit of Table 14.1 and its data flits as one little-endian number of
64 × `len` bytes (R301). For MCAST, `dst` is the group number. -/
structure Packet where
  kind    : Nat
  prio    : Bool
  src     : Nat
  dst     : Nat
  plane   : Nat
  via     : Nat             -- the plane it travels on; another than PLANE when it is resent (R401)
  seq     : Nat
  len     : Nat
  ctx     : Nat
  offset  : Nat
  mask    : BitVec 128
  operand : BitVec 64
  data    : Nat
  deriving DecidableEq, Repr

/-- An RMA access of a host (R308): the port (0 to 3), whether the endpoint is a command endpoint, the memory
key (0 for control space, R357), the byte offset, the byte count and, for a write, the little-endian data. -/
structure Rma where
  port    : Nat
  command : Bool
  key     : Nat
  off     : Nat
  size    : Nat
  data    : Nat
  deriving DecidableEq, Repr

/-- One constructor per row of the opcode table, in the table's order. -/
inductive Instr where
  /-- ADD (R113). -/
  | add (o : S3)
  /-- SUB (R113). -/
  | sub (o : S3)
  /-- MUL (R113). -/
  | mul (o : S3)
  /-- MULH (R113). -/
  | mulh (o : S3)
  /-- DIV (R114). -/
  | div (o : S3)
  /-- DIVN (R114). -/
  | divn (o : S3)
  /-- REM (R114). -/
  | rem (o : S3)
  /-- REMN (R114). -/
  | remn (o : S3)
  /-- AND (R115). -/
  | and (o : S3)
  /-- OR (R115). -/
  | or (o : S3)
  /-- XOR (R115). -/
  | xor (o : S3)
  /-- ANDN (R115). -/
  | andn (o : S3)
  /-- SHL (R116). -/
  | shl (o : S3)
  /-- SHR (R116). -/
  | shr (o : S3)
  /-- SHA (R116). -/
  | sha (o : S3)
  /-- ROT (R116). -/
  | rot (o : S3)
  /-- MIN (R117). -/
  | min (o : S3)
  /-- MAX (R117). -/
  | max (o : S3)
  /-- MINN (R117). -/
  | minn (o : S3)
  /-- MAXN (R117). -/
  | maxn (o : S3)
  /-- SEQ (R118). -/
  | seq (o : S3)
  /-- SLT (R118). -/
  | slt (o : S3)
  /-- SLTN (R118). -/
  | sltn (o : S3)
  /-- SNE (R118). -/
  | sne (o : S3)
  /-- POPC (R119). -/
  | popc (o : S2)
  /-- CLZ (R119). -/
  | clz (o : S2)
  /-- CTZ (R119). -/
  | ctz (o : S2)
  /-- BREV (R119). -/
  | brev (o : S2)
  /-- BFX (R120). -/
  | bfx (o : S3)
  /-- BFI (R120). -/
  | bfi (o : S3)
  /-- MOV (R120). -/
  | mov (o : S2)
  /-- ADDI (R121). -/
  | addi (o : SI)
  /-- ANDI (R121). -/
  | andi (o : SI)
  /-- ORI (R121). -/
  | ori (o : SI)
  /-- XORI (R121). -/
  | xori (o : SI)
  /-- SHLI (R122). -/
  | shli (o : Sh)
  /-- SHRI (R122). -/
  | shri (o : Sh)
  /-- SHAI (R122). -/
  | shai (o : Sh)
  /-- ROTI (R122). -/
  | roti (o : Sh)
  /-- LI (R123). -/
  | li (d : Fin 64) (imm : BitVec 13)
  /-- LIH (R123). -/
  | lih (o : SI)
  /-- JMP (R124). -/
  | jmp (disp : BitVec 19)
  /-- CALL (R124). -/
  | call (c : Fin 64) (disp : BitVec 19)
  /-- BZ (R124). -/
  | bz (c : Fin 64) (disp : BitVec 19)
  /-- BNZ (R124). -/
  | bnz (c : Fin 64) (disp : BitVec 19)
  /-- BR_V (R55). -/
  | brV (p : Fin 8) (disp : BitVec 19)
  /-- BR_VN (R55). -/
  | brVn (p : Fin 8) (disp : BitVec 19)
  /-- BR_U (R57). -/
  | brU (p : Fin 8) (disp : BitVec 19)
  /-- BR_UN (R57). -/
  | brUn (p : Fin 8) (disp : BitVec 19)
  /-- BRK (R58). -/
  | brk (n p : Fin 8) (disp : BitVec 19)
  /-- JR (R125). -/
  | jr (d a : Fin 64)
  /-- SETFMT (R131). -/
  | setfmt (d a : Fin 64)
  /-- WIN (R132). -/
  | win (d a n : Fin 64)
  /-- GET (R134). -/
  | get (d num : Fin 64)
  /-- SET (R134). -/
  | set (num a : Fin 64)
  /-- TRAP (R137). -/
  | trap (a n : Fin 64)
  /-- RETT (R138). -/
  | rett (d a : Fin 64)
  /-- CSRR (R139). -/
  | csrr (d a : Fin 64)
  /-- CSRW (R139). -/
  | csrw (a b : Fin 64)
  /-- TLBINV (R140). -/
  | tlbinv (mode a b : Fin 64)
  /-- HALT (R141). -/
  | halt (d a : Fin 64)
  /-- BAR_B (R142). -/
  | barB (n : Fin 64)
  /-- BARA_B (R142). -/
  | baraB (n : Fin 64)
  /-- BARW_B (R142). -/
  | barwB (n : Fin 64)
  /-- BAR_G (R142). -/
  | barG (n : Fin 64)
  /-- BARA_G (R142). -/
  | baraG (n : Fin 64)
  /-- BARW_G (R142). -/
  | barwG (n : Fin 64)
  /-- FENCE_FLAG (R145). -/
  | fenceFlag (a b : Fin 64)
  /-- FLUSHR (R146). -/
  | flushr (a : Fin 64)
  /-- VADD_I64 (R152). -/
  | vaddI64 (o : V3)
  /-- VADD_I32 (R152). -/
  | vaddI32 (o : V3)
  /-- VADD_P16 (R152). -/
  | vaddP16 (o : V3)
  /-- VADD_P8 (R152). -/
  | vaddP8 (o : V3)
  /-- VSUB_I64 (R152). -/
  | vsubI64 (o : V3)
  /-- VSUB_I32 (R152). -/
  | vsubI32 (o : V3)
  /-- VSUB_P16 (R152). -/
  | vsubP16 (o : V3)
  /-- VSUB_P8 (R152). -/
  | vsubP8 (o : V3)
  /-- VMUL_I64 (R152). -/
  | vmulI64 (o : V3)
  /-- VMUL_I32 (R152). -/
  | vmulI32 (o : V3)
  /-- VMUL_P16 (R152). -/
  | vmulP16 (o : V3)
  /-- VMULH_I64 (R152). -/
  | vmulhI64 (o : V3)
  /-- VMIN_I64 (R153). -/
  | vminI64 (o : V3)
  /-- VMIN_I32 (R153). -/
  | vminI32 (o : V3)
  /-- VMIN_P16 (R153). -/
  | vminP16 (o : V3)
  /-- VMIN_N32 (R153). -/
  | vminN32 (o : V3)
  /-- VMAX_I64 (R153). -/
  | vmaxI64 (o : V3)
  /-- VMAX_I32 (R153). -/
  | vmaxI32 (o : V3)
  /-- VMAX_P16 (R153). -/
  | vmaxP16 (o : V3)
  /-- VMAX_N32 (R153). -/
  | vmaxN32 (o : V3)
  /-- VADDS_P16 (R154). -/
  | vaddsP16 (o : V3)
  /-- VADDS_P16N (R154). -/
  | vaddsP16n (o : V3)
  /-- VADDS_P8 (R154). -/
  | vaddsP8 (o : V3)
  /-- VADDS_P8N (R154). -/
  | vaddsP8n (o : V3)
  /-- VAND (R155). -/
  | vand (o : V3)
  /-- VOR (R155). -/
  | vor (o : V3)
  /-- VXOR (R155). -/
  | vxor (o : V3)
  /-- VANDN (R155). -/
  | vandn (o : V3)
  /-- VSHL (R156). -/
  | vshl (o : V3)
  /-- VSHR (R156). -/
  | vshr (o : V3)
  /-- VSHA (R156). -/
  | vsha (o : V3)
  /-- VROT (R156). -/
  | vrot (o : V3)
  /-- VCMP_EQ_I64 (R157). -/
  | vcmpEqI64 (o : P3)
  /-- VCMP_LT_I64 (R157). -/
  | vcmpLtI64 (o : P3)
  /-- VCMP_LTN_I64 (R157). -/
  | vcmpLtnI64 (o : P3)
  /-- VCMP_LE_I64 (R157). -/
  | vcmpLeI64 (o : P3)
  /-- VCMP_EQ_I32 (R157). -/
  | vcmpEqI32 (o : P3)
  /-- VCMP_LT_I32 (R157). -/
  | vcmpLtI32 (o : P3)
  /-- VCMPM_GT_P16 (R158). -/
  | vcmpmGtP16 (o : V3)
  /-- VCMPM_EQ_P16 (R158). -/
  | vcmpmEqP16 (o : V3)
  /-- VSEL (R159). -/
  | vsel (o : V3)
  /-- VBSL (R160). -/
  | vbsl (o : V3)
  /-- VPACKM_P16 (R161). -/
  | vpackmP16 (o : V2)
  /-- VPOPC (R170). -/
  | vpopc (o : PA)
  /-- VMOV (R162). -/
  | vmov (o : V2)
  /-- VBCAST (R163). -/
  | vbcast (o : V2)
  /-- VEXT (R164). -/
  | vext (o : S3)
  /-- VINS (R165). -/
  | vins (o : V3)
  /-- VSHFL (R166). -/
  | vshfl (o : V3)
  /-- VSHUP (R167). -/
  | vshup (o : V3)
  /-- VLANE (R168). -/
  | vlane (o : V3)
  /-- VSWZ_P16 (R169). -/
  | vswzP16 (o : V3)
  /-- VRSUM_I64 (R171). -/
  | vrsumI64 (o : V2)
  /-- VRMIN_I64 (R171). -/
  | vrminI64 (o : V2)
  /-- VRMAX_I64 (R171). -/
  | vrmaxI64 (o : V2)
  /-- VARGMAX_F (R172). -/
  | vargmaxF (o : V2)
  /-- VSCAN_I32 (R173). -/
  | vscanI32 (o : V2)
  /-- VRSUM_D (R174). -/
  | vrsumD (o : V2)
  /-- VRSUM_F (R174). -/
  | vrsumF (o : V2)
  /-- VCOUNT (R175). -/
  | vcount (o : PA)
  /-- VFADD_D (R176). -/
  | vfaddD (o : V3)
  /-- VFADD_F (R176). -/
  | vfaddF (o : V3)
  /-- VFADD_H4 (R176). -/
  | vfaddH4 (o : V3)
  /-- VFADD_B4 (R176). -/
  | vfaddB4 (o : V3)
  /-- VFSUB_D (R176). -/
  | vfsubD (o : V3)
  /-- VFSUB_F (R176). -/
  | vfsubF (o : V3)
  /-- VFSUB_H4 (R176). -/
  | vfsubH4 (o : V3)
  /-- VFSUB_B4 (R176). -/
  | vfsubB4 (o : V3)
  /-- VFMUL_D (R176). -/
  | vfmulD (o : V3)
  /-- VFMUL_F (R176). -/
  | vfmulF (o : V3)
  /-- VFMUL_H4 (R176). -/
  | vfmulH4 (o : V3)
  /-- VFMUL_B4 (R176). -/
  | vfmulB4 (o : V3)
  /-- VFMA_D (R176). -/
  | vfmaD (o : V3)
  /-- VFMA_F (R176). -/
  | vfmaF (o : V3)
  /-- VFMA_H4 (R176). -/
  | vfmaH4 (o : V3)
  /-- VFMA_B4 (R176). -/
  | vfmaB4 (o : V3)
  /-- VFMIN_D (R177). -/
  | vfminD (o : V3)
  /-- VFMAX_D (R177). -/
  | vfmaxD (o : V3)
  /-- VFMIN_F (R177). -/
  | vfminF (o : V3)
  /-- VFMAX_F (R177). -/
  | vfmaxF (o : V3)
  /-- VFDIV_D (R178). -/
  | vfdivD (o : V3)
  /-- VFDIV_F (R178). -/
  | vfdivF (o : V3)
  /-- VFSQRT_D (R178). -/
  | vfsqrtD (o : V2)
  /-- VFSQRT_F (R178). -/
  | vfsqrtF (o : V2)
  /-- VFCMP_EQ_D (R179). -/
  | vfcmpEqD (o : P3)
  /-- VFCMP_LT_D (R179). -/
  | vfcmpLtD (o : P3)
  /-- VFCMP_LE_D (R179). -/
  | vfcmpLeD (o : P3)
  /-- VFCMP_UN_D (R179). -/
  | vfcmpUnD (o : P3)
  /-- VFCMP_EQ_F (R179). -/
  | vfcmpEqF (o : P3)
  /-- VFCMP_LT_F (R179). -/
  | vfcmpLtF (o : P3)
  /-- VFCMP_LE_F (R179). -/
  | vfcmpLeF (o : P3)
  /-- VFCMP_UN_F (R179). -/
  | vfcmpUnF (o : P3)
  /-- VCVT (R180). -/
  | vcvt (o : VC)
  /-- VFRINT_D (R181). -/
  | vfrintD (o : V2)
  /-- VFRINT_F (R181). -/
  | vfrintF (o : V2)
  /-- VFCLASS_D (R182). -/
  | vfclassD (o : V2)
  /-- VFCLASS_F (R182). -/
  | vfclassF (o : V2)
  /-- VRCP_F (R183). -/
  | vrcpF (o : V2)
  /-- VRSQ_F (R183). -/
  | vrsqF (o : V2)
  /-- VEXP2_F (R183). -/
  | vexp2F (o : V2)
  /-- VLOG2_F (R183). -/
  | vlog2F (o : V2)
  /-- VRNG (R184). -/
  | vrng (o : V3)
  /-- VLD_D (R190). -/
  | vldD (o : M)
  /-- VLD_W (R190). -/
  | vldW (o : M)
  /-- VLD_H (R190). -/
  | vldH (o : M)
  /-- VLD_B (R190). -/
  | vldB (o : M)
  /-- VST_D (R190). -/
  | vstD (o : M)
  /-- VST_W (R190). -/
  | vstW (o : M)
  /-- VST_H (R190). -/
  | vstH (o : M)
  /-- VST_B (R190). -/
  | vstB (o : M)
  /-- SLD (R191). -/
  | sld (o : M)
  /-- SST (R191). -/
  | sst (o : M)
  /-- PREF (R194). -/
  | pref (o : M0)
  /-- LDK_D (R192). -/
  | ldkD (o : SI)
  /-- LDK_W (R192). -/
  | ldkW (o : SI)
  /-- STK_D (R192). -/
  | stkD (o : SI)
  /-- STK_W (R192). -/
  | stkW (o : SI)
  /-- LDK_ACQ (R193). -/
  | ldkAcq (d a : Fin 64)
  /-- STK_REL (R193). -/
  | stkRel (a b : Fin 64)
  /-- VLD_ACQ (R193). -/
  | vldAcq (d a b : Fin 64)
  /-- VST_REL (R193). -/
  | vstRel (d a b : Fin 64)
  /-- VATOM_ADD_I32 (R196). -/
  | vatomAddI32 (o : V3)
  /-- VATOM_MIN_I32 (R196). -/
  | vatomMinI32 (o : V3)
  /-- VATOM_MAX_I32 (R196). -/
  | vatomMaxI32 (o : V3)
  /-- VATOM_XCHG_I32 (R196). -/
  | vatomXchgI32 (o : V3)
  /-- VATOM_ADD_I64 (R196). -/
  | vatomAddI64 (o : V3)
  /-- VATOM_MIN_I64 (R196). -/
  | vatomMinI64 (o : V3)
  /-- VATOM_MAX_I64 (R196). -/
  | vatomMaxI64 (o : V3)
  /-- VATOM_XCHG_I64 (R196). -/
  | vatomXchgI64 (o : V3)
  /-- VATOM_ADD_F (R89). -/
  | vatomAddF (o : V3)
  /-- VATOM_ADD_D (R89). -/
  | vatomAddD (o : V3)
  /-- VATOM_AND_I64 (R196). -/
  | vatomAndI64 (o : V3)
  /-- VATOM_OR_I64 (R196). -/
  | vatomOrI64 (o : V3)
  /-- VCAS_I32 (R197). -/
  | vcasI32 (o : V3)
  /-- VCAS_I64 (R197). -/
  | vcasI64 (o : V3)
  /-- ATOMK_ADD (R198). -/
  | atomkAdd (d a b : Fin 64)
  /-- ATOMK_XCHG (R198). -/
  | atomkXchg (d a b : Fin 64)
  /-- CASK (R198). -/
  | cask (d a b : Fin 64)
  /-- ATOMK_FADD (R198). -/
  | atomkFadd (d a b : Fin 64)
  /-- LOCK (R200). -/
  | lock (a : Fin 64)
  /-- UNLOCK (R201). -/
  | unlock (a : Fin 64)
  /-- WAITM (R202). -/
  | waitm (d a b : Fin 64)
  /-- XPECT (R205). -/
  | xpect (a b : Fin 64)
  /-- WAITC (R205). -/
  | waitc (a b : Fin 64)
  /-- ARST (R205). -/
  | arst (a : Fin 64)
  /-- CPY_T (R208). -/
  | cpyT (d a b : Fin 64)
  /-- CPY_TS (R209). -/
  | cpyTs (d a b : Fin 64)
  /-- CPY_RED (R210). -/
  | cpyRed (d a : Fin 64)
  /-- CPY_REM (R211). -/
  | cpyRem (d a : Fin 64)
  /-- CPY_L (R212). -/
  | cpyL (o : ML)
  /-- QNT_ENC (R225). -/
  | qntEnc (d a : Fin 64)
  /-- QNT_DEC (R225). -/
  | qntDec (d a : Fin 64)
  /-- GATH (R226). -/
  | gath (d a : Fin 64)
  /-- GCSR (R227). -/
  | gcsr (d a b : Fin 64)
  /-- MLDA (R216). -/
  | mlda (n a : Fin 64)
  /-- MLDB (R216). -/
  | mldb (n a : Fin 64)
  /-- MMA (R217). -/
  | mma (d : Fin 16) (a b : Fin 64)
  /-- MMA_C (R218). -/
  | mmaC (d a : Fin 16) (b : Fin 64)
  /-- MMA_S (R219). -/
  | mmaS (d : Fin 16) (a : Fin 64)
  /-- MZERO (R220). -/
  | mzero (d : Fin 16)
  /-- MST (R221). -/
  | mst (d : Fin 64) (a : Fin 16) (b : Fin 64)
  /-- MWAIT (R223). -/
  | mwait (a n : Fin 64)
  /-- MPROG (R224). -/
  | mprog (d n : Fin 64)
  /-- BID (R229). -/
  | bid (a c : Fin 64)
  /-- BIDR (R229). -/
  | bidr (d c : Fin 64)
  /-- PRICE (R229). -/
  | price (d c : Fin 64)
  /-- LEASE (R229). -/
  | lease (d c : Fin 64)
  /-- PEERP (R229). -/
  | peerp (d a c : Fin 64)
  /-- JNL_X (R231). -/
  | jnlX (d a b : Fin 64)
  /-- JMARK (R233). -/
  | jmark (a b : Fin 64)
  /-- JTRUNC (R233). -/
  | jtrunc (a : Fin 64)
  /-- EMIT (R232). -/
  | emit (d a b : Fin 64)
  /-- JSTAT (R234). -/
  | jstat (d a n : Fin 64)
  /-- EXIT (R130). -/
  | exit
  /-- EXIT_V (R59). -/
  | exitV
  /-- NOP (R133). -/
  | nop
  /-- YIELD (R133). -/
  | yield
  /-- FENCE_ACQ (R143). -/
  | fenceAcq
  /-- FENCE_REL (R143). -/
  | fenceRel
  /-- FENCE_AR (R143). -/
  | fenceAr
  /-- FENCE_ENG (R144). -/
  | fenceEng
  /-- MFENCE (R222). -/
  | mfence
  /-- HX (R100). -/
  | hx (p : BitVec 21)
  /-- HJ (R102). -/
  | hj (p : BitVec 21)
  /-- HS (R102). -/
  | hs (c : Fin 32) (m : Fin 4)
  /-- HP (R102). -/
  | hp (m : Fin 8)
  /-- HC (R102). -/
  | hc (m : Fin 4)
  /-- BRANCH_RESOLVE (R66). -/
  | branchResolve (tid : Nat)
  /-- RESULT_LANDS (R35). -/
  | resultLands (flight row : Nat)
  /-- ENGINE_REQUEST_ACCEPT (R42). -/
  | engineRequestAccept (op : Nat)
  /-- LANDING (R249). -/
  | landing (op : Nat)
  /-- TOKEN_FILL (R249). -/
  | tokenFill (op : Nat)
  /-- MATRIX_COMMAND_START (R213). -/
  | matrixCommandStart (clu : Nat)
  /-- MATRIX_COMMAND_COMPLETE (R215). -/
  | matrixCommandComplete (clu cmd : Nat)
  /-- BARRIER_MESSAGE (R44). -/
  | barrierMessage (gang n tid : Nat)
  /-- BARRIER_RELEASE (R44). -/
  | barrierRelease (gang n tid : Nat)
  /-- LOCK_REQUEST (R200). -/
  | lockRequest (key tid : Nat)
  /-- UNLOCK_REQUEST (R201). -/
  | unlockRequest (key tid : Nat)
  /-- LOCK_GRANT (R200). -/
  | lockGrant (key tid : Nat)
  /-- LOCK_WITHDRAWAL (R48). -/
  | lockWithdrawal (key tid : Nat)
  /-- LOCK_RELEASE_NOTICE (R380). -/
  | lockReleaseNotice (tid slice : Nat)
  /-- MONITOR_WAKE (R202). -/
  | monitorWake (tid : Nat)
  /-- MONITOR_RELEASE (R202). -/
  | monitorRelease (tid : Nat)
  /-- OWNERSHIP_REGISTRATION (R240). -/
  | ownershipRegistration (core word : Nat)
  /-- REGISTRATION_ACK (R240). -/
  | registrationAck (core word : Nat)
  /-- REVOCATION (R240). -/
  | revocation (core word : Nat)
  /-- RECALL (R240). -/
  | recall (core word : Nat)
  /-- WRITE_BACK (R245). -/
  | writeBack (core line : Nat)
  /-- LINE_FILL (R239). -/
  | lineFill (core line : Nat)
  /-- ATOMIC_AT_HOME (R199). -/
  | atomicAtHome (flight idx : Nat)
  /-- REDUCTION_CONTRIBUTION (R210). -/
  | reductionContribution (op line : Nat)
  /-- ALIAS_ACCESS (R254). -/
  | aliasAccess (flight idx : Nat)
  /-- PAGE_WALK_DONE (R384). -/
  | pageWalkDone (ctx va : Nat)
  /-- TRAP_RECORD_WRITE (R362). -/
  | trapRecordWrite (die : Nat)
  /-- CONTEXT_END (R365). -/
  | contextEnd (ctx cause launch : Nat)
  /-- INTERVAL_END (R292). -/
  | intervalEnd
  /-- TIME_SLICE (R289). -/
  | timeSlice
  /-- LEASE_CHANGE (R293). -/
  | leaseChange
  /-- SIDING_TRANSFER (R50). -/
  | sidingTransfer (core gang : Nat)
  /-- DEPOT_SAVE (R398). -/
  | depotSave (gang : Nat)
  /-- GANG_RESUME (R51). -/
  | gangResume (gang : Nat)
  /-- COMET_MIGRATION (R295). -/
  | cometMigration (ctx pkg : Nat)
  /-- NOTIFY_WRITE (R275). -/
  | notifyWrite (queue value : Nat)
  /-- HEADER_POLL_TIMER (R276). -/
  | headerPollTimer (queue : Nat)
  /-- LAUNCH_PACKET (R277). -/
  | launchPacket (queue : Nat)
  /-- BUNDLE_PACKET (R279). -/
  | bundlePacket (queue : Nat)
  /-- WAIT_PACKET (R278). -/
  | waitPacket (queue : Nat)
  /-- WAIT_POLL_TIMER (R278). -/
  | waitPollTimer (queue : Nat)
  /-- SKIP_PACKET (R278). -/
  | skipPacket (queue : Nat)
  /-- COPY_PACKET (R278). -/
  | copyPacket (op : Nat)
  /-- QUANTISE_PACKET (R278). -/
  | quantisePacket (op : Nat)
  /-- LAUNCH_START (R286). -/
  | launchStart (launch : Nat)
  /-- BLOCK_DISPATCH (R284). -/
  | blockDispatch (launch gang : Nat)
  /-- LAUNCH_RETIRE (R285). -/
  | launchRetire (launch : Nat)
  /-- MG_SEMA_WRITE (R309). -/
  | mgSemaWrite (agent value : Nat)
  /-- MG_PKGID_WRITE (R297). -/
  | mgPkgidWrite (agent value : Nat)
  /-- MK_INTV_WRITE (R358). -/
  | mkIntvWrite (agent value : Nat)
  /-- MK_FLOOR_WRITE (R399). -/
  | mkFloorWrite (agent num value : Nat)
  /-- CX_TENANT_WRITE (R292). -/
  | cxTenantWrite (agent num value : Nat)
  /-- JS_CMD_OPEN (R312). -/
  | jsCmdOpen (agent die value : Nat)
  /-- JS_CMD_CLOSE (R313). -/
  | jsCmdClose (agent die value : Nat)
  /-- QC_CFG_WRITE (R396). -/
  | qcCfgWrite (agent num value : Nat)
  /-- CSR_WRITE (R358). -/
  | csrWrite (agent num value : Nat)
  /-- RMA_WRITE (R308). -/
  | rmaWrite (r : Rma)
  /-- RMA_READ (R308). -/
  | rmaRead (r : Rma)
  /-- ROD_CONNECTION_FAILURE (R403). -/
  | rodConnectionFailure (port : Nat)
  /-- EMIT_DELIVERY_ACK (R232). -/
  | emitDeliveryAck (seq : Nat)
  /-- EMIT_DELIVERY_TIMEOUT (R232). -/
  | emitDeliveryTimeout (seq : Nat)
  /-- JOURNAL_RECORD_ACCEPT (R317). -/
  | journalRecordAccept (seq : Nat)
  /-- PARTNER_REASSIGN (R322). -/
  | partnerReassign (seq pkg : Nat) (accepts : Bool)
  /-- NOPARTNER_TIMEOUT (R409). -/
  | nopartnerTimeout (seq : Nat)
  /-- PARTNER_SILENCE_TIMER (R324). -/
  | partnerSilenceTimer (pkg : Nat)
  /-- SOURCE_ACK_TIMER (R324). -/
  | sourceAckTimer (seq : Nat)
  /-- PROBE_TIMEOUT (R324). -/
  | probeTimeout (pkg : Nat)
  /-- LIVE_TIMER (R307). -/
  | liveTimer (link : Nat)
  /-- LINK_SILENCE_TIMEOUT (R307). -/
  | linkSilenceTimeout (link : Nat)
  /-- FLIT_CRC_ERROR (R400). -/
  | flitCrcError (link : Nat)
  /-- LINK_LOCK_LOSS (R400). -/
  | linkLockLoss (link : Nat)
  /-- LINK_RETRAIN_DONE (R400). -/
  | linkRetrainDone (link : Nat) (good : Bool)
  /-- PLANE_ACK_TIMEOUT (R427). -/
  | planeAckTimeout (pkg plane : Nat)
  /-- PLANE_PROBE_TIMER (R427). -/
  | planeProbeTimer (pkg plane : Nat)
  /-- ROUTE_RETURN (R427). -/
  | routeReturn (pkg : Nat)
  /-- LIVE (R307). -/
  | live (link : Nat)
  /-- RDREQ (R302). -/
  | rdreq (p : Packet)
  /-- RDRSP (R302). -/
  | rdrsp (p : Packet)
  /-- PWR (R241). -/
  | pwr (p : Packet)
  /-- EVICT (R302). -/
  | evict (p : Packet)
  /-- INV (R302). -/
  | inv (p : Packet)
  /-- ATOM (R199). -/
  | atom (p : Packet)
  /-- ATRSP (R199). -/
  | atrsp (p : Packet)
  /-- FLUSH (R146). -/
  | flush (p : Packet)
  /-- FLRSP (R146). -/
  | flrsp (p : Packet)
  /-- MCAST (R305). -/
  | mcast (p : Packet)
  /-- RED (R306). -/
  | red (p : Packet)
  /-- PRICE_PACKET (R294). -/
  | pricePacket (p : Packet)
  /-- JREC (R317). -/
  | jrec (p : Packet)
  /-- JACK (R317). -/
  | jack (p : Packet)
  /-- EWR (R301). -/
  | ewr (p : Packet)
  /-- EACK (R211). -/
  | eack (p : Packet)
  /-- PROBE (R324). -/
  | probe (p : Packet)
  /-- PRSP (R410). -/
  | prsp (p : Packet)
  /-- POWER_GOOD (R310). -/
  | powerGood
  /-- BRINGUP_STAGE_DONE (R310). -/
  | bringupStageDone (failed : List Nat)
  /-- BRINGUP_STAGE_TIMEOUT (R404). -/
  | bringupStageTimeout (rejected : Bool)
  /-- ILLEGAL_WORD (R111). -/
  | illegalWord (code word : Nat)
  /-- FETCH_FAULT (R383). -/
  | fetchFault (code va : Nat)
  /-- ACCESS_AT_HOME (R243). -/
  | accessAtHome (flight idx : Nat)
  /-- END_TO_END_ACKNOWLEDGEMENT (R401). -/
  | endToEndAcknowledgement (pkg plane seq : Nat)
  /-- TAKEOVER_REPORT_SEND_COMPLETE (R406). -/
  | takeoverReportSendComplete (good : Bool)
  /-- ATTESTATION_REQUEST (R310). -/
  | attestationRequest (nonce : Nat)
  /-- POWER_LOSS (R404). -/
  | powerLoss
  deriving DecidableEq, Repr

end Sys2Proof
end

