-- ==== Sys2Proof/WellFormed.lean ====
section
/-! DEFINITION. Which field values an instruction word may hold: the checks that are not a matter of width. An
instruction that fails one is not an instruction use (R111); the number is the ILLEGAL sub-cause of Table 23.1. -/
namespace Sys2Proof

/-- The special registers of Table 07.6 that `GET` may name (R135). -/
def specialRead (n : Nat) : Bool := n < 3 || (8 ≤ n && n ≤ 0x12) || (0x14 ≤ n && n ≤ 0x18)

/-- A register base of a record or descriptor lies in 1 to `hi` (R208, R210, R211, R216, R221, R225, R226, R230). -/
def base (a : Fin 64) (hi : Nat) : Bool := 1 ≤ a.val && a.val ≤ hi

/-- The conversion codes of Table 06.9 are 0x00 to 0x3B (R107). -/
def convCode (c : Fin 64) : Bool := c.val < 0x3C

/-- FIELDVAL, sub-cause 4, when the condition fails (R374). -/
def need (ok : Bool) : Option Nat := if ok then none else some 4

/-- `HS` (R102): mode 1 yield uses no count, mode 2 hold needs a count of at least 1, modes 0 and 3 are not defined. -/
def holdDefect (c : Fin 32) (m : Fin 4) : Option Nat :=
  if m = 1 then (if c = 0 then none else some 3) else if m = 2 then need (decide (c ≠ 0)) else some 4

/-- The sub-cause a field value of the instruction raises, none when every field is admitted (R374, R376 to R379).
A reserved `VCVT` code is MINOR (2); an unused hint field is ZEROBIT (3); every other one is FIELDVAL (4). -/
def Instr.defect : Instr → Option Nat
  | .add _ => none
  | .sub _ => none
  | .mul _ => none
  | .mulh _ => none
  | .div _ => none
  | .divn _ => none
  | .rem _ => none
  | .remn _ => none
  | .and _ => none
  | .or _ => none
  | .xor _ => none
  | .andn _ => none
  | .shl _ => none
  | .shr _ => none
  | .sha _ => none
  | .rot _ => none
  | .min _ => none
  | .max _ => none
  | .minn _ => none
  | .maxn _ => none
  | .seq _ => none
  | .slt _ => none
  | .sltn _ => none
  | .sne _ => none
  | .popc _ => none
  | .clz _ => none
  | .ctz _ => none
  | .brev _ => none
  | .bfx _ => none
  | .bfi _ => none
  | .mov _ => none
  | .addi _ => none
  | .andi _ => none
  | .ori _ => none
  | .xori _ => none
  | .shli _ => none
  | .shri _ => none
  | .shai _ => none
  | .roti _ => none
  | .li _ _ => none
  | .lih _ => none
  | .jmp _ => none
  | .call _ _ => none
  | .bz _ _ => none
  | .bnz _ _ => none
  | .brV _ _ => none
  | .brVn _ _ => none
  | .brU _ _ => none
  | .brUn _ _ => none
  | .brk n _ _ => need (decide (n ≠ 0))
  | .jr _ _ => none
  | .exit => none
  | .exitV => none
  | .setfmt _ _ => none
  | .win _ _ _ => none
  | .nop => none
  | .yield => none
  | .get _ num => need (specialRead num.val)
  | .set num _ => need (decide (num.val < 3))
  | .trap _ _ => none
  | .rett _ _ => none
  | .csrr _ _ => none
  | .csrw _ _ => none
  | .tlbinv mode _ _ => need (decide (mode.val < 4))
  | .halt _ _ => none
  | .barB n => need (decide (n.val < 16))
  | .baraB n => need (decide (n.val < 16))
  | .barwB n => need (decide (n.val < 16))
  | .barG n => need (decide (n.val < 4))
  | .baraG n => need (decide (n.val < 4))
  | .barwG n => need (decide (n.val < 4))
  | .fenceAcq => none
  | .fenceRel => none
  | .fenceAr => none
  | .fenceEng => none
  | .fenceFlag _ _ => none
  | .flushr _ => none
  | .vaddI64 _ => none
  | .vaddI32 _ => none
  | .vaddP16 _ => none
  | .vaddP8 _ => none
  | .vsubI64 _ => none
  | .vsubI32 _ => none
  | .vsubP16 _ => none
  | .vsubP8 _ => none
  | .vmulI64 _ => none
  | .vmulI32 _ => none
  | .vmulP16 _ => none
  | .vmulhI64 _ => none
  | .vminI64 _ => none
  | .vminI32 _ => none
  | .vminP16 _ => none
  | .vminN32 _ => none
  | .vmaxI64 _ => none
  | .vmaxI32 _ => none
  | .vmaxP16 _ => none
  | .vmaxN32 _ => none
  | .vaddsP16 _ => none
  | .vaddsP16n _ => none
  | .vaddsP8 _ => none
  | .vaddsP8n _ => none
  | .vand _ => none
  | .vor _ => none
  | .vxor _ => none
  | .vandn _ => none
  | .vshl _ => none
  | .vshr _ => none
  | .vsha _ => none
  | .vrot _ => none
  | .vcmpEqI64 _ => none
  | .vcmpLtI64 _ => none
  | .vcmpLtnI64 _ => none
  | .vcmpLeI64 _ => none
  | .vcmpEqI32 _ => none
  | .vcmpLtI32 _ => none
  | .vcmpmGtP16 _ => none
  | .vcmpmEqP16 _ => none
  | .vsel _ => none
  | .vbsl _ => none
  | .vpackmP16 _ => none
  | .vpopc _ => none
  | .vmov _ => none
  | .vbcast _ => none
  | .vext _ => none
  | .vins _ => none
  | .vshfl _ => none
  | .vshup _ => none
  | .vlane _ => none
  | .vswzP16 _ => none
  | .vrsumI64 _ => none
  | .vrminI64 _ => none
  | .vrmaxI64 _ => none
  | .vargmaxF _ => none
  | .vscanI32 _ => none
  | .vrsumD _ => none
  | .vrsumF _ => none
  | .vcount _ => none
  | .vfaddD _ => none
  | .vfaddF _ => none
  | .vfaddH4 _ => none
  | .vfaddB4 _ => none
  | .vfsubD _ => none
  | .vfsubF _ => none
  | .vfsubH4 _ => none
  | .vfsubB4 _ => none
  | .vfmulD _ => none
  | .vfmulF _ => none
  | .vfmulH4 _ => none
  | .vfmulB4 _ => none
  | .vfmaD _ => none
  | .vfmaF _ => none
  | .vfmaH4 _ => none
  | .vfmaB4 _ => none
  | .vfminD _ => none
  | .vfmaxD _ => none
  | .vfminF _ => none
  | .vfmaxF _ => none
  | .vfdivD _ => none
  | .vfdivF _ => none
  | .vfsqrtD _ => none
  | .vfsqrtF _ => none
  | .vfcmpEqD _ => none
  | .vfcmpLtD _ => none
  | .vfcmpLeD _ => none
  | .vfcmpUnD _ => none
  | .vfcmpEqF _ => none
  | .vfcmpLtF _ => none
  | .vfcmpLeF _ => none
  | .vfcmpUnF _ => none
  | .vcvt o => if convCode o.c then none else some 2
  | .vfrintD _ => none
  | .vfrintF _ => none
  | .vfclassD _ => none
  | .vfclassF _ => none
  | .vrcpF _ => none
  | .vrsqF _ => none
  | .vexp2F _ => none
  | .vlog2F _ => none
  | .vrng _ => none
  | .vldD o => need (decide (o.cp.val < 3))
  | .vldW o => need (decide (o.cp.val < 3))
  | .vldH o => need (decide (o.cp.val < 3))
  | .vldB o => need (decide (o.cp.val < 3))
  | .vstD o => need (decide (o.cp.val < 3))
  | .vstW o => need (decide (o.cp.val < 3))
  | .vstH o => need (decide (o.cp.val < 3))
  | .vstB o => need (decide (o.cp.val < 3))
  | .sld _ => none
  | .sst _ => none
  | .pref o => need (decide (o.cp.val < 2))
  | .ldkD _ => none
  | .ldkW _ => none
  | .stkD _ => none
  | .stkW _ => none
  | .ldkAcq _ _ => none
  | .stkRel _ _ => none
  | .vldAcq _ _ _ => none
  | .vstRel _ _ _ => none
  | .vatomAddI32 _ => none
  | .vatomMinI32 _ => none
  | .vatomMaxI32 _ => none
  | .vatomXchgI32 _ => none
  | .vatomAddI64 _ => none
  | .vatomMinI64 _ => none
  | .vatomMaxI64 _ => none
  | .vatomXchgI64 _ => none
  | .vatomAddF _ => none
  | .vatomAddD _ => none
  | .vatomAndI64 _ => none
  | .vatomOrI64 _ => none
  | .vcasI32 _ => none
  | .vcasI64 _ => none
  | .atomkAdd _ _ _ => none
  | .atomkXchg _ _ _ => none
  | .cask _ _ _ => none
  | .atomkFadd _ _ _ => none
  | .lock _ => none
  | .unlock _ => none
  | .waitm _ _ _ => none
  | .xpect _ _ => none
  | .waitc _ _ => none
  | .arst _ => none
  | .cpyT _ a b => need (base a 52 && base b 61)
  | .cpyTs _ a b => need (base a 52 && base b 61)
  | .cpyRed _ a => need (base a 60)
  | .cpyRem _ a => need (base a 61)
  | .cpyL o => need (decide (o.cp.val < 3))
  | .qntEnc _ a => need (base a 60)
  | .qntDec _ a => need (base a 60)
  | .gath _ a => need (base a 60)
  | .gcsr _ _ _ => none
  | .mlda n a => need (decide (n.val < 2) && base a 62)
  | .mldb n a => need (decide (n.val < 2) && base a 62)
  | .mma _ a b => need (decide (a.val < 2) && decide (b.val < 2))
  | .mmaC _ _ b => need (decide (b.val < 2))
  | .mmaS _ a => need (decide (a.val < 2))
  | .mzero _ => none
  | .mst _ _ b => need (base b 62)
  | .mfence => none
  | .mwait _ _ => none
  | .mprog _ n => need (decide (n.val < 4))
  | .bid _ c => need (decide (c.val < 5))
  | .bidr _ c => need (decide (c.val < 5))
  | .price _ c => need (decide (c.val < 5))
  | .lease _ c => need (decide (c.val < 5))
  | .peerp _ _ c => need (decide (c.val < 5))
  | .jnlX _ a _ => need (base a 62)
  | .jmark a _ => need (base a 62)
  | .jtrunc a => need (base a 62)
  | .emit _ a _ => need (base a 62)
  | .jstat _ a n => need (base a 62 && decide (n.val < 6))
  | .hx _ => none
  | .hj _ => none
  | .hs c m => holdDefect c m
  | .hp m => need (decide (m.val < 5))
  | .hc m => need (decide (m.val < 3))
  | .branchResolve _ => none
  | .resultLands _ _ => none
  | .engineRequestAccept _ => none
  | .landing _ => none
  | .tokenFill _ => none
  | .matrixCommandStart _ => none
  | .matrixCommandComplete _ _ => none
  | .barrierMessage _ _ _ => none
  | .barrierRelease _ _ _ => none
  | .lockRequest _ _ => none
  | .unlockRequest _ _ => none
  | .lockGrant _ _ => none
  | .lockWithdrawal _ _ => none
  | .lockReleaseNotice _ _ => none
  | .monitorWake _ => none
  | .monitorRelease _ => none
  | .ownershipRegistration _ _ => none
  | .registrationAck _ _ => none
  | .revocation _ _ => none
  | .recall _ _ => none
  | .writeBack _ _ => none
  | .lineFill _ _ => none
  | .atomicAtHome _ _ => none
  | .reductionContribution _ _ => none
  | .aliasAccess _ _ => none
  | .pageWalkDone _ _ => none
  | .trapRecordWrite _ => none
  | .contextEnd _ _ _ => none
  | .intervalEnd => none
  | .timeSlice => none
  | .leaseChange => none
  | .sidingTransfer _ _ => none
  | .depotSave _ => none
  | .gangResume _ => none
  | .cometMigration _ _ => none
  | .notifyWrite _ _ => none
  | .headerPollTimer _ => none
  | .launchPacket _ => none
  | .bundlePacket _ => none
  | .waitPacket _ => none
  | .waitPollTimer _ => none
  | .skipPacket _ => none
  | .copyPacket _ => none
  | .quantisePacket _ => none
  | .launchStart _ => none
  | .blockDispatch _ _ => none
  | .launchRetire _ => none
  | .mgSemaWrite _ _ => none
  | .mgPkgidWrite _ _ => none
  | .mkIntvWrite _ _ => none
  | .mkFloorWrite _ _ _ => none
  | .cxTenantWrite _ _ _ => none
  | .jsCmdOpen _ _ _ => none
  | .jsCmdClose _ _ _ => none
  | .qcCfgWrite _ _ _ => none
  | .csrWrite _ _ _ => none
  | .rmaWrite _ => none
  | .rmaRead _ => none
  | .rodConnectionFailure _ => none
  | .emitDeliveryAck _ => none
  | .emitDeliveryTimeout _ => none
  | .journalRecordAccept _ => none
  | .partnerReassign _ _ _ => none
  | .nopartnerTimeout _ => none
  | .partnerSilenceTimer _ => none
  | .sourceAckTimer _ => none
  | .probeTimeout _ => none
  | .liveTimer _ => none
  | .linkSilenceTimeout _ => none
  | .flitCrcError _ => none
  | .linkLockLoss _ => none
  | .linkRetrainDone _ _ => none
  | .planeAckTimeout _ _ => none
  | .planeProbeTimer _ _ => none
  | .routeReturn _ => none
  | .live _ => none
  | .rdreq _ => none
  | .rdrsp _ => none
  | .pwr _ => none
  | .evict _ => none
  | .inv _ => none
  | .atom _ => none
  | .atrsp _ => none
  | .flush _ => none
  | .flrsp _ => none
  | .mcast _ => none
  | .red _ => none
  | .pricePacket _ => none
  | .jrec _ => none
  | .jack _ => none
  | .ewr _ => none
  | .eack _ => none
  | .probe _ => none
  | .prsp _ => none
  | .powerGood => none
  | .bringupStageDone _ => none
  | .bringupStageTimeout _ => none
  | .illegalWord _ _ => none
  | .fetchFault _ _ => none
  | .accessAtHome _ _ => none
  | .endToEndAcknowledgement _ _ _ => none
  | .takeoverReportSendComplete _ => none
  | .attestationRequest _ => none
  | .powerLoss => none

/-- Well-formed: no field value is refused. -/
def Instr.wf (i : Instr) : Bool := i.defect.isNone

end Sys2Proof
end

