-- ==== Sys2Proof/Decode.lean ====
section
/-! DEFINITION. From words to instructions and back (chapter 06). Decoding is total: a word that is not an
instruction use is rejected by the name of its ILLEGAL sub-cause.
The section is noncomputable because Lean's compiler cannot build constructors beyond tag 244 of one inductive type;
Lean's kernel evaluates every definition here (log 1). -/
noncomputable section
namespace Sys2Proof

/-- Why a word is not an instruction use: sub-causes 1 to 4 of Table 23.1. -/
inductive DecodeError where
  | major | minor | zeroBit | fieldVal
  deriving DecidableEq, Repr

/-- The outcome of decoding one word. -/
inductive Decoded where
  | ok (i : Instr)
  | error (e : DecodeError)
  deriving DecidableEq, Repr

/-- The number of the sub-cause (Table 23.1). -/
def DecodeError.code : DecodeError → Nat
  | .major => 1 | .minor => 2 | .zeroBit => 3 | .fieldVal => 4

/-- The six formats (Table 06.1). -/
inductive Format where
  | T | S | J | M | X | H
  deriving DecidableEq, Repr

/-- `n` bits of the word from bit `lo` up, as a field of that width (R2). -/
def field (w n lo : Nat) : Fin (2 ^ n) := ⟨w / 2 ^ lo % 2 ^ n, Nat.mod_lt _ (Nat.two_pow_pos n)⟩

/-- One bit of the word. -/
def flag (w lo : Nat) : Bool := w / 2 ^ lo % 2 == 1

/-- A bit as a number. -/
def bit (b : Bool) : Nat := if b then 1 else 0

/-- A three-bit register number in a six-bit field (R95). -/
def up8 (p : Fin 8) : Fin 64 := ⟨p.val, by omega⟩

/-- The three low bits of a six-bit field (R95). -/
def low8 (d : Fin 64) : Fin 8 := ⟨d.val % 8, by omega⟩

/-- The four low bits of a six-bit field (R95). -/
def low16 (d : Fin 64) : Fin 16 := ⟨d.val % 16, by omega⟩

/-- The fields of a format-T word but op and f. -/
structure TF where
  (d a b : Fin 64) (q : Fin 8) (ea eb : Bool)
  deriving DecidableEq, Repr

/-- The major alone determines the format (R92, Table 06.7); none for the reserved majors of R105. -/
def formatOf (op : Nat) : Option Format :=
  if op = 0x7F then some .H
  else if 0x01 ≤ op ∧ op ≤ 0x08 then some .T
  else if 0x09 ≤ op ∧ op ≤ 0x0F then some .S
  else if 0x10 ≤ op ∧ op ≤ 0x16 then some .J
  else if 0x17 ≤ op ∧ op ≤ 0x1A then some .X
  else if 0x20 ≤ op ∧ op ≤ 0x2E then some .T
  else if 0x30 ≤ op ∧ op ≤ 0x3B then some .T
  else if 0x40 ≤ op ∧ op ≤ 0x4A then some .M
  else if 0x4B ≤ op ∧ op ≤ 0x4E then some .S
  else if op = 0x50 ∨ op = 0x55 ∨ op = 0x56 ∨ op = 0x58 ∨ op = 0x5A ∨ op = 0x5B ∨ op = 0x60 ∨ op = 0x6C ∨ op = 0x6D
    then some .X
  else if 0x51 ≤ op ∧ op ≤ 0x54 then some .T
  else if op = 0x59 then some .M
  else none

/-! Each helper below builds an instruction from the fields it uses and says whether every field it does not use is
zero (R111). -/

def tS3 (mk : S3 → Instr) (t : TF) : Option (Instr × Bool) := some (mk ⟨t.d, t.a, t.b, t.ea, t.eb⟩, t.q == 0)
def tS2 (mk : S2 → Instr) (t : TF) : Option (Instr × Bool) :=
  some (mk ⟨t.d, t.a, t.ea⟩, t.b == 0 && t.q == 0 && !t.eb)
def tV3 (mk : V3 → Instr) (t : TF) : Option (Instr × Bool) := some (mk ⟨t.d, t.a, t.b, t.q, t.ea, t.eb⟩, true)
def tP3 (mk : P3 → Instr) (t : TF) : Option (Instr × Bool) :=
  some (mk ⟨low8 t.d, t.a, t.b, t.q, t.ea, t.eb⟩, decide (t.d.val < 8))
def tV2 (mk : V2 → Instr) (t : TF) : Option (Instr × Bool) := some (mk ⟨t.d, t.a, t.q, t.ea⟩, t.b == 0 && !t.eb)
def tPA (mk : PA → Instr) (t : TF) : Option (Instr × Bool) :=
  some (mk ⟨t.d, low8 t.a, t.q, t.ea⟩, decide (t.a.val < 8) && t.b == 0 && !t.eb)

/-- Majors of format T (Table 06.7). -/
def decodeT : Nat → Nat → TF → Option (Instr × Bool)
  | 0x01, 0, t => tS3 .add t
  | 0x01, 1, t => tS3 .sub t
  | 0x01, 2, t => tS3 .mul t
  | 0x01, 3, t => tS3 .mulh t
  | 0x02, 0, t => tS3 .div t
  | 0x02, 1, t => tS3 .divn t
  | 0x02, 2, t => tS3 .rem t
  | 0x02, 3, t => tS3 .remn t
  | 0x03, 0, t => tS3 .and t
  | 0x03, 1, t => tS3 .or t
  | 0x03, 2, t => tS3 .xor t
  | 0x03, 3, t => tS3 .andn t
  | 0x04, 0, t => tS3 .shl t
  | 0x04, 1, t => tS3 .shr t
  | 0x04, 2, t => tS3 .sha t
  | 0x04, 3, t => tS3 .rot t
  | 0x05, 0, t => tS3 .min t
  | 0x05, 1, t => tS3 .max t
  | 0x05, 2, t => tS3 .minn t
  | 0x05, 3, t => tS3 .maxn t
  | 0x06, 0, t => tS3 .seq t
  | 0x06, 1, t => tS3 .slt t
  | 0x06, 2, t => tS3 .sltn t
  | 0x06, 3, t => tS3 .sne t
  | 0x07, 0, t => tS2 .popc t
  | 0x07, 1, t => tS2 .clz t
  | 0x07, 2, t => tS2 .ctz t
  | 0x07, 3, t => tS2 .brev t
  | 0x08, 0, t => tS3 .bfx t
  | 0x08, 1, t => tS3 .bfi t
  | 0x08, 2, t => tS2 .mov t
  | 0x20, 0, t => tV3 .vaddI64 t
  | 0x20, 1, t => tV3 .vaddI32 t
  | 0x20, 2, t => tV3 .vaddP16 t
  | 0x20, 3, t => tV3 .vaddP8 t
  | 0x21, 0, t => tV3 .vsubI64 t
  | 0x21, 1, t => tV3 .vsubI32 t
  | 0x21, 2, t => tV3 .vsubP16 t
  | 0x21, 3, t => tV3 .vsubP8 t
  | 0x22, 0, t => tV3 .vmulI64 t
  | 0x22, 1, t => tV3 .vmulI32 t
  | 0x22, 2, t => tV3 .vmulP16 t
  | 0x22, 3, t => tV3 .vmulhI64 t
  | 0x23, 0, t => tV3 .vminI64 t
  | 0x23, 1, t => tV3 .vminI32 t
  | 0x23, 2, t => tV3 .vminP16 t
  | 0x23, 3, t => tV3 .vminN32 t
  | 0x24, 0, t => tV3 .vmaxI64 t
  | 0x24, 1, t => tV3 .vmaxI32 t
  | 0x24, 2, t => tV3 .vmaxP16 t
  | 0x24, 3, t => tV3 .vmaxN32 t
  | 0x25, 0, t => tV3 .vaddsP16 t
  | 0x25, 1, t => tV3 .vaddsP16n t
  | 0x25, 2, t => tV3 .vaddsP8 t
  | 0x25, 3, t => tV3 .vaddsP8n t
  | 0x26, 0, t => tV3 .vand t
  | 0x26, 1, t => tV3 .vor t
  | 0x26, 2, t => tV3 .vxor t
  | 0x26, 3, t => tV3 .vandn t
  | 0x27, 0, t => tV3 .vshl t
  | 0x27, 1, t => tV3 .vshr t
  | 0x27, 2, t => tV3 .vsha t
  | 0x27, 3, t => tV3 .vrot t
  | 0x28, 0, t => tP3 .vcmpEqI64 t
  | 0x28, 1, t => tP3 .vcmpLtI64 t
  | 0x28, 2, t => tP3 .vcmpLtnI64 t
  | 0x28, 3, t => tP3 .vcmpLeI64 t
  | 0x29, 0, t => tP3 .vcmpEqI32 t
  | 0x29, 1, t => tP3 .vcmpLtI32 t
  | 0x29, 2, t => tV3 .vcmpmGtP16 t
  | 0x29, 3, t => tV3 .vcmpmEqP16 t
  | 0x2A, 0, t => tV3 .vsel t
  | 0x2A, 1, t => tV3 .vbsl t
  | 0x2A, 2, t => tV2 .vpackmP16 t
  | 0x2A, 3, t => tPA .vpopc t
  | 0x2B, 0, t => tV2 .vmov t
  | 0x2B, 1, t => tV2 .vbcast t
  | 0x2B, 2, t => tS3 .vext t
  | 0x2B, 3, t => tV3 .vins t
  | 0x2C, 0, t => tV3 .vshfl t
  | 0x2C, 1, t => tV3 .vshup t
  | 0x2C, 2, t => tV3 .vlane t
  | 0x2C, 3, t => tV3 .vswzP16 t
  | 0x2D, 0, t => tV2 .vrsumI64 t
  | 0x2D, 1, t => tV2 .vrminI64 t
  | 0x2D, 2, t => tV2 .vrmaxI64 t
  | 0x2D, 3, t => tV2 .vargmaxF t
  | 0x2E, 0, t => tV2 .vscanI32 t
  | 0x2E, 1, t => tV2 .vrsumD t
  | 0x2E, 2, t => tV2 .vrsumF t
  | 0x2E, 3, t => tPA .vcount t
  | 0x30, 0, t => tV3 .vfaddD t
  | 0x30, 1, t => tV3 .vfaddF t
  | 0x30, 2, t => tV3 .vfaddH4 t
  | 0x30, 3, t => tV3 .vfaddB4 t
  | 0x31, 0, t => tV3 .vfsubD t
  | 0x31, 1, t => tV3 .vfsubF t
  | 0x31, 2, t => tV3 .vfsubH4 t
  | 0x31, 3, t => tV3 .vfsubB4 t
  | 0x32, 0, t => tV3 .vfmulD t
  | 0x32, 1, t => tV3 .vfmulF t
  | 0x32, 2, t => tV3 .vfmulH4 t
  | 0x32, 3, t => tV3 .vfmulB4 t
  | 0x33, 0, t => tV3 .vfmaD t
  | 0x33, 1, t => tV3 .vfmaF t
  | 0x33, 2, t => tV3 .vfmaH4 t
  | 0x33, 3, t => tV3 .vfmaB4 t
  | 0x34, 0, t => tV3 .vfminD t
  | 0x34, 1, t => tV3 .vfmaxD t
  | 0x34, 2, t => tV3 .vfminF t
  | 0x34, 3, t => tV3 .vfmaxF t
  | 0x35, 0, t => tV3 .vfdivD t
  | 0x35, 1, t => tV3 .vfdivF t
  | 0x35, 2, t => tV2 .vfsqrtD t
  | 0x35, 3, t => tV2 .vfsqrtF t
  | 0x36, 0, t => tP3 .vfcmpEqD t
  | 0x36, 1, t => tP3 .vfcmpLtD t
  | 0x36, 2, t => tP3 .vfcmpLeD t
  | 0x36, 3, t => tP3 .vfcmpUnD t
  | 0x37, 0, t => tP3 .vfcmpEqF t
  | 0x37, 1, t => tP3 .vfcmpLtF t
  | 0x37, 2, t => tP3 .vfcmpLeF t
  | 0x37, 3, t => tP3 .vfcmpUnF t
  | 0x38, 0, t => some (.vcvt ⟨t.d, t.a, t.b, t.q, t.ea, 0⟩, !t.eb)
  | 0x38, 1, t => some (.vcvt ⟨t.d, t.a, t.b, t.q, t.ea, 1⟩, !t.eb)
  | 0x38, 2, t => some (.vcvt ⟨t.d, t.a, t.b, t.q, t.ea, 2⟩, !t.eb)
  | 0x38, 3, t => some (.vcvt ⟨t.d, t.a, t.b, t.q, t.ea, 3⟩, !t.eb)
  | 0x39, 0, t => tV2 .vfrintD t
  | 0x39, 1, t => tV2 .vfrintF t
  | 0x39, 2, t => tV2 .vfclassD t
  | 0x39, 3, t => tV2 .vfclassF t
  | 0x3A, 0, t => tV2 .vrcpF t
  | 0x3A, 1, t => tV2 .vrsqF t
  | 0x3A, 2, t => tV2 .vexp2F t
  | 0x3A, 3, t => tV2 .vlog2F t
  | 0x3B, 0, t => tV3 .vrng t
  | 0x51, 0, t => tV3 .vatomAddI32 t
  | 0x51, 1, t => tV3 .vatomMinI32 t
  | 0x51, 2, t => tV3 .vatomMaxI32 t
  | 0x51, 3, t => tV3 .vatomXchgI32 t
  | 0x52, 0, t => tV3 .vatomAddI64 t
  | 0x52, 1, t => tV3 .vatomMinI64 t
  | 0x52, 2, t => tV3 .vatomMaxI64 t
  | 0x52, 3, t => tV3 .vatomXchgI64 t
  | 0x53, 0, t => tV3 .vatomAddF t
  | 0x53, 1, t => tV3 .vatomAddD t
  | 0x53, 2, t => tV3 .vatomAndI64 t
  | 0x53, 3, t => tV3 .vatomOrI64 t
  | 0x54, 0, t => tV3 .vcasI32 t
  | 0x54, 1, t => tV3 .vcasI64 t
  | _, _, _ => none

/-- The four `SHI` forms, by imm[12:11] (R100, R122). -/
def shiftImm (k : Nat) (o : Sh) : Instr :=
  match k with
  | 0 => .shli o | 1 => .shri o | 2 => .shai o | _ => .roti o

/-- Majors of format S (Table 06.7). -/
def decodeS : Nat → Fin 64 → Fin 64 → Nat → Option (Instr × Bool)
  | 0x09, d, a, i => some (.addi ⟨d, a, BitVec.ofNat 13 i⟩, true)
  | 0x0A, d, a, i => some (.andi ⟨d, a, BitVec.ofNat 13 i⟩, true)
  | 0x0B, d, a, i => some (.ori ⟨d, a, BitVec.ofNat 13 i⟩, true)
  | 0x0C, d, a, i => some (.xori ⟨d, a, BitVec.ofNat 13 i⟩, true)
  | 0x0D, d, a, i => some (shiftImm (i / 2048) ⟨d, a, field i 6 0⟩, i / 64 % 32 == 0)
  | 0x0E, d, a, i => some (.li d (BitVec.ofNat 13 i), a == 0)
  | 0x0F, d, a, i => some (.lih ⟨d, a, BitVec.ofNat 13 i⟩, true)
  | 0x4B, d, a, i => some (.ldkD ⟨d, a, BitVec.ofNat 13 i⟩, true)
  | 0x4C, d, a, i => some (.ldkW ⟨d, a, BitVec.ofNat 13 i⟩, true)
  | 0x4D, d, a, i => some (.stkD ⟨d, a, BitVec.ofNat 13 i⟩, true)
  | 0x4E, d, a, i => some (.stkW ⟨d, a, BitVec.ofNat 13 i⟩, true)
  | _, _, _, _ => none

/-- `BR.V` and `BR.U` words: c[5] is the polarity, c[4:3] must be zero (R54, R101). -/
def branch (pos neg : Fin 8 → BitVec 19 → Instr) (c : Fin 64) (disp : BitVec 19) : Instr × Bool :=
  (if c.val / 32 = 0 then pos (low8 c) disp else neg (low8 c) disp, c.val / 8 % 4 == 0)

/-- Majors of format J (Table 06.5). -/
def decodeJ : Nat → Fin 64 → BitVec 19 → Option (Instr × Bool)
  | 0x10, c, s => some (.jmp s, c == 0)
  | 0x11, c, s => some (.call c s, true)
  | 0x12, c, s => some (.bz c s, true)
  | 0x13, c, s => some (.bnz c s, true)
  | 0x14, c, s => some (branch .brV .brVn c s)
  | 0x15, c, s => some (branch .brU .brUn c s)
  | 0x16, c, s => some (.brk ⟨c.val / 8, by omega⟩ (low8 c) s, true)
  | _, _, _ => none

/-- Majors of format M (Table 06.7). A `CPY.L` word with m = 1 is refused with FIELDVAL below (R378). -/
def decodeM : Nat → M → Option (Instr × Bool)
  | 0x40, o => some (.vldD o, true)
  | 0x41, o => some (.vldW o, true)
  | 0x42, o => some (.vldH o, true)
  | 0x43, o => some (.vldB o, true)
  | 0x44, o => some (.vstD o, true)
  | 0x45, o => some (.vstW o, true)
  | 0x46, o => some (.vstH o, true)
  | 0x47, o => some (.vstB o, true)
  | 0x48, o => some (.sld o, true)
  | 0x49, o => some (.sst o, true)
  | 0x4A, o => some (.pref ⟨o.k, o.x, o.q, o.et, o.cp, o.m⟩, o.t == 0)
  | 0x59, o => some (.cpyL ⟨o.t, o.k, o.x, o.q, o.et, o.cp⟩, true)
  | _, _ => none

def xDAB (mk : Fin 64 → Fin 64 → Fin 64 → Instr) (d a b : Fin 64) : Option (Instr × Bool) := some (mk d a b, true)
def xDA (mk : Fin 64 → Fin 64 → Instr) (d a b : Fin 64) : Option (Instr × Bool) := some (mk d a, b == 0)
def xAB (mk : Fin 64 → Fin 64 → Instr) (d a b : Fin 64) : Option (Instr × Bool) := some (mk a b, d == 0)
def xDB (mk : Fin 64 → Fin 64 → Instr) (d a b : Fin 64) : Option (Instr × Bool) := some (mk d b, a == 0)
def xA (mk : Fin 64 → Instr) (d a b : Fin 64) : Option (Instr × Bool) := some (mk a, d == 0 && b == 0)
def xB (mk : Fin 64 → Instr) (d a b : Fin 64) : Option (Instr × Bool) := some (mk b, d == 0 && a == 0)
def x0 (i : Instr) (d a b : Fin 64) : Option (Instr × Bool) := some (i, d == 0 && a == 0 && b == 0)
def xT2 (mk : Fin 16 → Fin 64 → Fin 64 → Instr) (d a b : Fin 64) : Option (Instr × Bool) :=
  some (mk (low16 d) a b, decide (d.val < 16))
def xTT (mk : Fin 16 → Fin 16 → Fin 64 → Instr) (d a b : Fin 64) : Option (Instr × Bool) :=
  some (mk (low16 d) (low16 a) b, decide (d.val < 16) && decide (a.val < 16))
def xTA (mk : Fin 16 → Fin 64 → Instr) (d a b : Fin 64) : Option (Instr × Bool) :=
  some (mk (low16 d) a, decide (d.val < 16) && b == 0)
def xT (mk : Fin 16 → Instr) (d a b : Fin 64) : Option (Instr × Bool) :=
  some (mk (low16 d), decide (d.val < 16) && a == 0 && b == 0)
def xST (mk : Fin 64 → Fin 16 → Fin 64 → Instr) (d a b : Fin 64) : Option (Instr × Bool) :=
  some (mk d (low16 a) b, decide (a.val < 16))

/-- Majors of format X (Table 06.7). -/
def decodeX : Nat → Nat → Fin 64 → Fin 64 → Fin 64 → Option (Instr × Bool)
  | 0x17, 0, d, a, b => xDA .jr d a b
  | 0x17, 1, d, a, b => x0 .exit d a b
  | 0x17, 2, d, a, b => x0 .exitV d a b
  | 0x17, 3, d, a, b => xDA .setfmt d a b
  | 0x17, 4, d, a, b => xDAB .win d a b
  | 0x17, 5, d, a, b => x0 .nop d a b
  | 0x17, 6, d, a, b => x0 .yield d a b
  | 0x18, 0, d, a, b => xDA .get d a b
  | 0x18, 1, d, a, b => xDA .set d a b
  | 0x18, 2, d, a, b => xAB .trap d a b
  | 0x18, 3, d, a, b => xDA .rett d a b
  | 0x18, 4, d, a, b => xDA .csrr d a b
  | 0x18, 5, d, a, b => xAB .csrw d a b
  | 0x18, 6, d, a, b => xDAB .tlbinv d a b
  | 0x18, 7, d, a, b => xDA .halt d a b
  | 0x19, 0, d, a, b => xB .barB d a b
  | 0x19, 1, d, a, b => xB .baraB d a b
  | 0x19, 2, d, a, b => xB .barwB d a b
  | 0x19, 3, d, a, b => xB .barG d a b
  | 0x19, 4, d, a, b => xB .baraG d a b
  | 0x19, 5, d, a, b => xB .barwG d a b
  | 0x1A, 0, d, a, b => x0 .fenceAcq d a b
  | 0x1A, 1, d, a, b => x0 .fenceRel d a b
  | 0x1A, 2, d, a, b => x0 .fenceAr d a b
  | 0x1A, 3, d, a, b => x0 .fenceEng d a b
  | 0x1A, 4, d, a, b => xAB .fenceFlag d a b
  | 0x1A, 5, d, a, b => xA .flushr d a b
  | 0x50, 0, d, a, b => xDA .ldkAcq d a b
  | 0x50, 1, d, a, b => xAB .stkRel d a b
  | 0x50, 2, d, a, b => xDAB .vldAcq d a b
  | 0x50, 3, d, a, b => xDAB .vstRel d a b
  | 0x55, 0, d, a, b => xDAB .atomkAdd d a b
  | 0x55, 1, d, a, b => xDAB .atomkXchg d a b
  | 0x55, 2, d, a, b => xDAB .cask d a b
  | 0x55, 3, d, a, b => xDAB .atomkFadd d a b
  | 0x56, 0, d, a, b => xA .lock d a b
  | 0x56, 1, d, a, b => xA .unlock d a b
  | 0x56, 2, d, a, b => xDAB .waitm d a b
  | 0x56, 3, d, a, b => xAB .xpect d a b
  | 0x56, 4, d, a, b => xAB .waitc d a b
  | 0x56, 5, d, a, b => xA .arst d a b
  | 0x58, 0, d, a, b => xDAB .cpyT d a b
  | 0x58, 1, d, a, b => xDAB .cpyTs d a b
  | 0x58, 2, d, a, b => xDA .cpyRed d a b
  | 0x58, 3, d, a, b => xDA .cpyRem d a b
  | 0x5A, 0, d, a, b => xDA .qntEnc d a b
  | 0x5A, 1, d, a, b => xDA .qntDec d a b
  | 0x5A, 2, d, a, b => xDA .gath d a b
  | 0x5B, 0, d, a, b => xDAB .gcsr d a b
  | 0x60, 0, d, a, b => xDA .mlda d a b
  | 0x60, 1, d, a, b => xDA .mldb d a b
  | 0x60, 2, d, a, b => xT2 .mma d a b
  | 0x60, 3, d, a, b => xTT .mmaC d a b
  | 0x60, 4, d, a, b => xTA .mmaS d a b
  | 0x60, 5, d, a, b => xT .mzero d a b
  | 0x60, 6, d, a, b => xST .mst d a b
  | 0x60, 7, d, a, b => x0 .mfence d a b
  | 0x60, 8, d, a, b => xAB .mwait d a b
  | 0x60, 9, d, a, b => xDB .mprog d a b
  | 0x6C, 0, d, a, b => xAB .bid d a b
  | 0x6C, 1, d, a, b => xDB .bidr d a b
  | 0x6C, 2, d, a, b => xDB .price d a b
  | 0x6C, 3, d, a, b => xDB .lease d a b
  | 0x6C, 4, d, a, b => xDAB .peerp d a b
  | 0x6D, 0, d, a, b => xDAB .jnlX d a b
  | 0x6D, 1, d, a, b => xAB .jmark d a b
  | 0x6D, 2, d, a, b => xA .jtrunc d a b
  | 0x6D, 3, d, a, b => xDAB .emit d a b
  | 0x6D, 4, d, a, b => xDAB .jstat d a b
  | _, _, _, _, _ => none

/-- Hint kinds (Table 06.6) by payload; kinds 5 to 15 are reserved field values (R102, Table 23.1). -/
def decodeH (kind payload : Nat) : Option (Instr × Bool) :=
  match kind with
  | 0 => some (.hx (BitVec.ofNat 21 payload), true)
  | 1 => some (.hj (BitVec.ofNat 21 payload), true)
  | 2 => some (.hs ⟨payload / 4 % 32, by omega⟩ ⟨payload % 4, by omega⟩, payload / 128 == 0)
  | 3 => some (.hp ⟨payload % 8, by omega⟩, payload / 8 == 0)
  | 4 => some (.hc ⟨payload % 4, by omega⟩, payload / 4 == 0)
  | _ => none

/-- The lowest sub-cause of a candidate instruction (R373): MINOR before ZEROBIT before FIELDVAL. -/
def settle (r : Instr × Bool) : Decoded :=
  match r.1.defect with
  | none => if r.2 then .ok r.1 else .error .zeroBit
  | some c => if c = 2 then .error .minor else if c = 3 ∨ !r.2 then .error .zeroBit else .error .fieldVal

/-- A reserved minor is MINOR (R105, Table 23.1). -/
def settleMinor : Option (Instr × Bool) → Decoded
  | none => .error .minor
  | some r => settle r

/-- The instruction a 32-bit word stands for, or the sub-cause that refuses it (R92 to R107, R374). -/
def decodeWord (w : Nat) : Decoded :=
  match formatOf (w / 2 ^ 25 % 128) with
  | none => .error .major
  | some .T => settleMinor (decodeT (w / 2 ^ 25 % 128) (w % 4)
      ⟨field w 6 19, field w 6 13, field w 6 7, field w 3 4, flag w 3, flag w 2⟩)
  | some .S => settleMinor (decodeS (w / 2 ^ 25 % 128) (field w 6 19) (field w 6 13) (w % 2 ^ 13))
  | some .J => settleMinor (decodeJ (w / 2 ^ 25 % 128) (field w 6 19) (BitVec.ofNat 19 w))
  | some .M =>
    if w / 2 ^ 25 % 128 = 0x59 ∧ w % 2 = 1 then .error .fieldVal
    else settleMinor (decodeM (w / 2 ^ 25 % 128)
      ⟨field w 6 19, field w 6 13, field w 6 7, field w 3 4, flag w 3, field w 2 1, flag w 0⟩)
  | some .X => settleMinor (decodeX (w / 2 ^ 25 % 128) (w % 128) (field w 6 19) (field w 6 13) (field w 6 7))
  | some .H =>
    match decodeH (w / 2 ^ 21 % 16) (w % 2 ^ 21) with
    | none => .error .fieldVal
    | some r => settle r

/-- The first four bytes, little-endian, as a word (R2, R92). -/
def wordOfBytes : List Byte → Option Nat
  | b0 :: b1 :: b2 :: b3 :: _ => some (b0.toNat + 2 ^ 8 * b1.toNat + 2 ^ 16 * b2.toNat + 2 ^ 24 * b3.toNat)
  | _ => none

/-- The four bytes of a word as the part stores them (R2, R92). -/
def bytesOfWord (w : Nat) : List Byte :=
  [BitVec.ofNat 8 w, BitVec.ofNat 8 (w / 2 ^ 8), BitVec.ofNat 8 (w / 2 ^ 16), BitVec.ofNat 8 (w / 2 ^ 24)]

/-- Decode an instruction at the head of a byte list. -/
def decodeBytes (bs : List Byte) : Option Instr :=
  match wordOfBytes bs with
  | none => none
  | some w => match decodeWord w with
    | .ok i => some i
    | .error _ => none

/-- The decoder on a word numbered as spec/opcode_table.json numbers it; every row is one 32-bit word. -/
def decodeTableWord (nbits w : Nat) : Option Instr :=
  if nbits ≤ 32 then decodeBytes (bytesOfWord (w % 2 ^ nbits)) else none

/-! The encoder, written from the same tables. -/

def wordT (op f : Nat) (t : TF) : Nat :=
  op * 2 ^ 25 + t.d.val * 2 ^ 19 + t.a.val * 2 ^ 13 + t.b.val * 2 ^ 7 + t.q.val * 2 ^ 4 + bit t.ea * 8 + bit t.eb * 4 + f
def wordS (op : Nat) (d a : Fin 64) (imm : Nat) : Nat := op * 2 ^ 25 + d.val * 2 ^ 19 + a.val * 2 ^ 13 + imm
def wordJ (op c disp : Nat) : Nat := op * 2 ^ 25 + c * 2 ^ 19 + disp
def wordM (op : Nat) (t k x : Fin 64) (q : Fin 8) (et : Bool) (cp : Fin 4) (m : Bool) : Nat :=
  op * 2 ^ 25 + t.val * 2 ^ 19 + k.val * 2 ^ 13 + x.val * 2 ^ 7 + q.val * 2 ^ 4 + bit et * 8 + cp.val * 2 + bit m
def wordX (op sub d a b : Nat) : Nat := op * 2 ^ 25 + d * 2 ^ 19 + a * 2 ^ 13 + b * 2 ^ 7 + sub
def wordH (kind payload : Nat) : Nat := 0x7F * 2 ^ 25 + kind * 2 ^ 21 + payload

/-- The word of an instruction; none for the event rows, which have no bits. -/
def Instr.word : Instr → Option Nat
  | .add o => some (wordT 0x01 0 ⟨o.d, o.a, o.b, 0, o.ea, o.eb⟩)
  | .sub o => some (wordT 0x01 1 ⟨o.d, o.a, o.b, 0, o.ea, o.eb⟩)
  | .mul o => some (wordT 0x01 2 ⟨o.d, o.a, o.b, 0, o.ea, o.eb⟩)
  | .mulh o => some (wordT 0x01 3 ⟨o.d, o.a, o.b, 0, o.ea, o.eb⟩)
  | .div o => some (wordT 0x02 0 ⟨o.d, o.a, o.b, 0, o.ea, o.eb⟩)
  | .divn o => some (wordT 0x02 1 ⟨o.d, o.a, o.b, 0, o.ea, o.eb⟩)
  | .rem o => some (wordT 0x02 2 ⟨o.d, o.a, o.b, 0, o.ea, o.eb⟩)
  | .remn o => some (wordT 0x02 3 ⟨o.d, o.a, o.b, 0, o.ea, o.eb⟩)
  | .and o => some (wordT 0x03 0 ⟨o.d, o.a, o.b, 0, o.ea, o.eb⟩)
  | .or o => some (wordT 0x03 1 ⟨o.d, o.a, o.b, 0, o.ea, o.eb⟩)
  | .xor o => some (wordT 0x03 2 ⟨o.d, o.a, o.b, 0, o.ea, o.eb⟩)
  | .andn o => some (wordT 0x03 3 ⟨o.d, o.a, o.b, 0, o.ea, o.eb⟩)
  | .shl o => some (wordT 0x04 0 ⟨o.d, o.a, o.b, 0, o.ea, o.eb⟩)
  | .shr o => some (wordT 0x04 1 ⟨o.d, o.a, o.b, 0, o.ea, o.eb⟩)
  | .sha o => some (wordT 0x04 2 ⟨o.d, o.a, o.b, 0, o.ea, o.eb⟩)
  | .rot o => some (wordT 0x04 3 ⟨o.d, o.a, o.b, 0, o.ea, o.eb⟩)
  | .min o => some (wordT 0x05 0 ⟨o.d, o.a, o.b, 0, o.ea, o.eb⟩)
  | .max o => some (wordT 0x05 1 ⟨o.d, o.a, o.b, 0, o.ea, o.eb⟩)
  | .minn o => some (wordT 0x05 2 ⟨o.d, o.a, o.b, 0, o.ea, o.eb⟩)
  | .maxn o => some (wordT 0x05 3 ⟨o.d, o.a, o.b, 0, o.ea, o.eb⟩)
  | .seq o => some (wordT 0x06 0 ⟨o.d, o.a, o.b, 0, o.ea, o.eb⟩)
  | .slt o => some (wordT 0x06 1 ⟨o.d, o.a, o.b, 0, o.ea, o.eb⟩)
  | .sltn o => some (wordT 0x06 2 ⟨o.d, o.a, o.b, 0, o.ea, o.eb⟩)
  | .sne o => some (wordT 0x06 3 ⟨o.d, o.a, o.b, 0, o.ea, o.eb⟩)
  | .popc o => some (wordT 0x07 0 ⟨o.d, o.a, 0, 0, o.ea, false⟩)
  | .clz o => some (wordT 0x07 1 ⟨o.d, o.a, 0, 0, o.ea, false⟩)
  | .ctz o => some (wordT 0x07 2 ⟨o.d, o.a, 0, 0, o.ea, false⟩)
  | .brev o => some (wordT 0x07 3 ⟨o.d, o.a, 0, 0, o.ea, false⟩)
  | .bfx o => some (wordT 0x08 0 ⟨o.d, o.a, o.b, 0, o.ea, o.eb⟩)
  | .bfi o => some (wordT 0x08 1 ⟨o.d, o.a, o.b, 0, o.ea, o.eb⟩)
  | .mov o => some (wordT 0x08 2 ⟨o.d, o.a, 0, 0, o.ea, false⟩)
  | .addi o => some (wordS 0x09 o.d o.a o.imm.toNat)
  | .andi o => some (wordS 0x0A o.d o.a o.imm.toNat)
  | .ori o => some (wordS 0x0B o.d o.a o.imm.toNat)
  | .xori o => some (wordS 0x0C o.d o.a o.imm.toNat)
  | .shli o => some (wordS 0x0D o.d o.a (0 + o.n.val))
  | .shri o => some (wordS 0x0D o.d o.a (2048 + o.n.val))
  | .shai o => some (wordS 0x0D o.d o.a (4096 + o.n.val))
  | .roti o => some (wordS 0x0D o.d o.a (6144 + o.n.val))
  | .li d imm => some (wordS 0x0E d 0 imm.toNat)
  | .lih o => some (wordS 0x0F o.d o.a o.imm.toNat)
  | .jmp disp => some (wordJ 0x10 0 disp.toNat)
  | .call c disp => some (wordJ 0x11 c.val disp.toNat)
  | .bz c disp => some (wordJ 0x12 c.val disp.toNat)
  | .bnz c disp => some (wordJ 0x13 c.val disp.toNat)
  | .brV p disp => some (wordJ 0x14 (0 + p.val) disp.toNat)
  | .brVn p disp => some (wordJ 0x14 (32 + p.val) disp.toNat)
  | .brU p disp => some (wordJ 0x15 (0 + p.val) disp.toNat)
  | .brUn p disp => some (wordJ 0x15 (32 + p.val) disp.toNat)
  | .brk n p disp => some (wordJ 0x16 (8 * n.val + p.val) disp.toNat)
  | .jr d a => some (wordX 0x17 0 d.val a.val 0)
  | .exit => some (wordX 0x17 1 0 0 0)
  | .exitV => some (wordX 0x17 2 0 0 0)
  | .setfmt d a => some (wordX 0x17 3 d.val a.val 0)
  | .win d a n => some (wordX 0x17 4 d.val a.val n.val)
  | .nop => some (wordX 0x17 5 0 0 0)
  | .yield => some (wordX 0x17 6 0 0 0)
  | .get d num => some (wordX 0x18 0 d.val num.val 0)
  | .set num a => some (wordX 0x18 1 num.val a.val 0)
  | .trap a n => some (wordX 0x18 2 0 a.val n.val)
  | .rett d a => some (wordX 0x18 3 d.val a.val 0)
  | .csrr d a => some (wordX 0x18 4 d.val a.val 0)
  | .csrw a b => some (wordX 0x18 5 0 a.val b.val)
  | .tlbinv mode a b => some (wordX 0x18 6 mode.val a.val b.val)
  | .halt d a => some (wordX 0x18 7 d.val a.val 0)
  | .barB n => some (wordX 0x19 0 0 0 n.val)
  | .baraB n => some (wordX 0x19 1 0 0 n.val)
  | .barwB n => some (wordX 0x19 2 0 0 n.val)
  | .barG n => some (wordX 0x19 3 0 0 n.val)
  | .baraG n => some (wordX 0x19 4 0 0 n.val)
  | .barwG n => some (wordX 0x19 5 0 0 n.val)
  | .fenceAcq => some (wordX 0x1A 0 0 0 0)
  | .fenceRel => some (wordX 0x1A 1 0 0 0)
  | .fenceAr => some (wordX 0x1A 2 0 0 0)
  | .fenceEng => some (wordX 0x1A 3 0 0 0)
  | .fenceFlag a b => some (wordX 0x1A 4 0 a.val b.val)
  | .flushr a => some (wordX 0x1A 5 0 a.val 0)
  | .vaddI64 o => some (wordT 0x20 0 ⟨o.d, o.a, o.b, o.q, o.ea, o.eb⟩)
  | .vaddI32 o => some (wordT 0x20 1 ⟨o.d, o.a, o.b, o.q, o.ea, o.eb⟩)
  | .vaddP16 o => some (wordT 0x20 2 ⟨o.d, o.a, o.b, o.q, o.ea, o.eb⟩)
  | .vaddP8 o => some (wordT 0x20 3 ⟨o.d, o.a, o.b, o.q, o.ea, o.eb⟩)
  | .vsubI64 o => some (wordT 0x21 0 ⟨o.d, o.a, o.b, o.q, o.ea, o.eb⟩)
  | .vsubI32 o => some (wordT 0x21 1 ⟨o.d, o.a, o.b, o.q, o.ea, o.eb⟩)
  | .vsubP16 o => some (wordT 0x21 2 ⟨o.d, o.a, o.b, o.q, o.ea, o.eb⟩)
  | .vsubP8 o => some (wordT 0x21 3 ⟨o.d, o.a, o.b, o.q, o.ea, o.eb⟩)
  | .vmulI64 o => some (wordT 0x22 0 ⟨o.d, o.a, o.b, o.q, o.ea, o.eb⟩)
  | .vmulI32 o => some (wordT 0x22 1 ⟨o.d, o.a, o.b, o.q, o.ea, o.eb⟩)
  | .vmulP16 o => some (wordT 0x22 2 ⟨o.d, o.a, o.b, o.q, o.ea, o.eb⟩)
  | .vmulhI64 o => some (wordT 0x22 3 ⟨o.d, o.a, o.b, o.q, o.ea, o.eb⟩)
  | .vminI64 o => some (wordT 0x23 0 ⟨o.d, o.a, o.b, o.q, o.ea, o.eb⟩)
  | .vminI32 o => some (wordT 0x23 1 ⟨o.d, o.a, o.b, o.q, o.ea, o.eb⟩)
  | .vminP16 o => some (wordT 0x23 2 ⟨o.d, o.a, o.b, o.q, o.ea, o.eb⟩)
  | .vminN32 o => some (wordT 0x23 3 ⟨o.d, o.a, o.b, o.q, o.ea, o.eb⟩)
  | .vmaxI64 o => some (wordT 0x24 0 ⟨o.d, o.a, o.b, o.q, o.ea, o.eb⟩)
  | .vmaxI32 o => some (wordT 0x24 1 ⟨o.d, o.a, o.b, o.q, o.ea, o.eb⟩)
  | .vmaxP16 o => some (wordT 0x24 2 ⟨o.d, o.a, o.b, o.q, o.ea, o.eb⟩)
  | .vmaxN32 o => some (wordT 0x24 3 ⟨o.d, o.a, o.b, o.q, o.ea, o.eb⟩)
  | .vaddsP16 o => some (wordT 0x25 0 ⟨o.d, o.a, o.b, o.q, o.ea, o.eb⟩)
  | .vaddsP16n o => some (wordT 0x25 1 ⟨o.d, o.a, o.b, o.q, o.ea, o.eb⟩)
  | .vaddsP8 o => some (wordT 0x25 2 ⟨o.d, o.a, o.b, o.q, o.ea, o.eb⟩)
  | .vaddsP8n o => some (wordT 0x25 3 ⟨o.d, o.a, o.b, o.q, o.ea, o.eb⟩)
  | .vand o => some (wordT 0x26 0 ⟨o.d, o.a, o.b, o.q, o.ea, o.eb⟩)
  | .vor o => some (wordT 0x26 1 ⟨o.d, o.a, o.b, o.q, o.ea, o.eb⟩)
  | .vxor o => some (wordT 0x26 2 ⟨o.d, o.a, o.b, o.q, o.ea, o.eb⟩)
  | .vandn o => some (wordT 0x26 3 ⟨o.d, o.a, o.b, o.q, o.ea, o.eb⟩)
  | .vshl o => some (wordT 0x27 0 ⟨o.d, o.a, o.b, o.q, o.ea, o.eb⟩)
  | .vshr o => some (wordT 0x27 1 ⟨o.d, o.a, o.b, o.q, o.ea, o.eb⟩)
  | .vsha o => some (wordT 0x27 2 ⟨o.d, o.a, o.b, o.q, o.ea, o.eb⟩)
  | .vrot o => some (wordT 0x27 3 ⟨o.d, o.a, o.b, o.q, o.ea, o.eb⟩)
  | .vcmpEqI64 o => some (wordT 0x28 0 ⟨up8 o.d, o.a, o.b, o.q, o.ea, o.eb⟩)
  | .vcmpLtI64 o => some (wordT 0x28 1 ⟨up8 o.d, o.a, o.b, o.q, o.ea, o.eb⟩)
  | .vcmpLtnI64 o => some (wordT 0x28 2 ⟨up8 o.d, o.a, o.b, o.q, o.ea, o.eb⟩)
  | .vcmpLeI64 o => some (wordT 0x28 3 ⟨up8 o.d, o.a, o.b, o.q, o.ea, o.eb⟩)
  | .vcmpEqI32 o => some (wordT 0x29 0 ⟨up8 o.d, o.a, o.b, o.q, o.ea, o.eb⟩)
  | .vcmpLtI32 o => some (wordT 0x29 1 ⟨up8 o.d, o.a, o.b, o.q, o.ea, o.eb⟩)
  | .vcmpmGtP16 o => some (wordT 0x29 2 ⟨o.d, o.a, o.b, o.q, o.ea, o.eb⟩)
  | .vcmpmEqP16 o => some (wordT 0x29 3 ⟨o.d, o.a, o.b, o.q, o.ea, o.eb⟩)
  | .vsel o => some (wordT 0x2A 0 ⟨o.d, o.a, o.b, o.q, o.ea, o.eb⟩)
  | .vbsl o => some (wordT 0x2A 1 ⟨o.d, o.a, o.b, o.q, o.ea, o.eb⟩)
  | .vpackmP16 o => some (wordT 0x2A 2 ⟨o.d, o.a, 0, o.q, o.ea, false⟩)
  | .vpopc o => some (wordT 0x2A 3 ⟨o.d, up8 o.a, 0, o.q, o.ea, false⟩)
  | .vmov o => some (wordT 0x2B 0 ⟨o.d, o.a, 0, o.q, o.ea, false⟩)
  | .vbcast o => some (wordT 0x2B 1 ⟨o.d, o.a, 0, o.q, o.ea, false⟩)
  | .vext o => some (wordT 0x2B 2 ⟨o.d, o.a, o.b, 0, o.ea, o.eb⟩)
  | .vins o => some (wordT 0x2B 3 ⟨o.d, o.a, o.b, o.q, o.ea, o.eb⟩)
  | .vshfl o => some (wordT 0x2C 0 ⟨o.d, o.a, o.b, o.q, o.ea, o.eb⟩)
  | .vshup o => some (wordT 0x2C 1 ⟨o.d, o.a, o.b, o.q, o.ea, o.eb⟩)
  | .vlane o => some (wordT 0x2C 2 ⟨o.d, o.a, o.b, o.q, o.ea, o.eb⟩)
  | .vswzP16 o => some (wordT 0x2C 3 ⟨o.d, o.a, o.b, o.q, o.ea, o.eb⟩)
  | .vrsumI64 o => some (wordT 0x2D 0 ⟨o.d, o.a, 0, o.q, o.ea, false⟩)
  | .vrminI64 o => some (wordT 0x2D 1 ⟨o.d, o.a, 0, o.q, o.ea, false⟩)
  | .vrmaxI64 o => some (wordT 0x2D 2 ⟨o.d, o.a, 0, o.q, o.ea, false⟩)
  | .vargmaxF o => some (wordT 0x2D 3 ⟨o.d, o.a, 0, o.q, o.ea, false⟩)
  | .vscanI32 o => some (wordT 0x2E 0 ⟨o.d, o.a, 0, o.q, o.ea, false⟩)
  | .vrsumD o => some (wordT 0x2E 1 ⟨o.d, o.a, 0, o.q, o.ea, false⟩)
  | .vrsumF o => some (wordT 0x2E 2 ⟨o.d, o.a, 0, o.q, o.ea, false⟩)
  | .vcount o => some (wordT 0x2E 3 ⟨o.d, up8 o.a, 0, o.q, o.ea, false⟩)
  | .vfaddD o => some (wordT 0x30 0 ⟨o.d, o.a, o.b, o.q, o.ea, o.eb⟩)
  | .vfaddF o => some (wordT 0x30 1 ⟨o.d, o.a, o.b, o.q, o.ea, o.eb⟩)
  | .vfaddH4 o => some (wordT 0x30 2 ⟨o.d, o.a, o.b, o.q, o.ea, o.eb⟩)
  | .vfaddB4 o => some (wordT 0x30 3 ⟨o.d, o.a, o.b, o.q, o.ea, o.eb⟩)
  | .vfsubD o => some (wordT 0x31 0 ⟨o.d, o.a, o.b, o.q, o.ea, o.eb⟩)
  | .vfsubF o => some (wordT 0x31 1 ⟨o.d, o.a, o.b, o.q, o.ea, o.eb⟩)
  | .vfsubH4 o => some (wordT 0x31 2 ⟨o.d, o.a, o.b, o.q, o.ea, o.eb⟩)
  | .vfsubB4 o => some (wordT 0x31 3 ⟨o.d, o.a, o.b, o.q, o.ea, o.eb⟩)
  | .vfmulD o => some (wordT 0x32 0 ⟨o.d, o.a, o.b, o.q, o.ea, o.eb⟩)
  | .vfmulF o => some (wordT 0x32 1 ⟨o.d, o.a, o.b, o.q, o.ea, o.eb⟩)
  | .vfmulH4 o => some (wordT 0x32 2 ⟨o.d, o.a, o.b, o.q, o.ea, o.eb⟩)
  | .vfmulB4 o => some (wordT 0x32 3 ⟨o.d, o.a, o.b, o.q, o.ea, o.eb⟩)
  | .vfmaD o => some (wordT 0x33 0 ⟨o.d, o.a, o.b, o.q, o.ea, o.eb⟩)
  | .vfmaF o => some (wordT 0x33 1 ⟨o.d, o.a, o.b, o.q, o.ea, o.eb⟩)
  | .vfmaH4 o => some (wordT 0x33 2 ⟨o.d, o.a, o.b, o.q, o.ea, o.eb⟩)
  | .vfmaB4 o => some (wordT 0x33 3 ⟨o.d, o.a, o.b, o.q, o.ea, o.eb⟩)
  | .vfminD o => some (wordT 0x34 0 ⟨o.d, o.a, o.b, o.q, o.ea, o.eb⟩)
  | .vfmaxD o => some (wordT 0x34 1 ⟨o.d, o.a, o.b, o.q, o.ea, o.eb⟩)
  | .vfminF o => some (wordT 0x34 2 ⟨o.d, o.a, o.b, o.q, o.ea, o.eb⟩)
  | .vfmaxF o => some (wordT 0x34 3 ⟨o.d, o.a, o.b, o.q, o.ea, o.eb⟩)
  | .vfdivD o => some (wordT 0x35 0 ⟨o.d, o.a, o.b, o.q, o.ea, o.eb⟩)
  | .vfdivF o => some (wordT 0x35 1 ⟨o.d, o.a, o.b, o.q, o.ea, o.eb⟩)
  | .vfsqrtD o => some (wordT 0x35 2 ⟨o.d, o.a, 0, o.q, o.ea, false⟩)
  | .vfsqrtF o => some (wordT 0x35 3 ⟨o.d, o.a, 0, o.q, o.ea, false⟩)
  | .vfcmpEqD o => some (wordT 0x36 0 ⟨up8 o.d, o.a, o.b, o.q, o.ea, o.eb⟩)
  | .vfcmpLtD o => some (wordT 0x36 1 ⟨up8 o.d, o.a, o.b, o.q, o.ea, o.eb⟩)
  | .vfcmpLeD o => some (wordT 0x36 2 ⟨up8 o.d, o.a, o.b, o.q, o.ea, o.eb⟩)
  | .vfcmpUnD o => some (wordT 0x36 3 ⟨up8 o.d, o.a, o.b, o.q, o.ea, o.eb⟩)
  | .vfcmpEqF o => some (wordT 0x37 0 ⟨up8 o.d, o.a, o.b, o.q, o.ea, o.eb⟩)
  | .vfcmpLtF o => some (wordT 0x37 1 ⟨up8 o.d, o.a, o.b, o.q, o.ea, o.eb⟩)
  | .vfcmpLeF o => some (wordT 0x37 2 ⟨up8 o.d, o.a, o.b, o.q, o.ea, o.eb⟩)
  | .vfcmpUnF o => some (wordT 0x37 3 ⟨up8 o.d, o.a, o.b, o.q, o.ea, o.eb⟩)
  | .vcvt o => some (wordT 0x38 o.r ⟨o.d, o.a, o.c, o.q, o.ea, false⟩)
  | .vfrintD o => some (wordT 0x39 0 ⟨o.d, o.a, 0, o.q, o.ea, false⟩)
  | .vfrintF o => some (wordT 0x39 1 ⟨o.d, o.a, 0, o.q, o.ea, false⟩)
  | .vfclassD o => some (wordT 0x39 2 ⟨o.d, o.a, 0, o.q, o.ea, false⟩)
  | .vfclassF o => some (wordT 0x39 3 ⟨o.d, o.a, 0, o.q, o.ea, false⟩)
  | .vrcpF o => some (wordT 0x3A 0 ⟨o.d, o.a, 0, o.q, o.ea, false⟩)
  | .vrsqF o => some (wordT 0x3A 1 ⟨o.d, o.a, 0, o.q, o.ea, false⟩)
  | .vexp2F o => some (wordT 0x3A 2 ⟨o.d, o.a, 0, o.q, o.ea, false⟩)
  | .vlog2F o => some (wordT 0x3A 3 ⟨o.d, o.a, 0, o.q, o.ea, false⟩)
  | .vrng o => some (wordT 0x3B 0 ⟨o.d, o.a, o.b, o.q, o.ea, o.eb⟩)
  | .vldD o => some (wordM 0x40 o.t o.k o.x o.q o.et o.cp o.m)
  | .vldW o => some (wordM 0x41 o.t o.k o.x o.q o.et o.cp o.m)
  | .vldH o => some (wordM 0x42 o.t o.k o.x o.q o.et o.cp o.m)
  | .vldB o => some (wordM 0x43 o.t o.k o.x o.q o.et o.cp o.m)
  | .vstD o => some (wordM 0x44 o.t o.k o.x o.q o.et o.cp o.m)
  | .vstW o => some (wordM 0x45 o.t o.k o.x o.q o.et o.cp o.m)
  | .vstH o => some (wordM 0x46 o.t o.k o.x o.q o.et o.cp o.m)
  | .vstB o => some (wordM 0x47 o.t o.k o.x o.q o.et o.cp o.m)
  | .sld o => some (wordM 0x48 o.t o.k o.x o.q o.et o.cp o.m)
  | .sst o => some (wordM 0x49 o.t o.k o.x o.q o.et o.cp o.m)
  | .pref o => some (wordM 0x4A 0 o.k o.x o.q o.et o.cp o.m)
  | .ldkD o => some (wordS 0x4B o.d o.a o.imm.toNat)
  | .ldkW o => some (wordS 0x4C o.d o.a o.imm.toNat)
  | .stkD o => some (wordS 0x4D o.d o.a o.imm.toNat)
  | .stkW o => some (wordS 0x4E o.d o.a o.imm.toNat)
  | .ldkAcq d a => some (wordX 0x50 0 d.val a.val 0)
  | .stkRel a b => some (wordX 0x50 1 0 a.val b.val)
  | .vldAcq d a b => some (wordX 0x50 2 d.val a.val b.val)
  | .vstRel d a b => some (wordX 0x50 3 d.val a.val b.val)
  | .vatomAddI32 o => some (wordT 0x51 0 ⟨o.d, o.a, o.b, o.q, o.ea, o.eb⟩)
  | .vatomMinI32 o => some (wordT 0x51 1 ⟨o.d, o.a, o.b, o.q, o.ea, o.eb⟩)
  | .vatomMaxI32 o => some (wordT 0x51 2 ⟨o.d, o.a, o.b, o.q, o.ea, o.eb⟩)
  | .vatomXchgI32 o => some (wordT 0x51 3 ⟨o.d, o.a, o.b, o.q, o.ea, o.eb⟩)
  | .vatomAddI64 o => some (wordT 0x52 0 ⟨o.d, o.a, o.b, o.q, o.ea, o.eb⟩)
  | .vatomMinI64 o => some (wordT 0x52 1 ⟨o.d, o.a, o.b, o.q, o.ea, o.eb⟩)
  | .vatomMaxI64 o => some (wordT 0x52 2 ⟨o.d, o.a, o.b, o.q, o.ea, o.eb⟩)
  | .vatomXchgI64 o => some (wordT 0x52 3 ⟨o.d, o.a, o.b, o.q, o.ea, o.eb⟩)
  | .vatomAddF o => some (wordT 0x53 0 ⟨o.d, o.a, o.b, o.q, o.ea, o.eb⟩)
  | .vatomAddD o => some (wordT 0x53 1 ⟨o.d, o.a, o.b, o.q, o.ea, o.eb⟩)
  | .vatomAndI64 o => some (wordT 0x53 2 ⟨o.d, o.a, o.b, o.q, o.ea, o.eb⟩)
  | .vatomOrI64 o => some (wordT 0x53 3 ⟨o.d, o.a, o.b, o.q, o.ea, o.eb⟩)
  | .vcasI32 o => some (wordT 0x54 0 ⟨o.d, o.a, o.b, o.q, o.ea, o.eb⟩)
  | .vcasI64 o => some (wordT 0x54 1 ⟨o.d, o.a, o.b, o.q, o.ea, o.eb⟩)
  | .atomkAdd d a b => some (wordX 0x55 0 d.val a.val b.val)
  | .atomkXchg d a b => some (wordX 0x55 1 d.val a.val b.val)
  | .cask d a b => some (wordX 0x55 2 d.val a.val b.val)
  | .atomkFadd d a b => some (wordX 0x55 3 d.val a.val b.val)
  | .lock a => some (wordX 0x56 0 0 a.val 0)
  | .unlock a => some (wordX 0x56 1 0 a.val 0)
  | .waitm d a b => some (wordX 0x56 2 d.val a.val b.val)
  | .xpect a b => some (wordX 0x56 3 0 a.val b.val)
  | .waitc a b => some (wordX 0x56 4 0 a.val b.val)
  | .arst a => some (wordX 0x56 5 0 a.val 0)
  | .cpyT d a b => some (wordX 0x58 0 d.val a.val b.val)
  | .cpyTs d a b => some (wordX 0x58 1 d.val a.val b.val)
  | .cpyRed d a => some (wordX 0x58 2 d.val a.val 0)
  | .cpyRem d a => some (wordX 0x58 3 d.val a.val 0)
  | .cpyL o => some (wordM 0x59 o.t o.k o.x o.q o.et o.cp false)
  | .qntEnc d a => some (wordX 0x5A 0 d.val a.val 0)
  | .qntDec d a => some (wordX 0x5A 1 d.val a.val 0)
  | .gath d a => some (wordX 0x5A 2 d.val a.val 0)
  | .gcsr d a b => some (wordX 0x5B 0 d.val a.val b.val)
  | .mlda n a => some (wordX 0x60 0 n.val a.val 0)
  | .mldb n a => some (wordX 0x60 1 n.val a.val 0)
  | .mma d a b => some (wordX 0x60 2 d.val a.val b.val)
  | .mmaC d a b => some (wordX 0x60 3 d.val a.val b.val)
  | .mmaS d a => some (wordX 0x60 4 d.val a.val 0)
  | .mzero d => some (wordX 0x60 5 d.val 0 0)
  | .mst d a b => some (wordX 0x60 6 d.val a.val b.val)
  | .mfence => some (wordX 0x60 7 0 0 0)
  | .mwait a n => some (wordX 0x60 8 0 a.val n.val)
  | .mprog d n => some (wordX 0x60 9 d.val 0 n.val)
  | .bid a c => some (wordX 0x6C 0 0 a.val c.val)
  | .bidr d c => some (wordX 0x6C 1 d.val 0 c.val)
  | .price d c => some (wordX 0x6C 2 d.val 0 c.val)
  | .lease d c => some (wordX 0x6C 3 d.val 0 c.val)
  | .peerp d a c => some (wordX 0x6C 4 d.val a.val c.val)
  | .jnlX d a b => some (wordX 0x6D 0 d.val a.val b.val)
  | .jmark a b => some (wordX 0x6D 1 0 a.val b.val)
  | .jtrunc a => some (wordX 0x6D 2 0 a.val 0)
  | .emit d a b => some (wordX 0x6D 3 d.val a.val b.val)
  | .jstat d a n => some (wordX 0x6D 4 d.val a.val n.val)
  | .hx p => some (wordH 0 p.toNat)
  | .hj p => some (wordH 1 p.toNat)
  | .hs c m => some (wordH 2 (4 * c.val + m.val))
  | .hp m => some (wordH 3 m.val)
  | .hc m => some (wordH 4 m.val)
  | .branchResolve _ => none
  | .resultLands _ _ => none
  | .engineRequestAccept _ => none
  | .landing _ => none
  | .tokenFill _ => none
  | .matrixCommandStart _ => none
  | .matrixCommandComplete _ _ => none
  | .barrierMessage _ _ _ => none
  | .barrierRelease _ _ _ => none
  | .lockRequest _ _ => none
  | .unlockRequest _ _ => none
  | .lockGrant _ _ => none
  | .lockWithdrawal _ _ => none
  | .lockReleaseNotice _ _ => none
  | .monitorWake _ => none
  | .monitorRelease _ => none
  | .ownershipRegistration _ _ => none
  | .registrationAck _ _ => none
  | .revocation _ _ => none
  | .recall _ _ => none
  | .writeBack _ _ => none
  | .lineFill _ _ => none
  | .atomicAtHome _ _ => none
  | .reductionContribution _ _ => none
  | .aliasAccess _ _ => none
  | .pageWalkDone _ _ => none
  | .trapRecordWrite _ => none
  | .contextEnd _ _ _ => none
  | .intervalEnd => none
  | .timeSlice => none
  | .leaseChange => none
  | .sidingTransfer _ _ => none
  | .depotSave _ => none
  | .gangResume _ => none
  | .cometMigration _ _ => none
  | .notifyWrite _ _ => none
  | .headerPollTimer _ => none
  | .launchPacket _ => none
  | .bundlePacket _ => none
  | .waitPacket _ => none
  | .waitPollTimer _ => none
  | .skipPacket _ => none
  | .copyPacket _ => none
  | .quantisePacket _ => none
  | .launchStart _ => none
  | .blockDispatch _ _ => none
  | .launchRetire _ => none
  | .mgSemaWrite _ _ => none
  | .mgPkgidWrite _ _ => none
  | .mkIntvWrite _ _ => none
  | .mkFloorWrite _ _ _ => none
  | .cxTenantWrite _ _ _ => none
  | .jsCmdOpen _ _ _ => none
  | .jsCmdClose _ _ _ => none
  | .qcCfgWrite _ _ _ => none
  | .csrWrite _ _ _ => none
  | .rmaWrite _ => none
  | .rmaRead _ => none
  | .rodConnectionFailure _ => none
  | .emitDeliveryAck _ => none
  | .emitDeliveryTimeout _ => none
  | .journalRecordAccept _ => none
  | .partnerReassign _ _ _ => none
  | .nopartnerTimeout _ => none
  | .partnerSilenceTimer _ => none
  | .sourceAckTimer _ => none
  | .probeTimeout _ => none
  | .liveTimer _ => none
  | .linkSilenceTimeout _ => none
  | .flitCrcError _ => none
  | .linkLockLoss _ => none
  | .linkRetrainDone _ _ => none
  | .planeAckTimeout _ _ => none
  | .planeProbeTimer _ _ => none
  | .routeReturn _ => none
  | .live _ => none
  | .rdreq _ => none
  | .rdrsp _ => none
  | .pwr _ => none
  | .evict _ => none
  | .inv _ => none
  | .atom _ => none
  | .atrsp _ => none
  | .flush _ => none
  | .flrsp _ => none
  | .mcast _ => none
  | .red _ => none
  | .pricePacket _ => none
  | .jrec _ => none
  | .jack _ => none
  | .ewr _ => none
  | .eack _ => none
  | .probe _ => none
  | .prsp _ => none
  | .powerGood => none
  | .bringupStageDone _ => none
  | .bringupStageTimeout _ => none
  | .illegalWord _ _ => none
  | .fetchFault _ _ => none
  | .accessAtHome _ _ => none
  | .endToEndAcknowledgement _ _ _ => none
  | .takeoverReportSendComplete _ => none
  | .attestationRequest _ => none
  | .powerLoss => none

/-- The bytes of an instruction. -/
def encode (i : Instr) : Option (List Byte) := i.word.map bytesOfWord

end Sys2Proof
end
end

