-- ==== Sys2Proof/Machine/State.lean ====
section
/-! DEFINITION. Everything the spec gives the machine, as plain data. The model is one package; what lies outside it
(hosts, peers, timers) enters through `tape`, and leaves through `sent`, `outbound` and `host`.
A sparse table is a list of (key, value) pairs in the canonical form of Sys2Proof/Machine/Map.lean: keys strictly
rising, and no entry equal to what an unlisted key reads as. -/
namespace Sys2Proof.Machine

/-- Sparse table from numbers to values. -/
abbrev Table (α : Type) := List (Nat × α)

/-- Bytes by address: an unlisted address reads as 0 (R237, R310; log 3). -/
abbrev Cells := Table (BitVec 8)

/-- An entry of the reconvergence stack (R52, Table 04.1): a join entry or a path entry. -/
structure Entry where
  join : Bool
  mask : Mask
  pc   : Nat
  fmt  : BitVec 16
  deriving DecidableEq, Repr

/-- What holds a thread back after it has begun a blocking instruction. -/
inductive Wait where
  | none
  | barrier (gang : Bool) (n phase : Nat)   -- the wait part of a barrier (R142)
  | lock (key va : Nat)                     -- `LOCK` not yet granted (R200)
  | monitor                                 -- `WAITM` armed (R202)
  | acquire (flight : Nat)                  -- an acquire load whose rows have not landed (R193)
  | peer (flight : Nat)                     -- requests to a peer whose replies may still bring a fault (R383, R402)
  | flush (pkg : Nat)                       -- `FLUSHR` to a peer (R146)
  | journal (seq : Nat)                     -- `JNL.X` not accepted and not read (R231)
  | emit (seq : Nat)                        -- `EMIT` in its wait phase (R232)
  | sleep                                   -- firmware `HALT` of its own core (R141)
  | command (num : Nat)                     -- a `CSRW` whose side effects have not taken place (R139)
  | halting (core : Nat)                    -- `HALT` until every thread of the core has stopped (R141)
  | draining                                -- `EXIT` done, results still in flight (R130)
  deriving DecidableEq, Repr

/-- A thread: a group on a tenant core, or the thread of a matrix control core (Table 03.1, R52, R135). -/
structure Group where
  live   : Bool := false
  tid    : Nat := 0
  core   : Nat := 0           -- as `s.core` reports it: 96 + cluster on a matrix control core (R135)
  part   : Nat := 0
  slot   : Nat := 0
  ctx    : Nat := 0
  priv   : Bool := false
  launch : Nat := 0
  gang   : Nat := 0
  block  : Nat := 0           -- identifier of the block object
  grp    : Nat := 0
  rows   : Nat := 0
  allot  : Nat := 0
  lane0  : Nat := 0
  pad    : Nat := 0
  blk    : Nat := 0
  nblk   : Nat := 0
  shape0 : Nat := 0
  shape1 : Nat := 0
  shape2 : Nat := 0
  shape3 : Nat := 0
  resident : Bool := false
  pc      : Nat := 0
  k       : Vector (BitVec 64) 64 := Vector.replicate 64 0
  kEmpty  : BitVec 64 := 0    -- bit n: `kn` is empty (R34)
  v       : Table (BitVec 64) := []   -- key: physical register × 512 + lane
  vEmpty  : BitVec 4096 := 0  -- bit register × 16 + row (R34)
  kBad    : BitVec 64 := 0    -- scalars lost to an uncorrectable error (R391)
  vBad    : List Nat := []    -- lanes lost, by their keys in `v` (R391)
  q       : Vector Mask 8 := Vector.replicate 8 0
  qBusy   : BitVec 8 := 0     -- predicates with rows still to be written (R38, R55)
  M       : Mask := 0
  X       : Mask := 0
  fmt     : BitVec 16 := 0
  wv      : BitVec 8 := 0
  fpflags : BitVec 5 := 0     -- NV DZ OF UF NX from bit 0 (Table 05.7)
  stack   : List Entry := []  -- topmost first
  run     : List Nat := []    -- hint words fetched before the next instruction, in order (R103)
  runPc   : Nat := 0          -- address of the first of them
  landed  : Bool := false     -- a transfer of control has just landed (R375)
  barA    : BitVec 20 := 0    -- arrival flags: block barriers 0-15, gang barriers 16-19 (R142)
  barP    : Table Nat := []   -- phases of the last arrivals
  wait    : Wait := .none
  last    : Bool := false     -- goes last in the rotation (R102, R133)
  hold    : Nat := 0          -- instructions an `HS` hold still prefers this group for (R102)
  locks   : List (Nat × Nat) := []   -- locks held, with the addresses they were taken by (R380)
  mdone   : Nat := 0          -- matrix commands completed since launch (R224)
  ender   : Nat := 0          -- the word that ended the thread, 0 while it runs (R372)
  deriving DecidableEq, Repr

/-- Where an address leads (R185, R248, R253, R304, R355). -/
inductive Loc where
  | spad (block off : Nat)
  | hbm (pa : Nat)
  | csr (num byte : Nat)
  | peer (pkg off : Nat)
  | window (w byte : Nat)
  | mcast (g off : Nat)
  deriving DecidableEq, Repr

/-- The cache policies (Table 11.2). -/
inductive Policy where
  | normal | bypass | stream
  deriving DecidableEq, Repr

/-- Lanes of a store with address, place and value; `policy` is its cache policy, `size` its bytes per lane. -/
structure HeldStore where
  policy : Policy
  size   : Nat
  lanes  : List (Nat × Nat × Loc × Nat)
  deriving DecidableEq, Repr

/-- An instruction issued in a speculation window (R64): the unit of hint run and word, and the scalar operands it read. `vec` says that it
is a vector instruction, which a replay issues again; `store` is what it holds back (R65). -/
structure Recorded where
  instr : Instr
  run   : List Nat
  runPc : Nat
  pc    : Nat
  k     : Vector (BitVec 64) 64
  wv    : BitVec 8
  fmt   : BitVec 16
  vec   : Bool
  store : Option HeldStore
  deriving DecidableEq, Repr

/-- A speculation window (R64 to R66). `saved` is the thread as it stood at the branch word. -/
structure Window where
  saved  : Group
  pred   : Fin 8              -- the predicate awaited
  neg    : Bool               -- `BR.VN`
  pt     : Mask               -- predicted taken set
  target : Nat
  join   : Nat
  issued : Nat                -- instructions issued in the window
  buffer : List Recorded := []   -- the replay buffer and the held stores, in program order
  held   : Option HeldStore := none   -- the store of the instruction that issues now
  staged : List (Nat × BitVec 5) := []   -- exception flags by lane
  resolved : Option Mask := none   -- the branch is kept: the resolved mask of the running path
  todo   : List Recorded := []   -- what is still to be replayed
  ended  : Bool := false      -- an instruction that the window does not admit has ended it (R65)
  deriving DecidableEq, Repr

/-- How an outstanding access is performed. -/
inductive ReqKind where
  | fill      -- a normal or stream load miss (R239)
  | home      -- a bypass or acquire load at the home (R243)
  | store     -- a bypass store at the home (R243)
  | windowLd  -- a load through a BF16 window (R254)
  | windowSt  -- a store through a BF16 window (R254)
  deriving DecidableEq, Repr

/-- One lane's access that has not been performed at issue. -/
structure Req where
  lane : Nat
  loc  : Loc
  size : Nat
  kind : ReqKind
  val  : Nat
  done : Bool
  va   : Nat                  -- the address it was issued with
  deriving DecidableEq, Repr

/-- The combining functions of atomics (Tables 09.5, R197, R198). -/
inductive AtomOp where
  | add | minS | maxS | xchg | and | or | cas | addF | addD
  deriving DecidableEq, Repr

/-- One atomic request of one distinct address (R196): the lanes that target it with operand and expected value. -/
structure AtomReq where
  loc   : Loc
  size  : Nat
  op    : AtomOp
  lanes : List (Nat × Nat × Nat)   -- lane, operand, expected value
  olds  : List (Nat × Nat)         -- lane, old value, once performed
  done  : Bool
  deriving DecidableEq, Repr

/-- The destination of a long-latency result (Table 03.2, R38). -/
inductive Dest where
  | none
  | scalar (d : Fin 64)
  | vector (phys : Nat)
  | pred (p : Fin 8)
  deriving DecidableEq, Repr

/-- An access or result in flight: its lanes' requests, and the rows still to land (R35). -/
structure Flight where
  id     : Nat
  tid    : Nat
  core   : Nat
  dest   : Dest
  signed : Bool               -- a 4-byte result is sign-extended (R192, R196)
  acq    : Bool               -- an acquire follows (R193)
  lanes  : List (Nat × Nat)   -- values already known: lane, value
  reqs   : List Req
  atoms  : List AtomReq
  rows   : BitVec 16          -- rows not yet landed (bit 0 for a scalar)
  flags  : BitVec 5
  spec   : Bool               -- issued in a speculation window
  low    : Bool := false      -- a stream load (R243)
  deriving DecidableEq, Repr

/-- A cached line of L1 or of an RDC share (R239 to R243): valid and dirty bytes, and the dirty bytes whose stores the home has
not accepted yet (R240). -/
structure Line where
  data  : BitVec 1024 := 0
  valid : BitVec 128 := 0
  dirty : BitVec 128 := 0
  fresh : BitVec 128 := 0
  low   : Bool := false       -- a stream access brought it in: it is the first to be evicted (R243)
  ctx   : Nat := 0            -- the context of the request for a peer's line (R301)
  deriving DecidableEq, Repr

/-- A registration of one 4-byte word (R240): `atHome` once the home has recorded the owner; `pair` for a word of an aligned 8-byte store,
which the home accepts together with the other word (R186). -/
structure Pending where
  core   : Nat
  word   : Nat
  atHome : Bool
  pair   : Bool := false
  deriving DecidableEq, Repr

/-- A translation (R246 to R248, Table 11.5): virtual base and size of the page, and the leaf. -/
structure Tlb where
  ctx  : Nat
  va   : Nat
  size : Nat
  r    : Bool
  w    : Bool
  x    : Bool
  fab  : Bool
  addr : Nat                  -- ADDR field, bits [51:12] in place
  pkg  : Nat
  unit : Nat := 0             -- the TLB that holds it: a core's number for an L1 TLB, 128 + die for an L2 TLB (R247)
  deriving DecidableEq, Repr

/-- A page walk in flight or ended without a leaf: `code` is the XLATE code, 0 while it runs (R384). `who` are the threads whose
misses share it (R247). -/
structure Walk where
  ctx  : Nat
  va   : Nat
  code : Nat
  die  : Nat
  who  : List Nat
  deriving DecidableEq, Repr

/-- Bit fields of an arrival record (R204, Table 11.6) and the bytes still to land per chunk (R206). -/
structure Arrival where
  chunks : BitVec 64 := 0
  exp    : BitVec 40 := 0
  rcv    : BitVec 40 := 0
  posted : Bool := false
  due    : Table Nat := []
  deriving DecidableEq, Repr

/-- A barrier (R45): arrivals of the current phase, the phase, and the member threads. -/
structure Barrier where
  count   : Nat := 0
  phase   : Nat := 0
  members : List Nat := []
  arrived : List Nat := []
  deriving DecidableEq, Repr

/-- A block (R28, R237, R283): its place, its scratchpad by OFFSET, its records and barriers. -/
structure Block where
  id     : Nat := 0
  launch : Nat := 0
  gang   : Nat := 0
  num    : Nat := 0           -- `s.blk`
  clu    : Nat := 0
  banks  : List Nat := []     -- physical banks, ascending (R237)
  nbanks : Nat := 0
  recb   : Nat := 0
  recn   : Nat := 0
  recs   : Table Arrival := []
  phys   : List Nat := []     -- physical records, ascending (R283)
  spad   : Cells := []
  bars   : Table Barrier := []
  threads : List Nat := []    -- groups and matrix thread still alive
  deriving DecidableEq, Repr

/-- What a gang is doing: resident, halted with its context on the way out, or waiting for resources (R48 to R51). -/
inductive Residence where
  | resident
  | halted        -- stopped, its context still on its cores
  | siding        -- its core image is in the siding (R50)
  | saved         -- in the save area (R50, R398)
  | ended
  deriving DecidableEq, Repr

/-- A gang (R28, R44): its blocks in order, its barriers, where it stands. -/
structure Gang where
  id     : Nat := 0
  launch : Nat := 0
  num    : Nat := 0
  blocks : List Nat := []
  bars   : Table Barrier := []
  place  : Residence := .resident
  lost   : List Nat := []     -- banks waiting for the Depot (R50, R398)
  home   : Nat := 0           -- cluster of block 0, the home of its barriers (R44)
  tried  : Bool := false      -- the Depot has failed to move it and does not try again (R398)
  moved  : List Nat := []     -- cores whose image the Depot has moved to the save area (R50)
  deriving DecidableEq, Repr

/-- A trap record's fields (R361). -/
structure Record where
  cause : Nat := 0
  code  : Nat := 0
  core  : Nat := 0
  mcc   : Bool := false
  part  : Nat := 0
  slot  : Nat := 0
  async : Bool := false
  ctx   : Nat := 0
  reg   : Nat := 0
  rfile : Nat := 3
  addrs : List Nat := []      -- distinct, lowest first; only the lowest 8 are written
  cq    : Bool := false
  pc    : Nat := 0
  value : Nat := 0
  mask  : Mask := 0
  die   : Nat := 0            -- the die whose ring receives it
  tid   : Nat := 0            -- the thread whose program counter an asynchronous record names once it has stopped (R361)
  late  : Bool := false       -- its core is still to be stopped (R391)
  launch : Nat := 0           -- the launch of the group, or the bundle of the sub-packet (R365); no field of the record in the ring
  deriving DecidableEq, Repr

/-- What a record in a ring tells firmware of its origin (R364, R365). `launch` is the launch of the group that raised it, or the bundle of the
sub-packet. -/
structure Cause where
  ctx    : Nat
  cause  : Nat
  code   : Nat
  core   : Nat := 0           -- as `Group.core`
  launch : Nat := 0
  deriving DecidableEq, Repr

/-- A section table entry (R251, Table 11.7). `op` is the engine operation that registered it. -/
structure Section where
  core   : Nat
  index  : Nat
  lo     : Nat
  hi     : Nat
  token  : Nat
  part   : Nat
  slot   : Nat
  dst    : Bool
  spad   : Bool               -- SPACE: `lo`, `hi` are aperture addresses in the GANG = 1 form (R252)
  matrix : Bool
  record : Nat
  useRec : Bool
  op     : Nat
  ctx    : Nat
  gang   : Nat
  deriving DecidableEq, Repr

/-- The engine operations (R206 to R226, R278). -/
inductive EngKind where
  | cpyT | cpyTs | cpyRed | cpyRem | cpyL | mst | qntEnc | qntDec | gath | panel
  deriving DecidableEq, Repr

/-- A running engine operation: the descriptor as read at issue (R340) and its progress registers (R48). -/
structure EngOp where
  id       : Nat := 0
  kind     : EngKind := .cpyRem
  tid      : Nat := 0
  core     : Nat := 0
  part     : Nat := 0         -- partition and slot of the issuing group (R361)
  slot     : Nat := 0
  ctx      : Nat := 0
  block    : Nat := 0         -- the issuing block
  gang     : Nat := 0
  token    : Nat := 0         -- token scalar
  desc     : List (BitVec 64) := []
  lanes    : List (Nat × Nat) := []   -- `CPY.L`: lane, source address
  tile     : Nat := 0         -- `MST`: the tile
  useRec   : Bool := false
  recBlk   : Nat := 0
  recIdx   : Nat := 0
  accepted : Bool := false    -- its queue slot has returned (R42)
  pos      : Nat := 0         -- next element
  landed   : Nat := 0         -- bytes landed
  inFlight : Nat := 0         -- engine writes to a peer without EACK (R211)
  asked    : List Nat := []   -- lines of a peer asked for
  got      : List (Nat × Nat) := []   -- lines of a peer that have come, with their data
  fault    : Option Record := none   -- stopped under R387
  dead     : Bool := false    -- ended under R388 or R365
  cq       : Bool := false    -- a bundle sub-packet (R278)
  bundle   : Nat := 0
  die      : Nat := 0
  flags    : BitVec 5 := 0
  deriving DecidableEq, Repr

/-- One destination line of a reduction at its home slice (R210, R389): the highest prefix folded, contributions that wait by
index, and who contributed. -/
structure Reduction where
  pa    : Nat                 -- the destination line
  base  : Nat                 -- where the whole destination begins
  bytes : Nat
  fmt   : Nat
  n     : Nat
  tag   : Nat
  line  : Nat                 -- line index within the destination
  next  : Nat                 -- lowest index not folded
  acc   : Nat                 -- the fold so far, 128 bytes
  held  : Table Nat           -- contribution + 1 by index
  idx   : List (Nat × Nat × Nat)    -- indices received: package + 1 (0 this one), the operation that brought it
  ctxs  : List (Nat × Nat)          -- contributing contexts: package + 1 (0 this one), context
  ops   : List Nat                  -- contributing operations of this package
  pkgs  : List (Nat × Nat)          -- contributing packages, with the fabric offset that names the line to them
  deriving DecidableEq, Repr

/-- A panel (R214, R216): element values as raw codes and block scales, by row × 512 + column. -/
structure Panel where
  rows  : Nat := 0
  k     : Nat := 0
  fmt   : Nat := 0
  elem  : Table Nat := []
  scale : Table Nat := []     -- row × 16 + block
  deriving DecidableEq, Repr

/-- A matrix command with the register values read at issue (R213, R340). -/
inductive MCmd where
  | load (b : Bool) (n : Nat) (d0 d1 : BitVec 64)
  | mma (d a b : Nat)
  | mmaC (d a b : Nat)
  | mmaS (d a : Nat)
  | mzero (d : Nat)
  | mst (d : Nat) (a : Nat) (d0 d1 : BitVec 64) (op : Nat)
  | mwait (rec : Nat) (mask : BitVec 64)
  deriving DecidableEq, Repr

/-- A command in the queue or running. -/
structure MEntry where
  id   : Nat
  cmd  : MCmd
  tid  : Nat
  running : Bool
  bad  : Bool                 -- MISMATCH raised (R380)
  steps : Nat := 0            -- K steps known to be done (R48, R224); of an `MST` whose token has filled, the bytes written
  deriving DecidableEq, Repr

/-- The matrix unit of a cluster (R214): tiles by (tile × 64 + m) × 64 + n, panels, gather unit, command queue. -/
structure Matrix where
  tiles : Table (BitVec 32) := []
  a0    : Panel := {}
  a1    : Panel := {}
  b0    : Panel := {}
  b1    : Panel := {}
  gN    : Nat := 0
  gK    : Nat := 0
  gFmt  : Nat := 0
  gNnz  : Nat := 0
  gEnt  : Table Nat := []     -- column × 512 + k: value code + 1
  queue : List MEntry := []
  deriving DecidableEq, Repr

/-- A lock of a queue-lock unit (R200). -/
structure Lock where
  holder  : Nat := 0          -- thread + 1, 0 free
  waiters : List Nat := []
  entry   : Bool := false     -- holds one of the slice's 256 entries
  deriving DecidableEq, Repr

/-- Messages between cores and queue-lock units (R200, R201, R48, R380). -/
inductive LockMsg where
  | request (key tid : Nat)
  | waiting (key tid : Nat)   -- a request at its slice that has found no free entry (R200)
  | unlock (key tid : Nat) (r : Record)   -- the record that NOTHELD would write
  | grant (key tid : Nat)
  | withdraw (key tid : Nat)
  | notice (tid slice : Nat)
  deriving DecidableEq, Repr

/-- An armed monitor (R202). -/
structure Monitor where
  tid   : Nat
  core  : Nat
  loc   : Loc
  d     : Nat
  old   : BitVec 64
  armed : Bool                -- false while a peer has not answered
  woken : Bool
  va    : Nat                 -- the address of the `WAITM`
  deriving DecidableEq, Repr

/-- A core's stop (R48, R138, R359) and its firmware sleep. -/
structure Core where
  stopped : Bool := false
  deriving DecidableEq, Repr

/-- A command queue (R272, R276, R393). -/
structure Queue where
  widx   : Nat := 0
  ridx   : Nat := 0
  halted : Bool := false
  cause  : Nat := 0
  sub    : Nat := 0
  look   : Bool := false      -- the header is to be read again (R276)
  waitSig : Option (Nat × Nat) := none   -- a wait packet being held: address, V
  named  : List Nat := []     -- signals that consumed wait packets have named (R286)
  moved  : Option Nat := none -- the package its context has migrated to (R295)
  deriving DecidableEq, Repr

/-- A launch (R277, R280 to R286). -/
structure Launch where
  id     : Nat := 0
  ctx    : Nat := 0
  queue  : Nat := 0
  bundle : Nat := 0           -- 0 when it stands alone
  kobj   : Nat := 0
  nblk   : Nat := 0
  bpg    : Nat := 1
  split  : Bool := false
  home   : Nat := 0
  shape0 : Nat := 0
  shape1 : Nat := 0
  shape2 : Nat := 0
  shape3 : Nat := 0
  sig    : Nat := 0
  save   : Nat := 0
  savesz : Nat := 0
  nsplit : Nat := 0
  mccb   : BitVec 16 := 0
  narrow : BitVec 16 := 0
  nlo    : Nat := 0
  nhi    : Nat := 0
  recb   : Nat := 0
  recn   : Nat := 0
  arg0   : BitVec 64 := 0
  arg1   : BitVec 64 := 0
  handles : List Nat := []
  bucket : Nat := 0
  code   : Nat := 0
  entry  : Nat := 0
  rows   : Nat := 1
  allot  : Nat := 8
  gpb    : Nat := 1
  banks  : Nat := 0
  mcc    : Bool := false      -- a matrix program
  pair   : Nat := 0           -- the launch it pairs with, or the matrix program paired with this one
  started : Bool := false
  retired : Bool := false
  next   : Nat := 0           -- the gang counter (R284)
  ranges : List (Nat × Nat × Nat) := []   -- split mode: die, next gang, end
  ended  : Nat := 0           -- blocks ended
  deps   : List Nat := []
  deriving DecidableEq, Repr

/-- A bundle (R279). -/
structure Bundle where
  id      : Nat := 0
  ctx     : Nat := 0
  queue   : Nat := 0
  sig     : Nat := 0
  left    : Nat := 0          -- sub-packets not completed
  retired : Bool := false
  deriving DecidableEq, Repr

/-- The last writers and the readers since of a buffer handle, and its byte range (R286). More than one writer is the last when they are
sub-launches of one bundle, which have no order. -/
structure Handle where
  lo      : Nat := 0
  hi      : Nat := 0
  writers : List Nat := []
  readers : List Nat := []
  deriving DecidableEq, Repr

/-- A journal record at its source (R231, R316, R317). -/
structure JRecord where
  serial : Nat
  pos    : Nat
  kind   : Nat
  index  : Nat
  payload : BitVec 64
  image  : Nat                -- its 32 bytes (R316)
  sent   : Bool
  acked  : Bool
  fresh  : Bool               -- appended by this package; false for one taken over (R408)
  read   : Bool               -- read by a `JNL.X` in replay mode (R319)
  slot   : Option Nat         -- its slot in the die's tail area
  deriving DecidableEq, Repr

/-- What waits at the Signal Box of a sequence, in arrival order (R230, R317). -/
inductive JWork where
  | record (tid d reg pos kind index : Nat) (payload : BitVec 64)
  | mark (tid reg pos : Nat) (ref : BitVec 64)
  | trunc (tid reg : Nat)
  | emit (tid d reg pos : Nat) (token : BitVec 64)
  deriving DecidableEq, Repr

/-- The phases of an `EMIT` (R232). -/
inductive EmitPhase where
  | wait | intent | send | settle
  deriving DecidableEq, Repr

/-- An `EMIT` at its Signal Box. -/
structure Emit where
  tid   : Nat
  d     : Nat
  reg   : Nat                 -- the `EMIT`'s a field (R409)
  pos   : Nat
  token : BitVec 64
  after : Nat                 -- records accepted before it
  phase : EmitPhase
  deriving DecidableEq, Repr

/-- A launch signature (R314). -/
structure Signature where
  kobj   : Nat
  bucket : Nat
  nsplit : Nat
  first  : Nat
  deriving DecidableEq, Repr

/-- An open sequence at its Signal Box (R311 to R323, R408 to R412). -/
structure Seq where
  id      : Nat := 0
  die     : Nat := 0
  slot    : Nat := 0
  seqid   : BitVec 64 := 0
  partner : Nat := 0
  ctx     : Nat := 0
  egress  : Nat := 0
  replay  : Bool := false
  hwmv    : Bool := false
  hwm     : Nat := 0
  horizon : Option Nat := none
  mark    : Option Nat := none  -- position and reference of the last mark acknowledged
  snap    : BitVec 64 := 0
  mark0   : Option Nat := none  -- the mark of the descriptor
  intent  : Option Nat := none  -- the open emit intent (R318)
  isOpen  : Bool := false
  closing : Bool := false
  headerAcked : Bool := false -- the partner, or the target, has acknowledged the header (R313, R408)
  reassign : Bool := false    -- JSTAT selector 0 bit 1 (R322)
  target  : Option Nat := none  -- the new partner that the header and tail are on their way to (R322)
  tailEnd : Nat := 0          -- serials below it are the tail that the target receives
  afterLoss : Bool := false   -- the reassignment follows the declared failure of the partner (R410)
  hold    : Bool := false     -- the partner, alive, has yet to close the header to takeover (R410)
  left    : List Nat := []    -- packages that took the header of a reassignment and then refused (R412)
  moved   : Bool := true      -- a sequence opened in replay mode has its journal at its own partner (R408)
  fenced  : Bool := false     -- R410
  records : List JRecord := []
  nextSerial : Nat := 0
  ackSerial : Nat := 0
  top     : Option Nat := none   -- highest position appended
  topAck  : Option Nat := none   -- highest position acknowledged
  work    : List JWork := []
  truncs  : List (Nat × Nat × Nat) := []   -- `JTRUNC`s not acted on: the serials accepted before each, its thread and its a field
  emits   : List Emit := []
  sigs    : List Signature := []
  sigFor  : List Nat := []    -- launches that have formed their signature
  deriving DecidableEq, Repr

/-- The partner's bookkeeping of one header of its journal region (R315, R317, R406). -/
structure PartnerHdr where
  index  : Nat
  seqid  : BitVec 64
  src    : Nat
  next   : Nat                -- next serial expected
  recs   : List (Nat × Nat)   -- serial, record slot in the region
  stopped : Bool              -- takes no further JREC (R406)
  early   : List Packet := []   -- JRECs whose records come after others that are still to come (R315)
  closed  : Bool := false       -- closed to takeover while its sequence moves to another partner (R410)
  deriving DecidableEq, Repr

/-- A JS.CMD write waiting or under way (R411). -/
structure JsCmd where
  die   : Nat
  value : Nat
  begun : Bool
  seq   : Nat
  tid   : Nat                 -- the firmware thread that waits for it; 0 for a port
  deriving DecidableEq, Repr

/-- A fabric link (R307, R400). -/
structure Link where
  up       : Bool := true
  errors   : Nat := 0         -- consecutive failed flits
  training : Bool := false
  fails    : Nat := 0         -- consecutive failed retrainings
  deriving DecidableEq, Repr

/-- What this package knows of a peer (R324, R427). -/
structure Peer where
  dead    : BitVec 18 := 0    -- planes dead for the pair
  back    : BitVec 18 := 0    -- planes on which a packet has come since this package's link on them was last down
  failed  : Bool := false     -- declared failed
  unknown : Bool := false     -- no package holds the number
  probes  : Nat := 0          -- unanswered probes of a suspicion
  plane   : Nat := 0          -- plane of the probe in flight
  probing : Bool := false
  void    : Bool := false     -- a packet has come since the probe under way was sent: its silence does not count (R324)
  taken   : Bool := false     -- sequences of the peer have been taken over here (R406, R410)
  deriving DecidableEq, Repr

/-- A packet kept until it is acknowledged or answered (R303, R401). -/
structure Kept where
  packet : Packet
  core   : Nat
  tid    : Nat
  va     : Nat
  flag   : Bool               -- a flag of `FENCE.FLAG`; a line not to be cached; a refused engine write
  op     : Nat                -- engine operation or monitor that waits for the reply; 0 for none
  lane   : Nat                -- the lane of a vector store; 512 for none
  deriving DecidableEq, Repr

/-- A `FENCE.FLAG` waiting for earlier stores (R145). -/
structure FlagWrite where
  core : Nat
  tid  : Nat
  ctx  : Nat
  va   : Nat
  loc  : Loc
  val  : BitVec 64
  deriving DecidableEq, Repr

/-- What leaves towards a host (R308, R309, R403, R406, Table 14.5). -/
inductive HostMsg where
  | written (port : Nat) (good : Bool)
  | read (port : Nat) (good : Bool) (data : Nat)
  | egress (endpoint : Nat) (payload : Nat)
  | report (port : Nat) (payload : Nat)
  | attest (nonce digest config sig : Nat)
  | forward (pkg queue value : Nat)   -- a notify write that firmware forwards (R295)
  deriving DecidableEq, Repr

/-- A context's leases in one class, with its floor units (R292). -/
structure Lease where
  units : Nat := 0
  floor : Nat := 0
  deriving DecidableEq, Repr

/-- One entry of the prediction tables (R63): 2 state bits and a 32-bit mask for each of 16 rows. -/
structure Point where
  states : BitVec 32 := 0
  masks  : BitVec 512 := 0
  deriving DecidableEq, Repr

/-- What acts next: the current thread issues, another thread becomes current, or an event takes place. -/
inductive Act where
  | issue
  | switch (tid : Nat)
  | event (e : Instr)
  deriving DecidableEq, Repr

/-- An RMA memory key (R308): a context and a virtual range. -/
structure MemKey where
  ctx  : Nat := 0
  base : Nat := 0
  len  : Nat := 0
  deriving DecidableEq, Repr

/-- The bytes that one write replaced while a launch ran: that launch may still fetch them (R390; log 7). -/
structure OldBytes where
  launch : Nat
  pa     : Nat
  size   : Nat
  old    : Nat
deriving DecidableEq, Repr

/-- A context on its way between two packages (R295, R323): its pages by virtual address, its saved state, and what of its queues, handles,
bids and sequences moves with it. `top` is above every identifier in it; `locks` are the virtual addresses of locks held, with their holders. -/
structure Image where
  ctx      : Nat
  src      : Nat
  dst      : Nat
  top      : Nat
  pages    : List (Nat × Nat)          -- virtual base and size
  bytes    : Cells                     -- by virtual address
  threads  : List Group
  past     : List Group                -- threads that have ended
  blocks   : List Block
  pastBlocks : List Block              -- blocks that have ended
  gangs    : List Gang
  launches : List Launch
  bundles  : List Bundle
  handles  : Table Handle
  queues   : List (Nat × Queue)
  engines  : List EngOp
  savedMx  : List (Nat × Matrix)
  savedEng : List (Nat × List Section)
  bids     : List (BitVec 64)
  seqs     : List Seq
  locks    : List (Nat × Nat)
  deriving DecidableEq, Repr

/-- The whole package. -/
structure State where
  -- the model's own fields (log 1, 4)
  tape   : List Act := []
  free   : Nat := 0
  tick   : Nat := 0
  nextId : Nat := 1
  -- threads and cores
  g       : Group := {}
  others  : List Group := []
  windows : List Window := []
  cores   : Table Core := []
  clocks  : Table Nat := []          -- cycle counts, by core (R24)
  faulted : Option (Nat × Nat × Nat) := none   -- core last stopped by a group's fault, the group's place 8 × PART + SLOT, and `tick` (R371)
  streaks : Table Nat := []          -- core × 12 + partition: class-0 groups chosen in a row while others were ready (R40)
  past    : List Group := []         -- the threads that have ended, as they stood at their end
  pastBlocks : List Block := []      -- the blocks that have ended, as they stood at their end
  sections : List Section := []
  points  : Table Point := []        -- (core × 12 + partition) × 512 + index
  -- memory
  mem      : Cells := []
  l1       : Table Line := []        -- core × 2^60 + line
  rdc      : Table Line := []
  l2       : Table Nat := []         -- line of this package held in an L2 slice: its way + 1 (R244)
  fmTlb    : Table Nat := []         -- 2 MiB page of the intermediate fabric offset: the entry that the fabric MMU holds (R248)
  owners   : Table Nat := []         -- word of memory: core + 1
  holders  : Table Nat := []         -- line × 2^12 + package: requests for the line that no EVICT has answered (R242)
  pending  : List Pending := []
  revoking : List (Nat × Nat) := []  -- core, word
  recalls  : List (Nat × Nat) := []  -- core, word
  flights  : List Flight := []
  tlb      : List Tlb := []
  walks    : List Walk := []
  bad      : List (Nat × Nat) := []  -- uncorrectable errors: store code of R391, key; 11 with a line: a clean line of L2
  ecc      : Table Nat := []         -- corrected errors per die
  oldCode  : List OldBytes := []     -- the writes since a running launch started, newest first (R390)
  -- blocks, gangs, launches
  blocks  : List Block := []
  gangs   : List Gang := []
  launches : List Launch := []
  bundles : List Bundle := []
  handles : Table Handle := []       -- context × 2^15 + handle
  queues  : Table Queue := []
  policies : List (Nat × List (BitVec 32)) := []
  rotor   : Table Nat := []          -- per tenant, last queue taken (R288)
  chosen  : Table Nat := []          -- per tenant, queue + 1 a policy run named (R287)
  ended   : List Nat := []           -- contexts that firmware has ended
  sidings : Table Nat := []          -- core: gang whose image the siding holds
  savedMx : List (Nat × Matrix) := []   -- block: matrix unit saved with it (R214)
  savedEng : List (Nat × List Section) := []   -- gang: its range entries (R49)
  -- engines and matrix units
  engines : List EngOp := []
  reds    : List Reduction := []
  covered : List Reduction := []    -- lines of reductions that are over; `idx` names what has come of them on its own (R401)
  matrix  : List (Nat × Matrix) := []   -- cluster
  gqDone  : Table (BitVec 64) := []
  -- locks and monitors
  locks    : Table Lock := []        -- physical address / 8
  lockMsgs : List LockMsg := []
  barMsgs  : List (Nat × Nat × Nat) := []   -- arrivals under way: gang, barrier, thread
  barRels  : List (Nat × Nat × Nat) := []   -- releases under way
  monitors : List Monitor := []
  flagWrites : List FlagWrite := []
  -- traps
  trapWait : List Record := []       -- records waiting at their source (R362)
  causes   : List Cause := []        -- whose record, and of what, every record written was (R365)
  serials  : Table Nat := []         -- per die
  -- control registers and market
  powered  : Bool := false           -- power is good (R310)
  csr      : Table (BitVec 64) := []
  intvNext : Nat := 21               -- MK.INTV to take effect at the interval's end (R358)
  bids     : Table (BitVec 64) := [] -- context × 8 + class
  leases   : Table Lease := []
  nextLeases : Option (Table Lease) := none
  prices   : Table Nat := []         -- class
  priceSeq : Nat := 0
  nextPrices : Table Nat := []
  curSeq   : Nat := 0                -- interval that the leases in force are for
  sliced   : Bool := false           -- the time slice of this interval has run (R289)
  held     : Table Nat := []         -- class × 4096 + physical unit: context + 1
  purses   : Table Nat := []
  dues     : Table Nat := []         -- payments of the latest clearing per tenant
  nbrPrices : Table (BitVec 64) := []   -- package × 8 + class: stamp and price, + 1 in `nbrSeen`
  nbrSeen  : List Nat := []
  migrate  : Table Nat := []         -- context × 4096 + package: intervals the condition has held (R295)
  leaving  : Table Nat := []         -- contexts that the Comet moves: the package + 1 (R295)
  departed : List Nat := []          -- contexts that have left this package (R295)
  outbound : List Image := []        -- what has left, oldest first
  inbound  : List Image := []        -- what a neighbour has sent and this package has not taken in
  withheld : List Nat := []          -- clusters that failed self-test (R404)
  -- journal
  seqs     : List Seq := []
  jsCmds   : List JsCmd := []
  partners : List PartnerHdr := []
  vetting  : List Packet := []       -- headers offered after a failure, while the old partner is probed (R410)
  reports  : List Nat := []          -- kept takeover reports, payloads (R406)
  reporting : List (Nat × Nat) := []   -- sends of reports under way, oldest first: port, payload
  -- fabric and host
  links    : Table Link := []
  peers    : Table Peer := []
  fell     : BitVec 18 := 0          -- planes on which this package's link has been down (R427)
  sendSeq  : Table Nat := []         -- package × 32 + plane
  recvSeq  : Table Nat := []
  reorder  : List Packet := []
  atomParts : List Packet := []      -- packets of atomic requests of which more are to come (R196)
  kept     : List Kept := []
  outbox   : List Packet := []       -- packets that wait at this package for their link (R297, R400, R401)
  sent     : List Packet := []       -- everything sent, oldest first
  host     : List HostMsg := []
  memKeys  : Table MemKey := []
  notifies : List (Nat × Nat × Nat) := []   -- notify stores under way: queue, value, core (R274)
  deriving DecidableEq, Repr

/-- Why the model stops. -/
inductive Fault where
  /-- Raised by `exec` of an instruction word when no thread is current, so that nothing can issue it. A step never
  ends so: it idles then. Safe. -/
  | noThread
  deriving DecidableEq, Repr

/-- Why an instruction has no meaning. -/
inductive Refusal where
  /-- The instruction has no meaning in this model yet. Safe. -/
  | notModelled (mnemonic : String)
  deriving DecidableEq, Repr

/-- The machine right after power-on, before power good (R310): no thread exists, memory lists nothing, the control
registers read their reset values, and every other table is empty. -/
def State.reset : State := {}

end Sys2Proof.Machine
end

