-- ==== Sys2Proof/Machine/Map.lean ====
section
/-! DEFINITION. Sparse tables in one canonical form, and the reads and writes of scalar registers and of memory bytes
by list. A table is a list of (key, value) pairs, keys strictly rising, no entry equal to the value `z` that an
unlisted key reads as. -/
namespace Sys2Proof.Machine

/-- The value at a key; `z` where none is listed. -/
def getT {α : Type} (z : α) : Table α → Nat → α
  | [], _ => z
  | (k, v) :: t, n => if k = n then v else getT z t n

/-- Take a key out. -/
def dropT {α : Type} : Table α → Nat → Table α
  | [], _ => []
  | (k, v) :: t, n => if k = n then dropT t n else (k, v) :: dropT t n

/-- Put an entry in its place. -/
def insertT {α : Type} : Table α → Nat → α → Table α
  | [], n, x => [(n, x)]
  | (k, v) :: t, n, x => if n < k then (n, x) :: (k, v) :: t else (k, v) :: insertT t n x

/-- Write the value at a key: writing `z` takes the entry out. -/
def putT {α : Type} [DecidableEq α] (z : α) (t : Table α) (n : Nat) (x : α) : Table α :=
  if x = z then dropT t n else insertT (dropT t n) n x

/-- Write several values in order. -/
def putAll {α : Type} [DecidableEq α] (z : α) (t : Table α) : List (Nat × α) → Table α
  | [] => t
  | (n, x) :: xs => putAll z (putT z t n x) xs

/-- Every key is above `lo` (when given), keys rise, and no value is `z`. -/
def sortedT {α : Type} [DecidableEq α] (z : α) : Option Nat → Table α → Bool
  | _, [] => true
  | lo, (k, v) :: t => (match lo with | none => true | some l => decide (l < k)) && decide (v ≠ z) && sortedT z (some k) t

/-- The canonical form of a table. -/
def wfT {α : Type} [DecidableEq α] (z : α) (t : Table α) : Bool := sortedT z none t

/-- The canonical form of memory: an unlisted byte reads as 0 (log 3). -/
def memoryWf (m : Cells) : Bool := wfT 0 m

/-- The memory of the state has its canonical form. -/
abbrev Memory.wf (m : Cells) : Prop := memoryWf m = true

/-- One byte of a cell table. -/
def readByte (m : Cells) (a : Nat) : BitVec 8 := getT 0 m a

/-- One byte written. -/
def writeByte (m : Cells) (a : Nat) (b : BitVec 8) : Cells := putT 0 m a b

/-- `n` bytes from `a` up, little-endian (R2). -/
def readN (m : Cells) (a : Nat) : Nat → Nat
  | 0 => 0
  | n + 1 => (readByte m a).toNat + 256 * readN m (a + 1) n

/-- The low `n` bytes of `x` written from `a` up, little-endian (R2). -/
def writeN (m : Cells) (a : Nat) : Nat → Nat → Cells
  | 0, _ => m
  | n + 1, x => writeN (writeByte m a (BitVec.ofNat 8 x)) (a + 1) n (x / 256)

/-- A fresh index for a free value (log 4). -/
def drawFree (s : State) : Nat × State := (s.free, { s with free := s.free + 1 })

/-- The first element that satisfies `p`, replaced by its image; every other element as it was. -/
def mapFirst {α : Type} (p : α → Bool) (f : α → α) : List α → List α
  | [] => []
  | x :: xs => if p x then f x :: xs else x :: mapFirst p f xs

/-- Every element that satisfies `p`, replaced by its image. -/
def mapIf {α : Type} (p : α → Bool) (f : α → α) (l : List α) : List α := l.map fun x => if p x then f x else x

/-- Insert a number into a rising list without repeats. -/
def insertNat (n : Nat) : List Nat → List Nat
  | [] => [n]
  | m :: l => if n < m then n :: m :: l else if n = m then m :: l else m :: insertNat n l

/-- A rising list without repeats of the numbers given. -/
def sortNat (l : List Nat) : List Nat := l.foldl (fun acc n => insertNat n acc) []

/-- The `i`-th element of a list of words; 0 past its end. -/
def word (l : List (BitVec 64)) (i : Nat) : BitVec 64 := l.getD i 0

end Sys2Proof.Machine
end

