-- ==== Sys2Proof/Machine/Csr.lean ====
section
/-! DEFINITION. The control registers (R355, R358, Table 21.2): numbers, access, reserved bits, stated ranges, reset
values, and reads. The side effects of a write are the events of EvControl.lean. -/
namespace Sys2Proof.Machine

/-- The Access column (R5); `none` for a reserved number. -/
inductive CsrAccess where
  | none | ro | rw | wo
  deriving DecidableEq, Repr

def csrStatus : Nat := 0
def csrSema : Nat := 1
def csrPkgid : Nat := 2
def csrIntv : Nat := 0x100
def csrSeq : Nat := 0x101
def csrMig : Nat := 0x102
def csrRes (c : Nat) : Nat := 0x108 + c
def csrNbr (i : Nat) : Nat := 0x140 + i
def csrFloor (t c : Nat) : Nat := 0x400 + 16 * t + c
def csrRate (t : Nat) : Nat := 0x400 + 16 * t + 5
def csrCap (t : Nat) : Nat := 0x400 + 16 * t + 6
def csrPurse (t : Nat) : Nat := 0x400 + 16 * t + 7
def csrTbase (d : Nat) : Nat := 0x800 + 16 * d
def csrCmd (d : Nat) : Nat := 0x800 + 16 * d + 1
def csrTail (d : Nat) : Nat := 0x800 + 16 * d + 2
def csrTailsz (d : Nat) : Nat := 0x800 + 16 * d + 3
def csrCmdst (d : Nat) : Nat := 0x800 + 16 * d + 4
def csrRegion : Nat := 0x840
def csrAw (w : Nat) : Nat := 0x900 + 8 * w
def csrLen (w : Nat) : Nat := 0x900 + 8 * w + 1
def csrPay (w : Nat) : Nat := 0x900 + 8 * w + 2
def csrScl (w : Nat) : Nat := 0x900 + 8 * w + 3
def csrAwFmt (w : Nat) : Nat := 0x900 + 8 * w + 4
def csrFmRoot : Nat := 0xA00
def csrQbase (q : Nat) : Nat := 0x100000 + 4 * q
def csrQridx (q : Nat) : Nat := 0x100000 + 4 * q + 1
def csrQcfg (q : Nat) : Nat := 0x100000 + 4 * q + 2
def csrQdead (q : Nat) : Nat := 0x100000 + 4 * q + 3
def csrRoot (x : Nat) : Nat := 0x200000 + 16 * x
def csrTenant (x : Nat) : Nat := 0x200000 + 16 * x + 1
def csrNotify (q : Nat) : Nat := 0x1000000 + 8192 * q
def csrPnt (core part j : Nat) : Nat := 0x30000 + 64 * core + 4 * part + j

/-- The access of a register number (Table 21.2). -/
def csrAccess (n : Nat) : CsrAccess :=
  if n = csrStatus then .ro
  else if n = csrSema ∨ n = csrPkgid ∨ n = csrIntv ∨ n = csrMig then .rw
  else if n = csrSeq then .ro
  else if 0x108 ≤ n ∧ n < 0x10D then .rw
  else if 0x140 ≤ n ∧ n < 0x180 then .rw
  else if 0x400 ≤ n ∧ n < 0x800 then (if n % 16 < 7 then .rw else if n % 16 = 7 then .ro else .none)
  else if 0x800 ≤ n ∧ n < 0x840 then
    (if n % 16 = 1 then .wo else if n % 16 < 4 then .rw else if n % 16 = 4 then .ro else .none)
  else if n = csrRegion then .rw
  else if 0x900 ≤ n ∧ n < 0x980 then (if n % 8 < 5 then .rw else .none)
  else if n = csrFmRoot then .rw
  else if 0x30000 ≤ n ∧ n < 0x30000 + 64 * 96 then (if n % 64 < 48 then .ro else .none)
  else if 0x100000 ≤ n ∧ n < 0x100000 + 4 * 4096 then .rw
  else if 0x200000 ≤ n ∧ n < 0x200000 + 16 * 65536 then (if n % 16 < 2 then .rw else .none)
  else if 0x1000000 ≤ n ∧ n < 0x1000000 + 8192 * 4096 then (if n % 8192 = 0 then .wo else .none)
  else .none

/-- Ones in bits `hi` to `lo`. -/
def bitRange (hi lo : Nat) : Nat := (2 ^ (hi - lo + 1) - 1) * 2 ^ lo

/-- The bits a write may set; the others are Reserved (Table 21.2, Tables 14.6, 15.2). -/
def csrDefined (n : Nat) : Nat :=
  if n = csrSema then 3
  else if n = csrPkgid then 0x1FFF
  else if n = csrIntv then 0x1F
  else if n = csrMig then 0xFFFF
  else if 0x108 ≤ n ∧ n < 0x10D then 0xFFFFFFFF
  else if 0x140 ≤ n ∧ n < 0x180 then 0x1FFF
  else if 0x400 ≤ n ∧ n < 0x800 then (if n % 16 < 5 then 0xFFFF else 2 ^ 64 - 1)
  else if 0x800 ≤ n ∧ n < 0x840 then
    (if n % 16 = 0 then bitRange 51 8 else if n % 16 = 1 then 0x3FFF else if n % 16 = 2 then bitRange 51 12 else 2 ^ 64 - 1)
  else if n = csrRegion then bitRange 51 32 + 1
  else if 0x900 ≤ n ∧ n < 0x980 then
    (if n % 8 = 0 then bitRange 51 7 + 1 else if n % 8 = 4 then 1 else 2 ^ 64 - 1)
  else if n = csrFmRoot then bitRange 51 12
  else if 0x100000 ≤ n ∧ n < 0x100000 + 4 * 4096 then (if n % 4 = 2 then 2 ^ 22 - 1 else 2 ^ 64 - 1)
  else if 0x200000 ≤ n ∧ n < 0x200000 + 16 * 65536 then (if n % 16 = 0 then bitRange 51 12 else 0x7F)
  else 2 ^ 64 - 1

/-- Fields with a stated range (Table 21.2): MK.INTV 18 to 24, QC.CFG s 1 to 20, AW.LEN and AW.PAY multiples, MG.SEMA
0 to 2. -/
def csrInRange (n v : Nat) : Bool :=
  if n = csrSema then v % 4 != 3
  else if n = csrIntv then decide (18 ≤ v % 32) && decide (v % 32 ≤ 24)
  else if 0x900 ≤ n ∧ n < 0x980 then (if n % 8 = 1 then v % 128 == 0 else if n % 8 = 2 then v % 64 == 0 else true)
  else if 0x100000 ≤ n ∧ n < 0x100000 + 4 * 4096 then
    (if n % 4 = 2 then decide (1 ≤ v % 32) && decide (v % 32 ≤ 20) else true)
  else true

/-- A value a write may hold (R358). A notify register ignores bits [63:32]. -/
def csrValueOk (n v : Nat) : Bool := v &&& csrDefined n == v && csrInRange n v

/-- Reset values (Table 21.2, Table 14.8). -/
def csrReset (n : Nat) : BitVec 64 :=
  if n = csrStatus then 2
  else if n = csrIntv then 21
  else if 0x800 ≤ n ∧ n < 0x840 ∧ n % 16 = 4 then 0x8000000000000000
  else if 0x100000 ≤ n ∧ n < 0x100000 + 4 * 4096 ∧ n % 4 = 3 then BitVec.allOnes 64
  else 0

/-- The stored value of a register: the table holds its difference from the reset value. -/
def csrRaw (s : State) (n : Nat) : Nat := (getT 0 s.csr n ^^^ csrReset n).toNat

/-- Store a register's value. -/
def csrPut (s : State) (n v : Nat) : State := { s with csr := putT 0 s.csr n (BitVec.ofNat 64 v ^^^ csrReset n) }

/-- What a read returns: WO registers read 0 (R5); MG.STATUS shows TKO and FAB from the state they report (Table 14.8). DESIGN
CHOICE (log 61): FAB tells that MG.PKGID is written, also while every link is down; the spec does not say what links that carry no traffic
make of it. -/
def csrRead (s : State) (n : Nat) : Nat :=
  if csrAccess n = .wo then 0
  else if n = csrStatus then
    csrRaw s n + (if csrRaw s csrPkgid / 4096 % 2 = 1 then 16 else 0) + (if s.reports = [] then 0 else 32)
  else csrRaw s n

/-- The package number (R297). -/
def pkgNum (s : State) : Nat := csrRaw s csrPkgid % 4096

/-- The package number is written, so that fabric traffic may be sent (R297). -/
def fabricUp (s : State) : Bool := csrRaw s csrPkgid / 4096 % 2 == 1

/-- The part is ready (R310). -/
def isReady (s : State) : Bool := csrRaw s csrStatus % 2 == 1

/-- The tenant of a context, and whether the context exists (Table 21.2). -/
def tenantOf (s : State) (ctx : Nat) : Nat := csrRaw s (csrTenant ctx) % 64
def ctxExists (s : State) (ctx : Nat) : Bool := csrRaw s (csrTenant ctx) / 64 % 2 == 1

/-- The numbers of the reserved firmware cores (R18, Table 14.8). -/
def fwCore (s : State) (die : Nat) : Nat := csrRaw s csrStatus / 2 ^ (8 + 8 * die) % 128

end Sys2Proof.Machine
end

