-- ==== Sys2Proof/Machine/Fabric.lean ====
section
/-! DEFINITION. What this package knows of its links and peers, and the sending of packets (R297, R299 to R303, R400 to R402, R427). -/
namespace Sys2Proof.Machine

/-- The first plane from one on, in ascending order and wrapping after 17, that is not dead (R401). -/
def planeFrom (dead : BitVec 18) : Nat → Nat → Nat
  | 0, p => p % 18
  | fuel + 1, p => if dead.getLsbD (p % 18) then planeFrom dead fuel (p + 1) else p % 18

def peerOf (s : State) (pkg : Nat) : Peer := getT {} s.peers pkg
def setPeer (s : State) (pkg : Nat) (p : Peer) : State := { s with peers := putT {} s.peers pkg p }

/-- Planes whose link of this package is down (R427). -/
def downPlanes (s : State) : BitVec 18 := s.links.foldl (fun m l => if l.2.up then m else m ||| BitVec.ofNat 18 (2 ^ l.1)) 0

/-- Planes dead for the pair of this package and a peer (R427): this package's link is down, or has been and no packet from the peer
has come on the plane since, or a packet has waited too long. -/
def deadPlanes (s : State) (pkg : Nat) : BitVec 18 := (peerOf s pkg).dead ||| downPlanes s ||| (s.fell &&& ~~~(peerOf s pkg).back)

/-- Why a peer cannot be reached (R402): 2 declared failed, 3 no such package, 1 every plane dead; 0 reachable. A declaration goes before
the dead planes that led to it (Table 25.4). -/
def unreachable (s : State) (pkg : Nat) : Nat :=
  let p := peerOf s pkg
  if p.failed then 2 else if p.unknown then 3 else if deadPlanes s pkg = BitVec.allOnes 18 then 1 else 0

/-- Kinds whose packets are counted per stream (R300): all but LIVE, MCAST and RED. -/
def streamed (kind : Nat) : Bool := kind != 0 && kind != 0x0A && kind != 0x0B

/-- Kinds kept until they are answered or acknowledged (R303, R401). -/
def keptKind (kind : Nat) : Bool := [0x01, 0x03, 0x06, 0x08, 0x0A, 0x0B, 0x0D, 0x0F, 0x11].contains kind

/-- A context is class-0 when its tenant holds a floor in any class (R290). -/
def classZero (s : State) (ctx : Nat) : Bool :=
  (List.range 5).any fun c => csrRaw s (csrFloor (tenantOf s ctx) c) % 65536 != 0

/-- A packet may leave on its link: before MG.PKGID is written only LIVE does (R297); packets for a retraining link wait at its
sender (R400), and a multicast store waits while the plane of its group is dead (R401). -/
def mayLeave (s : State) (p : Packet) : Bool :=
  p.kind == 0x00
    || (fabricUp s && !(getT {} s.links p.via).training && !(p.kind == 0x0A && (downPlanes s).getLsbD p.via))

/-- A packet that leaves has the package's number (R297), and so has the header of a sequence in it (Table 15.3). -/
def underNumber (s : State) (p : Packet) : Packet :=
  let header : Bool := p.kind == 0x0D && p.operand.toNat % 16 == 1
  { p with src := pkgNum s, data := if header then p.data - p.data / 2 ^ 64 % 2 ^ 12 * 2 ^ 64 + pkgNum s * 2 ^ 64 else p.data }

/-- Packets that wait at this package leave once they may, those of PRIO ahead of the others, under the package's number (R297, R303, R400,
R401). What is kept of them has that number too. -/
def flushOut (s : State) : State :=
  let out := s.outbox.filter (mayLeave s)
  { s with sent := s.sent ++ (out.filter Packet.prio ++ out.filter fun p => !p.prio).map (underNumber s)
           kept := mapIf (fun k => out.contains k.packet) (fun k => { k with packet := underNumber s k.packet }) s.kept
           outbox := s.outbox.filter fun p => !mayLeave s p }

/-- A packet leaves, or waits at this package. -/
def depart (s : State) (p : Packet) : State :=
  if mayLeave s p then { s with sent := s.sent ++ [p] } else { s with outbox := s.outbox ++ [p] }

/-- The table key of a count of packets: one for each stream, and one of its own for liveness flits, multicast stores and contributions,
which carry no stream sequence; the latter two are told apart by their number (R300, R401). -/
def countKey (kind dst plane : Nat) : Nat := (if streamed kind then 0 else (kind + 1) * 2 ^ 20) + dst * 32 + plane

/-- The plane that a packet travels on (R401): the next one that is live when its own is dead for the pair. Packets to one link, to a group, and
probes have no other. -/
def viaPlane (s : State) (p : Packet) (plane : Nat) : Nat :=
  if [0x00, 0x0A, 0x11, 0x12].contains p.kind then plane else planeFrom (deadPlanes s p.dst) 18 plane

/-- Send a packet of a plane (R299 to R301). DESIGN CHOICE (log 63): its stream is that of its plane under R299 also while it travels on
another, so that the packets of one line stay in one order (R266, R401). -/
def sendOn (s : State) (p : Packet) (plane : Nat) (k : Kept) : State :=
  let key := countKey p.kind p.dst plane
  let n := getT 0 s.sendSeq key
  let p := { p with src := pkgNum s, plane := plane, via := viaPlane s p plane, seq := n, prio := classZero s p.ctx }
  { depart s p with
      sendSeq := putT 0 s.sendSeq key ((n + 1) % 2 ^ 32)
      kept := if keptKind p.kind then s.kept ++ [{ k with packet := p }] else s.kept }

/-- An empty packet of a kind to a package. -/
def packet (kind dst ctx offset : Nat) : Packet :=
  { kind := kind, prio := false, src := 0, dst := dst, plane := 0, via := 0, seq := 0, len := 0, ctx := ctx, offset := offset,
    mask := 0, operand := 0, data := 0 }

/-- The header flit of a packet (R301, Table 14.1). PLANE is the plane of its stream (log 63). -/
def headerFlit (p : Packet) : BitVec 512 :=
  let put (at_ width x : Nat) : Nat := x % 2 ^ width * 2 ^ at_
  BitVec.ofNat 512 (put 0 5 p.kind + put 5 1 p.prio.toNat + put 6 12 p.src + put 18 12 p.dst + put 30 5 p.plane + put 35 32 p.seq
    + put 67 7 p.len + put 74 16 p.ctx + put 90 48 p.offset + put 138 128 p.mask.toNat + put 266 64 p.operand.toNat)

/-- The plane of a packet about a line of a package (R299). -/
def linePlane (off dst : Nat) : Nat := ((off / 2 ^ 7 % 4096) ^^^ dst) % 18

/-- Stands for the lane of a packet that is no lane's. -/
def noLane : Nat := 512

/-- Send a packet about a line of a peer (R299). -/
def sendLine (s : State) (p : Packet) (core tid va : Nat) (flag : Bool) : State :=
  sendOn s p (linePlane p.offset p.dst) ⟨p, core, tid, va, flag, 0, noLane⟩

end Sys2Proof.Machine
end

