-- ==== Sys2Proof/Machine/Memory.lean ====
section
/-! DEFINITION. Memory behind its home slices, and the caches (R235 to R245): reads and writes at the home, lines of L1
and of the RDC shares, ownership of words, registrations, recalls, revocations, acquire and release. -/
namespace Sys2Proof.Machine

/-- The home die of a physical address: stack s is homed on die s / 2 (R20, R355, R356). -/
def homeDie (pa : Nat) : Nat := pa / 2 ^ 36 % 8 / 2

/-- The home slice of a physical address, numbered die × 32 + slice (R356). -/
def homeSlice (pa : Nat) : Nat := homeDie pa * 32 + (pa / 2 ^ 7 % 32 ^^^ pa / 2 ^ 12 % 32)

/-- The die of a core or matrix control core (R16). -/
def dieOfCore (core : Nat) : Nat := (if core < 96 then core / 3 else core - 96) / 8

/-- The cluster of a core or matrix control core (R16). -/
def cluOfCore (core : Nat) : Nat := if core < 96 then core / 3 else core - 96

/-- The key of the line an address lies in: of this package's memory, or of a peer. -/
def lineKey : Loc → Nat
  | .hbm pa => pa / 128
  | .peer pkg off => 2 ^ 58 + pkg * 2 ^ 41 + off / 128
  | _ => 0

/-- The byte offset of an address in its line. -/
def lineOff : Loc → Nat
  | .hbm pa => pa % 128
  | .peer _ off => off % 128
  | _ => 0

/-- The table key of a line in a core's L1 or RDC share. -/
def cacheKey (core line : Nat) : Nat := core * 2 ^ 60 + line

def l1Line (s : State) (core line : Nat) : Line := getT {} s.l1 (cacheKey core line)
def rdcLine (s : State) (core line : Nat) : Line := getT {} s.rdc (cacheKey core line)
def setL1 (s : State) (core line : Nat) (l : Line) : State := { s with l1 := putT {} s.l1 (cacheKey core line) l }
def setRdc (s : State) (core line : Nat) (l : Line) : State := { s with rdc := putT {} s.rdc (cacheKey core line) l }

/-- Ones in bits `b` to `b + n - 1`. -/
def span (b n : Nat) : BitVec 128 := BitVec.ofNat 128 ((2 ^ n - 1) * 2 ^ b)

/-- All the bytes of a range of the line are valid. -/
def lineHas (l : Line) (b n : Nat) : Bool := l.valid &&& span b n == span b n

/-- Bytes of a line as a little-endian number. -/
def lineRead (l : Line) (b n : Nat) : Nat := l.data.toNat / 2 ^ (8 * b) % 2 ^ (8 * n)

/-- Write bytes of a line; they become valid, and dirty and fresh for a store of the core. -/
def lineWrite (l : Line) (b n x : Nat) (dirty : Bool) : Line :=
  let m : BitVec 1024 := BitVec.ofNat 1024 ((2 ^ (8 * n) - 1) * 2 ^ (8 * b))
  { data := (l.data &&& ~~~m) ||| BitVec.ofNat 1024 (x % 2 ^ (8 * n) * 2 ^ (8 * b))
    valid := l.valid ||| span b n
    dirty := if dirty then l.dirty ||| span b n else l.dirty
    fresh := if dirty then l.fresh ||| span b n else l.fresh }

/-- The dirty bytes of a line whose stores the home has accepted: those a recall or a write-back moves (R240). -/
def heldBytes (l : Line) : BitVec 128 := l.dirty &&& ~~~l.fresh

/-- Keep only the bytes of `m` in a line; an empty line is gone. -/
def keepBytes (l : Line) (m : BitVec 128) : Line :=
  if l.valid &&& m = 0 ∧ l.dirty &&& m = 0 then {} else { l with valid := l.valid &&& m, dirty := l.dirty &&& m, fresh := l.fresh &&& m }

/-- The core that owns a word, + 1; 0 for none (R240). -/
def ownerOf (s : State) (word : Nat) : Nat := getT 0 s.owners word

/-- A dirty line of a core's L1 is lost to an uncorrectable error (R391). -/
def dirtyLost (s : State) (core line : Nat) : Bool := s.bad.contains (2, cacheKey core line)

/-- A byte that the owner of its word holds dirty and accepted, else the byte at the home (R240); the home's earlier value for a line
that is lost (Table 24.3). -/
def coherentByte (s : State) (pa : Nat) : BitVec 8 :=
  let o := ownerOf s (pa / 4)
  let l := l1Line s (o - 1) (pa / 128)
  if o ≠ 0 ∧ (heldBytes l).getLsbD (pa % 128) ∧ ¬ dirtyLost s (o - 1) (pa / 128) then BitVec.ofNat 8 (lineRead l (pa % 128) 1) else readByte s.mem pa

/-- `n` bytes as a read at the home finds them after recalling dirty bytes. -/
def coherentN (s : State) (pa : Nat) : Nat → Nat
  | 0 => 0
  | n + 1 => (coherentByte s pa).toNat + 256 * coherentN s (pa + 1) n

/-- A write keeps the bytes that it replaces for every running launch, since that launch may still fetch them (R390; log 7). -/
def noteWrite (s : State) (pa n : Nat) : State :=
  { s with oldCode := ((s.launches.filter fun l => l.started && !l.retired).map fun l => ⟨l.id, pa, n, coherentN s pa n⟩) ++ s.oldCode }

/-- Every monitor on the line is woken (R202). -/
def wakeLine (s : State) (line : Nat) : State :=
  { s with monitors := mapIf (fun m => lineKey m.loc == line && m.armed) (fun m => { m with woken := true }) s.monitors }

/-- A core's copies of a word are dropped from its L1 and RDC share; bytes of stores not yet accepted stay. -/
def dropWord (s : State) (core word : Nat) : State :=
  let line := word / 32
  let cut (l : Line) : Line := keepBytes l (l.fresh ||| ~~~(span (word % 32 * 4) 4))
  setRdc (setL1 s core line (cut (l1Line s core line))) core line (cut (rdcLine s core line))

/-- The report of a dirty line that never reached its home (R391): it waits at the core that owned the words, which is still to be
stopped, and is made once for the line. DEDUCED (log 30): the group it names is one of that core; the spec does not say which. -/
def noteLoss (s : State) (core line : Nat) : State :=
  let g := (((s.g :: s.others).find? fun g => g.live && g.core == core).or (s.past.reverse.find? fun g => g.core == core)).getD {}
  let r : Record := { cause := 0x0E, code := 2, core := if 96 ≤ core then core - 96 else core, mcc := decide (96 ≤ core), die := dieOfCore core
                      part := g.part, slot := g.slot, ctx := g.ctx, launch := g.launch, pc := g.pc, tid := g.tid, addrs := [line * 128], async := true, late := true }
  if s.trapWait.contains r then s else { s with trapWait := s.trapWait ++ [r] }

/-- The dirty bytes of a word go to the home and are clean from then on; the owner keeps its ownership (R240). Those of a lost line
never get there (R391, Table 24.3). -/
def recallWord (s : State) (word : Nat) : State :=
  let o := ownerOf s word
  let line := word / 32
  let l := l1Line s (o - 1) line
  let b := word % 32 * 4
  if o = 0 ∨ heldBytes l &&& span b 4 = 0 then s
  else if dirtyLost s (o - 1) line then noteLoss (dropWord s (o - 1) word) (o - 1) line
  else
    let mem := [0, 1, 2, 3].foldl (fun m i =>
      if (heldBytes l).getLsbD (b + i) then writeByte m (word * 4 + i) (BitVec.ofNat 8 (lineRead l (b + i) 1)) else m) s.mem
    setL1 { s with mem := mem } (o - 1) line { l with dirty := l.dirty &&& ~~~(span b 4 &&& ~~~l.fresh) }

/-- The owner of a word writes back its dirty bytes and drops its copy; the word has no owner then (R240, R243). -/
def revokeWord (s : State) (word : Nat) : State :=
  let o := ownerOf s word
  if o = 0 then s
  else
    let s := dropWord (recallWord s word) (o - 1) word
    { s with owners := putT 0 s.owners word 0 }

/-- The words a byte range touches. -/
def wordsOf (pa n : Nat) : List Nat := (List.range ((pa + n - 1) / 4 - pa / 4 + 1)).map (pa / 4 + ·)

/-- A write performed at the home after recalling and revoking every owner of a touched word (R199, R207, R243). -/
def homeWrite (s : State) (pa n x : Nat) : State :=
  if n = 0 then s
  else
    let s := (wordsOf pa n).foldl revokeWord (noteWrite s pa n)
    let s := { s with mem := writeN s.mem pa n x }
    wakeLine (if (pa + n - 1) / 128 = pa / 128 then s else wakeLine s ((pa + n - 1) / 128)) (pa / 128)

/-- A read performed at the home after recalling every dirty byte (R207, R243). -/
def homeRead (s : State) (pa n : Nat) : Nat := coherentN s pa n

/-- Bytes of a line that the core keeps at an acquire: the words it owns (R242), and the bytes of stores on their way to the
home. -/
def keptWords (s : State) (core line : Nat) : BitVec 128 :=
  (List.range 32).foldl (fun (m : BitVec 128) i =>
    if line < 2 ^ 58 ∧ ownerOf s (line * 32 + i) = core + 1 then m ||| span (4 * i) 4 else m) 0

/-- Drop from a core's lines every byte it does not keep. -/
def invalidate (s : State) (core : Nat) (t : Table Line) : Table Line :=
  t.filterMap fun (k, l) =>
    if k / 2 ^ 60 = core then
      let l' := keepBytes l (keptWords s core (k % 2 ^ 60) ||| l.fresh)
      if l' = {} then none else some (k, l')
    else some (k, l)

/-- Lines of peers that a core has asked for are not to be kept in its caches when they come. -/
def uncacheAsked (s : State) (p : Kept → Bool) : State :=
  { s with kept := mapIf (fun k => k.packet.kind == 0x01 && p k) (fun k => { k with flag := true }) s.kept }

/-- An acquire (R143, R242): the core's L1 and RDC share keep only words it owns. -/
def acquire (s : State) (core : Nat) : State :=
  let s := { s with l1 := invalidate s core s.l1, rdc := invalidate s core s.rdc }
  uncacheAsked s fun k => k.core == core

/-- Whether a request of a flight is a store or an atomic not yet performed. -/
def unperformedWrite (f : Flight) : Bool :=
  f.reqs.any (fun r => !r.done && (r.kind == .store || r.kind == .windowSt)) || f.atoms.any (fun a => !a.done)

/-- A release is done when no store or atomic issued by any group of the core is still to be registered or performed
(R143). -/
def released (s : State) (core : Nat) : Bool :=
  !(s.pending.any fun p => p.core == core) && !(s.flights.any fun f => f.core == core && unperformedWrite f)

/-- The line as a fill brings it: bytes the core already holds dirty keep their value (R239, R240). It is of ordinary priority. -/
def fillLine (s : State) (core line data : Nat) : State :=
  let l := l1Line s core line
  let keep : BitVec 1024 := (List.range 128).foldl (fun (m : BitVec 1024) i =>
    if l.dirty.getLsbD i then m ||| BitVec.ofNat 1024 (255 * 2 ^ (8 * i)) else m) 0
  setL1 s core line { l with data := (l.data &&& keep) ||| (BitVec.ofNat 1024 data &&& ~~~keep)
                             valid := BitVec.allOnes 128, low := false }

/-- A line that a stream access has brought in is of the lowest priority (R243). -/
def lowerLine (s : State) (core line : Nat) : State :=
  let put (l : Line) : Line := if l = {} then l else { l with low := true }
  setRdc (setL1 s core line (put (l1Line s core line))) core line (put (rdcLine s core line))

/-- A write of the bytes of a line that a mask names, as one write at the home (R199, R241): owners of the touched words are revoked. -/
def maskedWrite (s : State) (line : Nat) (m : BitVec 128) (data : Nat) : State :=
  if m = 0 then s
  else
    let ws := ((List.range 32).filter fun i => m &&& span (4 * i) 4 != 0).map (line * 32 + ·)
    let s := ws.foldl revokeWord (noteWrite s (line * 128) 128)
    let put (c : Cells) (i : Nat) : Cells := if m.getLsbD i then writeByte c (line * 128 + i) (BitVec.ofNat 8 (data / 2 ^ (8 * i))) else c
    wakeLine { s with mem := (List.range 128).foldl put s.mem } line

/-- Recall the dirty words of a byte range of this package. -/
def recallRange (s : State) (pa n : Nat) : State := if n = 0 then s else (wordsOf pa n).foldl recallWord s

/-- Recall every dirty word of a line of this package. -/
def recallLine (s : State) (line : Nat) : State := (List.range 32).foldl (fun s i => recallWord s (line * 32 + i)) s

/-- The line's home is on another die or package, so its fills pass through the core's RDC share (R239). The shares are those of the 24
compute cores of a die (R236): a matrix control core has none. -/
def remoteLine (core line : Nat) : Bool := decide (core < 96) && (decide (line ≥ 2 ^ 58) || homeDie (line * 128) != dieOfCore core)

/-! Capacities (Table 02.2). -/

/-- Lines of 128 bytes that an L1 of 512 KiB and an RDC share of 1 MiB hold. -/
def l1Lines : Nat := 4096
def rdcLines : Nat := 8192

/-- The lines that a core has in a cache. -/
def linesOf (t : Table Line) (core : Nat) : List (Nat × Line) :=
  t.filterMap fun e => if e.1 / 2 ^ 60 = core then some (e.1 % 2 ^ 60, e.2) else none

/-- A line leaves L1 (R240 step 4): its accepted dirty bytes reach the home, and bytes of stores on their way stay. -/
def leaveL1 (s : State) (core line : Nat) : State :=
  let own := ((List.range 32).map (line * 32 + ·)).filter fun w => line < 2 ^ 58 && ownerOf s w == core + 1
  let s := own.foldl recallWord s
  let l := l1Line s core line
  setL1 s core line (keepBytes l l.fresh)

/-- Bytes of stores that the home has not accepted keep a line in L1. -/
def evictable (l : Line) : Bool := l.fresh == 0

/-- A line that is to enter L1 finds room, or may find it by an eviction. -/
def l1Room (s : State) (core : Nat) (lines : Nat) : Bool :=
  decide (((linesOf s.l1 core).filter fun e => !evictable e.2).length + lines ≤ l1Lines)

/-- The lines among which a full cache chooses: those of lowest priority, if there are any (R243). -/
def victims (ls : List (Nat × Line)) : List (Nat × Line) :=
  if ls.any fun e => e.2.low then ls.filter fun e => e.2.low else ls

/-- Room in L1 for a line: a full L1 gives up a line that a free value names (log 60). DESIGN CHOICE (log 60): a matrix control core has
an L1 as a compute core has; the spec does not say. -/
def makeRoomL1 (s : State) (core line : Nat) : State :=
  let ls := linesOf s.l1 core
  let outs := victims (ls.filter fun e => evictable e.2)
  if ls.length < l1Lines ∨ ls.any (fun e => e.1 == line) ∨ outs = [] then s
  else
    let (n, s) := drawFree s
    leaveL1 s core ((outs.getD (Config.freeVictim n % outs.length) (0, {})).1)

/-- The package and offset of a peer's line. -/
def linePkg (line : Nat) : Nat := (line - 2 ^ 58) / 2 ^ 41
def lineOffset (line : Nat) : Nat := line % 2 ^ 41 * 128

/-- A line leaves an RDC share; the home of a peer's line is told (R302). -/
def leaveRdc (s : State) (core line : Nat) : State :=
  let ctx := (rdcLine s core line).ctx
  let s := setRdc s core line {}
  if 2 ^ 58 ≤ line then sendLine s (packet 0x04 (linePkg line) ctx (lineOffset line)) core 0 0 false else s

/-- Room in an RDC share for a line. -/
def makeRoomRdc (s : State) (core line : Nat) : State :=
  let ls := linesOf s.rdc core
  if ls.length < rdcLines ∨ ls.any (fun e => e.1 == line) then s
  else
    let (n, s) := drawFree s
    let outs := victims ls
    leaveRdc s core ((outs.getD (Config.freeVictim n % outs.length) (0, {})).1)

/-- A line enters a core's RDC share whole. -/
def fillRdc (s : State) (core line data : Nat) : State :=
  setRdc (makeRoomRdc s core line) core line { data := BitVec.ofNat 1024 data, valid := BitVec.allOnes 128 }

/-- The dies of this package whose RDC shares hold a line, which its directory entry records (R242). -/
def holdingDies (s : State) (line : Nat) : List Nat :=
  (List.range 4).filter fun d => s.rdc.any fun e => e.1 % 2 ^ 60 == line && e.1 / 2 ^ 60 < 96 && dieOfCore (e.1 / 2 ^ 60) == d

/-! L2 (R244): 32 slices of 2 MiB on each die, 16 ways, so 1,024 sets. `mem` holds what the home slice and the HBM behind it hold together;
`l2` says which lines are in which way. -/

/-- Slice and set of a line; the set is a choice of the model (log 60). -/
def l2Place (line : Nat) : Nat × Nat := (homeSlice (line * 128), line / 32 % 1024)

/-- The ways of a slice that a context's fills may enter: those it leases, or the common ways when it leases none (R244). -/
def waysFor (s : State) (ctx : Option Nat) (slice : Nat) : List Nat :=
  let mine := (List.range 12).filter fun w => match ctx with
    | some x => getT 0 s.held (2 * 4096 + slice * 12 + w) == x + 1
    | none => false
  if mine = [] then [12, 13, 14, 15] else mine

/-- The line that a way of a set holds. -/
def wayLine (s : State) (place : Nat × Nat) (way : Nat) : Option Nat :=
  (s.l2.find? fun e => e.2 == way + 1 && l2Place e.1 == place).map fun e => e.1

/-- A line lies in this package's journal region (R315). -/
def inRegion (s : State) (line : Nat) : Bool :=
  csrRaw s csrRegion % 2 == 1 && line * 128 / 2 ^ 32 == csrRaw s csrRegion / 2 ^ 32

/-- A clean line of an L2 slice is lost: it is fetched again, and the error is counted (R391, Table 24.3). -/
def healL2 (s : State) (line : Nat) : State :=
  if s.bad.contains (11, line) then
    let die := homeDie (line * 128)
    { s with bad := s.bad.filter (· != (11, line)), ecc := putT 0 s.ecc die (getT 0 s.ecc die + 1) }
  else s

/-- A line of this package enters L2 for a context; a full set gives up the line of a way that a free value names. Lines of the journal
region go to the common ways. -/
def fillL2 (s : State) (ctx : Option Nat) (line : Nat) : State :=
  let s := healL2 s line
  if getT 0 s.l2 line ≠ 0 then s
  else
    let ways := waysFor s (if inRegion s line then none else ctx) (l2Place line).1
    match ways.find? fun w => (wayLine s (l2Place line) w).isNone with
    | some w => { s with l2 := putT 0 s.l2 line (w + 1) }
    | none =>
      let (n, s) := drawFree s
      let w := ways.getD (Config.freeVictim n % ways.length) 12
      match wayLine s (l2Place line) w with
      | some old => { s with l2 := putT 0 (putT 0 s.l2 old 0) line (w + 1) }
      | none => { s with l2 := putT 0 s.l2 line (w + 1) }

/-! Fills and stores. -/

/-- Bring a line of this package into a core's L1: from its RDC share when that holds it whole, else from the home after
recalls, through the RDC share when the home is remote (R239). -/
def fetchLine (s : State) (core line : Nat) : State :=
  let s := makeRoomL1 s core line
  let share := rdcLine s core line
  if share.valid = BitVec.allOnes 128 then fillLine s core line share.data.toNat
  else
    let s := recallLine s line
    let data := readN s.mem (line * 128) 128
    fillLine (if remoteLine core line then fillRdc s core line data else s) core line data

/-- Bring a line into L1 for a context: a line that its RDC share does not hold enters L2 as well (R239, R244). -/
def bringLine (s : State) (core : Nat) (ctx : Option Nat) (line : Nat) : State :=
  fetchLine (if (rdcLine s core line).valid = BitVec.allOnes 128 then s else fillL2 s ctx line) core line

/-- The line is brought in as an access of the stream policy brings it, or as any other (R243). -/
def bringBy (s : State) (core : Nat) (ctx : Option Nat) (low : Bool) (line : Nat) : State :=
  let t := bringLine s core ctx line
  if low then lowerLine t core line else t

/-- Add a registration unless the same one is still on its way. -/
def addPending (s : State) (core : Nat) (pair : Bool) (word : Nat) : State :=
  let same (p : Pending) : Bool := p.core == core && p.word == word && !p.atHome
  if s.pending.any same then { s with pending := mapIf same (fun p => { p with pair := p.pair || pair }) s.pending }
  else { s with pending := s.pending ++ [⟨core, word, false, pair⟩] }

/-- A core's RDC share no longer holds a word whose newer bytes its L1 or the home has (A1 of R263). -/
def dropShare (s : State) (core word : Nat) : State :=
  setRdc s core (word / 32) (keepBytes (rdcLine s core (word / 32)) (~~~(span (word % 32 * 4) 4)))

/-- A normal or stream store to this package (R240 steps 1, 2): the line is brought in, the bytes are written dirty, and
each touched word is registered. Accepted bytes that the core holds dirty go to the home first. -/
def storeOwned (s : State) (core : Nat) (ctx : Option Nat) (low : Bool) (pa n x : Nat) : State :=
  let line := pa / 128
  let s := noteWrite s pa n
  let s := if (l1Line s core line).valid = BitVec.allOnes 128 then s else bringBy s core ctx low line
  let s := (wordsOf pa n).foldl (fun s w => dropShare (if ownerOf s w = core + 1 then recallWord s w else s) core w) s
  let s := setL1 s core line (lineWrite (l1Line s core line) (pa % 128) n x true)
  (wordsOf pa n).foldl (fun s w => addPending s core (n == 8) w) s

/-- The issuing core's own copies take the bytes of a bypass store or of a posted store (R241, R243). -/
def updateCopies (s : State) (core : Nat) (loc : Loc) (n x : Nat) : State :=
  let line := lineKey loc
  let b := lineOff loc
  let upd (l : Line) : Line := if l.valid &&& span b n = 0 then l else { lineWrite l b n x false with valid := l.valid }
  setRdc (setL1 s core line (upd (l1Line s core line))) core line (upd (rdcLine s core line))

/-- A core's L1 and RDC copies of the words of a byte range are invalidated (R207, R286); accepted dirty bytes are recalled
first. -/
def dropRange (s : State) (core lo hi : Nat) : State :=
  (wordsOf lo (hi - lo + 1)).foldl (fun s w =>
    let s := if ownerOf s w = core + 1 then revokeWord s w else s
    dropWord s core w) s

end Sys2Proof.Machine
end

