-- ==== Sys2Proof/Machine/Ops.lean ====
section
/-! DEFINITION. The named operations over registers, lanes, threads and blocks; taking a trap and returning from one
(R359 to R364, R138, R141); sending a packet. -/
namespace Sys2Proof.Machine

/-- The outcome of a meaning. -/
abbrev Out := Host.Outcome State Fault Refusal

/-! Scalars and predicates. -/

/-- `K[n]`: k0 reads zero (R6). -/
def readK (g : Group) (n : Fin 64) : BitVec 64 := if n = 0 then 0 else g.k[n]

/-- Write `K[n]`; a write to k0 is discarded (R6). -/
def writeK (g : Group) (n : Fin 64) (x : BitVec 64) : Group :=
  if n = 0 then g else { g with k := g.k.set n x, kBad := g.kBad &&& ~~~(BitVec.ofNat 64 (2 ^ n.val)) }

/-- `Q[n]`: q0 reads 1 in every lane (R6). -/
def readQ (g : Group) (n : Fin 8) : Mask := if n = 0 then BitVec.allOnes 512 else g.q[n]

/-- Write `Q[n]`; a write to q0 is discarded (R6). -/
def writeQ (g : Group) (n : Fin 8) (x : Mask) : Group := if n = 0 then g else { g with q := g.q.set n x }

/-- K[n] is empty; k0 is always full (R34). -/
def kIsEmpty (g : Group) (n : Fin 64) : Bool := n != 0 && g.kEmpty.getLsbD n

/-- Mark K[n] empty or full. -/
def setKEmpty (g : Group) (n : Fin 64) (e : Bool) : Group :=
  let b : BitVec 64 := BitVec.ofNat 64 (2 ^ n.val)
  if n = 0 then g else { g with kEmpty := if e then g.kEmpty ||| b else g.kEmpty &&& ~~~b }

/-- A scalar register by number modulo 64. -/
def kAt (n : Nat) : Fin 64 := ⟨n % 64, by omega⟩

/-- `kN` to `kN+count-1`. -/
def readRegs (g : Group) (n count : Nat) : List (BitVec 64) := (List.range count).map fun i => readK g (kAt (n + i))

/-- Any of `kN` to `kN+count-1` is empty. -/
def anyEmpty (g : Group) (n count : Nat) : Bool := (List.range count).any fun i => kIsEmpty g (kAt (n + i))

/-! Vector fields and lanes. -/

/-- Key of a lane of a physical vector register. -/
def laneKey (phys lane : Nat) : Nat := phys * 512 + lane

/-- The physical register a field names (R33). -/
def physReg (g : Group) (f : Fin 64) : Nat := f.val + g.wv.toNat

/-- `V[n].lane[i]` (R6). -/
def readV (g : Group) (f : Fin 64) (i : Nat) : BitVec 64 := getT 0 g.v (laneKey (physReg g f) i)

/-- Write lanes of a physical register. -/
def writeLanes (g : Group) (phys : Nat) (xs : List (Nat × BitVec 64)) : Group :=
  { g with v := putAll 0 g.v (xs.map fun p => (laneKey phys p.1, p.2))
           vBad := g.vBad.filter fun k => !xs.any fun p => laneKey phys p.1 == k }

/-- A row of a physical register is empty (R34). -/
def rowEmpty (g : Group) (phys row : Nat) : Bool := g.vEmpty.getLsbD (phys * 16 + row)

/-- Mark rows of a physical register empty or full. -/
def setRows (g : Group) (phys : Nat) (rows : BitVec 16) (e : Bool) : Group :=
  let b : BitVec 4096 := BitVec.ofNat 4096 (rows.toNat * 2 ^ (phys * 16))
  { g with vEmpty := if e then g.vEmpty ||| b else g.vEmpty &&& ~~~b }

/-- Lanes of the group: 32 per row (R28). -/
def laneCount (g : Group) : Nat := 32 * g.rows

/-- The lanes of a mask, ascending (R8). -/
def lanesOf (g : Group) (m : Mask) : List Nat := (List.range (laneCount g)).filter fun i => m.getLsbD i

/-- The mask of the lanes for which `active(i)` holds (R6). -/
def activeMask (g : Group) (q : Fin 8) : Mask := g.M &&& readQ g q

/-- A set of lanes as a mask. -/
def maskOf (l : List Nat) : Mask := l.foldl (fun m i => m ||| BitVec.ofNat 512 (2 ^ i)) 0

/-- All rows of the group. -/
def allRows (g : Group) : BitVec 16 := BitVec.ofNat 16 (2 ^ g.rows - 1)

/-- The rows that hold lanes of the list. -/
def rowsOf (l : List Nat) : BitVec 16 := l.foldl (fun m i => m ||| BitVec.ofNat 16 (2 ^ (i / 32))) 0

/-! Control of the thread. -/

/-- The thread runs on a matrix control core. -/
def onMcc (g : Group) : Bool := decide (96 ≤ g.core)

/-- The address a record names: the first word of the hint run (R103, R359). -/
def unitPc (g : Group) : Nat := if g.run = [] then g.pc else g.runPc

/-- Addresses and sums are kept to 64 bits. -/
def wrap64 (x : Nat) : Nat := x % 2 ^ 64

/-- Kind and payload of a hint word (Table 06.1). -/
def hintKind (w : Nat) : Nat := w / 2 ^ 21 % 16
def hintPayload (w : Nat) : Nat := w % 2 ^ 21

/-- What an `HS` word of the run leaves behind once the instruction has issued (R102): yield or a hold count. -/
def afterHints (g : Group) : Group :=
  match g.run.find? fun w => hintKind w == 2 with
  | none => { g with run := [], hold := g.hold - 1 }
  | some w => if w % 4 = 1 then { g with run := [], last := true, hold := 0 }
              else { g with run := [], hold := hintPayload w / 4 % 32 }

/-- Go on at the next word; the run of hints is used up (R92, R103). -/
def advance (g : Group) : Group := { afterHints g with pc := g.pc + 4, landed := false }

/-- Go on at an address a transfer of control names (R375). -/
def jumpTo (g : Group) (target : Nat) : Group := { afterHints g with pc := target, landed := true }

/-- Count an instruction in the thread's window (R65). -/
def countIssue (s : State) : State :=
  { s with windows := mapIf (fun w => w.saved.tid == s.g.tid) (fun w => { w with issued := w.issued + 1 }) s.windows }

/-- The window of a thread, if one is open (R64). -/
def windowOf (s : State) (tid : Nat) : Option Window := s.windows.find? fun w => w.saved.tid == tid

/-- The instruction has issued: the thread goes on at the next word. -/
def finish (s : State) (g : Group) : Out := .next (countIssue { s with g := advance g })

/-- The instruction has issued and moved control. -/
def finishAt (s : State) (g : Group) (target : Nat) : Out := .next (countIssue { s with g := jumpTo g target })

/-- The instruction does not issue in this step (R36 to R38, R42): nothing changes. -/
def stall (s : State) : Out := .next s

/-- Change the thread with the given number, current or not. -/
def updThread (s : State) (tid : Nat) (f : Group → Group) : State :=
  if s.g.live ∧ s.g.tid = tid then { s with g := f s.g }
  else { s with others := mapIf (fun g => g.tid == tid) f s.others }

/-- Change the thread and its window's checkpoint: a result that lands reaches both (R66). -/
def landThread (s : State) (tid : Nat) (f : Group → Group) : State :=
  let s := updThread s tid f
  { s with windows := mapIf (fun w => w.saved.tid == tid) (fun w => { w with saved := f w.saved }) s.windows }

/-- Do something as if a thread were the current one. -/
def onThread (s : State) (tid : Nat) (f : State → State) : State :=
  if s.g.live ∧ s.g.tid = tid then f s
  else match s.others.find? fun g => g.live && g.tid == tid with
    | none => s
    | some g =>
      let t := f { s with g := g, others := mapIf (fun x => x.tid == tid) (fun _ => s.g) s.others }
      { t with g := (t.others.find? fun x => x.tid == s.g.tid).getD s.g, others := mapIf (fun x => x.tid == s.g.tid) (fun _ => t.g) t.others }

/-- A live thread by number. -/
def thread? (s : State) (tid : Nat) : Option Group :=
  if s.g.live ∧ s.g.tid = tid then some s.g else s.others.find? fun g => g.live && g.tid == tid

/-- Every live thread. -/
def threads (s : State) : List Group := (s.g :: s.others).filter Group.live

/-- Change every live thread that satisfies `p`. -/
def updWhere (s : State) (p : Group → Bool) (f : Group → Group) : State :=
  { s with g := if s.g.live && p s.g then f s.g else s.g, others := mapIf (fun g => g.live && p g) f s.others }

def blockOf (s : State) (id : Nat) : Block := (s.blocks.find? fun b => b.id == id).getD {}
def gangOf (s : State) (id : Nat) : Gang := (s.gangs.find? fun b => b.id == id).getD {}
def launchOf (s : State) (id : Nat) : Launch := (s.launches.find? fun b => b.id == id).getD {}
def updBlock (s : State) (id : Nat) (f : Block → Block) : State :=
  { s with blocks := mapFirst (fun b => b.id == id) f s.blocks }
def updGang (s : State) (id : Nat) (f : Gang → Gang) : State :=
  { s with gangs := mapFirst (fun b => b.id == id) f s.gangs }
def updLaunch (s : State) (id : Nat) (f : Launch → Launch) : State :=
  { s with launches := mapFirst (fun b => b.id == id) f s.launches }
def engineOf (s : State) (id : Nat) : Option EngOp := s.engines.find? fun e => e.id == id
def updEngine (s : State) (id : Nat) (f : EngOp → EngOp) : State :=
  { s with engines := mapFirst (fun e => e.id == id) f s.engines }

/-- A fresh identifier of a model object. -/
def fresh (s : State) : Nat × State := (s.nextId, { s with nextId := s.nextId + 1 })

/-- A core is stopped (R359, R141). -/
def coreStopped (s : State) (core : Nat) : Bool := (getT {} s.cores core).stopped
def setStopped (s : State) (core : Nat) (b : Bool) : State := { s with cores := putT {} s.cores core { stopped := b } }

/-- A core sleeps in a `HALT` of its own, which halts all its groups (R141). -/
def coreAsleep (s : State) (core : Nat) : Bool := (threads s).any fun g => g.core == core && g.wait == .sleep

/-- The thread may issue: it is resident, its core runs, and no blocking instruction holds it. -/
def mayIssue (s : State) (g : Group) : Bool :=
  g.live && g.resident && g.wait == .none && !coreStopped s g.core && !coreAsleep s g.core

/-! Traps. -/

/-- One 256-byte trap record as a little-endian number (Table 22.1). -/
def recordNum (r : Record) (serial : Nat) : Nat :=
  let a := (r.addrs.take 8)
  r.cause % 256 + r.code % 64 * 2 ^ 8 + r.core % 128 * 2 ^ 16 + bit r.mcc * 2 ^ 23 + r.part % 16 * 2 ^ 24 + r.slot % 8 * 2 ^ 28
    + bit r.async * 2 ^ 31 + r.ctx % 65536 * 2 ^ 32 + r.reg % 64 * 2 ^ 48 + r.rfile % 4 * 2 ^ 54 + a.length * 2 ^ 56
    + bit (decide (8 < r.addrs.length)) * 2 ^ 60 + bit r.cq * 2 ^ 61
    + r.pc % 2 ^ 57 * 2 ^ 64 + r.value % 2 ^ 64 * 2 ^ 128 + serial % 2 ^ 64 * 2 ^ 192 + r.mask.toNat * 2 ^ 256
    + (a.foldr (fun x acc => x % 2 ^ 57 + acc * 2 ^ 64) 0) * 2 ^ 768

/-- Physical base of a die's trap ring (R362). -/
def ringBase (die : Nat) : Nat := 2 * die * 2 ^ 36 + 0xBFFF00000

/-- The ring of a die has room (R362). -/
def ringRoom (s : State) (die : Nat) : Bool :=
  homeRead s (ringBase die) 8 - homeRead s (ringBase die + 8) 8 < 4095

/-- Firmware of a die that sleeps in a `HALT` of itself wakes with status 3 (R141, R362). The `HALT` wrote the status and moved past
itself when it began to sleep. -/
def wakeFirmware (s : State) (die : Nat) : State :=
  updWhere s (fun g => g.priv && g.core == fwCore s die && g.wait == .sleep) (fun g => { g with wait := .none })

/-- Write one record into the ring of its die, then the producer index (R362). -/
def writeRecord (s : State) (r : Record) : State :=
  let base := ringBase r.die
  let j := homeRead s base 8
  let serial := getT 0 s.serials r.die
  let s := homeWrite s (base + 256 * (1 + j % 4095)) 256 (recordNum r serial)
  let s := homeWrite s base 8 (j + 1)
  wakeFirmware { s with serials := putT 0 s.serials r.die (serial + 1), causes := s.causes ++ [⟨r.ctx, r.cause, r.code, r.core + (if r.mcc then 96 else 0), r.launch⟩] } r.die

/-- Post a record: it is written at once when nothing of its die waits and the ring has room, else it waits (R362). -/
def postRecord (s : State) (r : Record) : State :=
  if ringRoom s r.die ∧ ¬ s.trapWait.any (fun x => x.die == r.die) then writeRecord s r
  else { s with trapWait := s.trapWait ++ [r] }

/-- Fill in whose record it is (R361). -/
def recordOf (g : Group) (r : Record) : Record :=
  { r with core := if onMcc g then g.core - 96 else g.core
           mcc := onMcc g, part := g.part, slot := g.slot, ctx := g.ctx, launch := g.launch, pc := unitPc g, die := dieOfCore g.core }

/-- The program counter back on the first word of the unit (R48, R51). -/
def rewind (g : Group) : Group := { g with pc := unitPc g, run := [], landed := false }

/-- What a halt does to one thread (R48 steps 3 and 4): `WAITM` disarmed, an `EMIT` in its wait phase and a `JNL.X` not
accepted withdrawn, the destination full again and the program counter on the instruction. A thread whose `LOCK` waits for the answer to
its withdrawal, or whose access waits for a peer's replies, stands where it stood until they have come. -/
def haltThread (g : Group) : Group :=
  match g.wait with
  | .lock _ _ => g
  | .peer _ => g
  | .flush _ => g
  | .monitor => { rewind g with wait := .none }
  | .journal _ => { rewind g with wait := .none }
  | .emit _ => { rewind g with wait := .none }
  | _ => if g.run = [] then g else rewind g

/-- The taken set of a divergent branch (R55). -/
def takenSet (g : Group) (p : Fin 8) (neg : Bool) : Mask := g.M &&& (if neg then ~~~(readQ g p) else readQ g p)

/-- R55 with the taken set t: the group after the branch, at target and join addresses. -/
def diverge (g : Group) (t : Mask) (target join : Nat) : Group :=
  let f := g.M &&& ~~~t
  if t = 0 then advance g
  else if f = 0 then jumpTo g target
  else jumpTo { g with stack := ⟨false, f, g.pc + 4, g.fmt⟩ :: ⟨true, g.M, join, g.fmt⟩ :: g.stack, M := t } target

/-- The predicate of an open window completes and the branch is taken as R55 resolves it (R48 step 2): the thread as it
stood at the branch, with the resolved entries pushed. -/
def settleBranch (w : Window) : Group :=
  let g := { w.saved with qBusy := w.saved.qBusy &&& ~~~(BitVec.ofNat 8 (2 ^ w.pred.val)) }
  diverge g (takenSet g w.pred w.neg) w.target w.join

/-- The key of the prediction-table entry that the branch at word address b uses (R63). -/
def pointKey (g : Group) : Nat := (g.core * 12 + g.part) * 512 + ((g.pc / 4 % 512) ^^^ (g.slot * 64 % 512))

/-- The 32 lanes of a row as a number. -/
def rowBits (m : Mask) (r : Nat) : Nat := m.toNat / 2 ^ (32 * r) % 2 ^ 32

/-- State of a row in an entry: 0 unknown, 1 all taken, 2 none taken, 3 same mask (R63). -/
def rowState (p : Point) (r : Nat) : Nat := p.states.toNat / 2 ^ (2 * r) % 4

/-- Put a row's state and, for `same mask`, its mask. -/
def setRow (p : Point) (r st m : Nat) : Point :=
  let a : BitVec 32 := BitVec.ofNat 32 (3 * 2 ^ (2 * r))
  let b : BitVec 512 := BitVec.ofNat 512 ((2 ^ 32 - 1) * 2 ^ (32 * r))
  { states := (p.states &&& ~~~a) ||| BitVec.ofNat 32 (st * 2 ^ (2 * r))
    masks := if st = 3 then (p.masks &&& ~~~b) ||| BitVec.ofNat 512 (m * 2 ^ (32 * r)) else p.masks }

/-- Update the entry of the branch at g.pc from its resolved taken set (R68): rows without an active lane are kept. -/
def updatePoints (s : State) (g : Group) (t : Mask) : State :=
  let one (p : Point) (r : Nat) : Point :=
    let a := rowBits g.M r
    let x := rowBits t r
    if a = 0 then p else setRow p r (if x = a then 1 else if x = 0 then 2 else 3) x
  { s with points := putT {} s.points (pointKey g) ((List.range 16).foldl one (getT {} s.points (pointKey g))) }

/-- Count a resolved branch: j = 0 hit, 1 replay, 2 restart, 3 wait (R69). -/
def countBranch (s : State) (g : Group) (j : Nat) : State :=
  let n := csrPnt g.core g.part j
  csrPut s n ((csrRaw s n + 1) % 2 ^ 64)

/-- The predicted and the resolved mask of the running path of a window (R64, R66). -/
def runningPath (w : Window) (t : Mask) : Mask × Mask := if w.pt ≠ 0 then (w.pt, t) else (w.saved.M, w.saved.M &&& ~~~t)

/-- How a window's branch is counted (R66, R69): 0 kept without a lane dropped or replayed, 1 kept otherwise, 2 restarted. -/
def outcomeOf (w : Window) (t : Mask) : Nat :=
  if (w.pt ≠ 0) = (t ≠ 0) then (if (runningPath w t).1 = (runningPath w t).2 then 0 else 1) else 2

/-- Walks that ended without a leaf no longer answer the threads that satisfy `p`, so that an access made again walks anew (R384). -/
def forgetWalks (s : State) (p : Group → Bool) : State :=
  let gone (t : Nat) : Bool := (threads s).any fun g => g.tid == t && p g
  { s with walks := s.walks.filterMap fun w =>
      let who := w.who.filter fun t => !gone t
      if w.code = 0 then some w else if who = [] then none else some { w with who := who } }

/-- The branch is restarted (R66): everything staged or held is dropped, and the thread goes on from the branch as R55 resolves it. -/
def restartWindow (s : State) (w : Window) : State :=
  let s := updThread (forgetWalks s fun g => g.tid == w.saved.tid) w.saved.tid fun _ => settleBranch w
  { s with windows := s.windows.filter fun x => x.saved.tid != w.saved.tid
           flights := s.flights.filter fun f => f.tid != w.saved.tid || !f.spec }

/-- A group with the lanes of `d` as another holds them: vector lanes, lost lanes and predicates. -/
def restoreLanes (g h : Group) (d : Mask) : Group :=
  let keys := ((g.v ++ h.v).map fun e => e.1).filter fun k => d.getLsbD (k % 512)
  { g with v := putAll 0 g.v (keys.map fun k => (k, getT 0 h.v k))
           vBad := (g.vBad.filter fun k => !d.getLsbD (k % 512)) ++ h.vBad.filter fun k => d.getLsbD (k % 512)
           q := Vector.ofFn fun i => (g.q[i] &&& ~~~d) ||| (h.q[i] &&& d) }

/-- A vector flight without the lanes of `d`, and the rows that it no longer brings. -/
def cutFlight (d : Mask) (f : Flight) : Flight × BitVec 16 :=
  match f.dest with
  | .vector _ =>
    let lanes := f.lanes.filter fun x => !d.getLsbD x.1
    let reqs := f.reqs.filter fun r => !d.getLsbD r.lane
    let left := rowsOf (lanes.map (fun x => x.1) ++ reqs.map Req.lane)
    ({ f with lanes := lanes, reqs := reqs, rows := f.rows &&& left }, f.rows &&& ~~~left)
  | _ => (f, 0)

/-- Nothing of a flight is left to perform or to land. -/
def flightOver (f : Flight) : Bool := f.rows == 0 && f.reqs.all Req.done && f.atoms.all AtomReq.done

/-- A recorded vector store without the lanes of `d`. -/
def cutStore (d : Mask) (e : Recorded) : Recorded :=
  if e.vec then { e with store := e.store.map fun h => { h with lanes := h.lanes.filter fun x => !d.getLsbD x.1 } } else e

/-- The branch is kept (R66 steps 1 and 2): the lanes included only by prediction are dropped, everything else that is staged stays, the
stack becomes that of the resolved branch, and the lanes not predicted are still to be replayed. -/
def keepWindow (s : State) (w : Window) (t : Mask) : State :=
  let p := runningPath w t
  let d := p.1 &&& ~~~p.2
  let mine (f : Flight) : Bool := f.tid == w.saved.tid && f.spec
  let fill (g : Group) (f : Flight) : Group := match f.dest with
    | .vector phys => setRows g phys (cutFlight d f).2 false
    | _ => g
  let buffer := w.buffer.map (cutStore d)
  let replays := p.2 &&& ~~~p.1 != 0
  let w' := { w with resolved := some p.2, buffer := if replays then [] else buffer, todo := if replays then buffer else [] }
  let early := s.flights.filter mine
  let s := { s with flights := (mapIf mine (fun f => (cutFlight d f).1) s.flights).filter fun f => !(mine f && flightOver f)
                    windows := mapIf (fun x => x.saved.tid == w.saved.tid) (fun _ => w') s.windows }
  updThread (forgetWalks s fun g => g.tid == w.saved.tid) w.saved.tid fun g =>
    { early.foldl fill (restoreLanes g w.saved d) with stack := (settleBranch w).stack }

/-- Exception flags staged for the lanes of a mask. -/
def stagedFlags (w : Window) (m : Mask) : BitVec 5 := w.staged.foldl (fun acc x => if m.getLsbD x.1 then acc ||| x.2 else acc) 0

/-- A kept window is over (R66 step 5): its early loads are the thread's own, and the group goes on under the resolved mask at the word
that ended the window. -/
def commitWindow (s : State) (w : Window) (r : Mask) : State :=
  let s := updThread s w.saved.tid fun g => { g with M := r, fpflags := w.saved.fpflags ||| stagedFlags w r }
  { s with windows := s.windows.filter fun x => x.saved.tid != w.saved.tid
           flights := mapIf (fun f => f.tid == w.saved.tid) (fun f => { f with spec := false }) s.flights }

/-- The prediction table and the counters take the resolved set of a window's branch (R68, R69). -/
def countWindow (s : State) (w : Window) : State :=
  let t := takenSet w.saved w.pred w.neg
  countBranch (updatePoints s w.saved t) w.saved (outcomeOf w t)

/-- Resolve one window (R66). -/
def resolveWindow (s : State) (w : Window) : State :=
  let t := takenSet w.saved w.pred w.neg
  if outcomeOf w t = 2 then restartWindow (countWindow s w) w else keepWindow (countWindow s w) w t

/-- Held lanes in ascending order (R66 step 4). -/
def inLaneOrder (h : HeldStore) : HeldStore := { h with lanes := (List.range 513).flatMap fun n => h.lanes.filter fun x => x.1 == n }

/-- The stores that a window holds, in program order. -/
def heldStores (w : Window) : List HeldStore := (w.buffer.filterMap Recorded.store).map inLaneOrder

/-- The first store that a window holds has been performed. -/
def dropHeld (w : Window) : Window := { w with buffer := (w.buffer.dropWhile fun e => e.store.isNone).drop 1 }

/-- The rows of a flight that only complete a predicate. -/
def predFlight (f : Flight) : Bool := match f.dest with | .pred _ => true | _ => false

/-- The thread of a window waits for the replies of a peer to an early load. -/
def windowAsks (s : State) (w : Window) : Bool := (thread? s w.saved.tid).any fun g => match g.wait with | .peer _ => true | _ => false

/-- Resolve a window at a halt (R48 step 2, R66). A kept one without lanes to replay stays kept, and the stores that it holds are
performed (`BRANCH_RESOLVE`); one with lanes to replay, or with a load that still waits for a peer, is issued again from its branch, which
R67 makes the same (log 9). -/
def settleWindow (s : State) (w : Window) : State :=
  let t := takenSet w.saved w.pred w.neg
  let p := runningPath w t
  if w.resolved.isSome then (if w.todo = [] then s else restartWindow s w)
  else
    let s := countWindow s w
    if outcomeOf w t = 2 ∨ p.2 &&& ~~~p.1 ≠ 0 ∨ windowAsks s w then restartWindow s w
    else if heldStores w = [] then commitWindow (keepWindow s w t) w p.2 else keepWindow s w t

/-- Resolve the windows of the threads that satisfy `p` (R48 step 2): their predicates complete first. -/
def settleWhere (s : State) (p : Group → Bool) : State :=
  let ws := s.windows.filter fun w => p w.saved
  let mine (t : Nat) : Bool := ws.any fun w => w.saved.tid == t
  let s := ws.foldl settleWindow s
  let s := { s with flights := s.flights.filter fun f => !(predFlight f && mine f.tid) }
  updWhere s (fun g => mine g.tid) fun g => { g with qBusy := 0 }

/-- The destination of a thread's `JNL.X` or `EMIT` that waits at a Signal Box. -/
def workDest (tid : Nat) : JWork → Option Nat
  | .record t d _ _ _ _ _ => if t = tid then some d else none
  | .emit t d _ _ _ => if t = tid then some d else none
  | _ => none

/-- Withdraw a thread's `JNL.X` or `EMIT` from the Signal Box of a sequence, unless its send phase has begun (R48 step 3): the
destination is full again. -/
def dropJournal (s : State) (tid seq : Nat) : State :=
  let mine (e : Emit) : Bool := e.tid == tid && (e.phase == .wait || e.phase == .intent)
  let ds := (s.seqs.filter fun q => q.id == seq).flatMap fun q =>
    q.work.filterMap (workDest tid) ++ (q.emits.filter mine).map Emit.d
  let cut (q : Seq) : Seq :=
    { q with work := q.work.filter fun w => (workDest tid w).isNone, emits := q.emits.filter fun e => !mine e }
  updThread { s with seqs := mapIf (fun q => q.id == seq) cut s.seqs } tid
    fun g => ds.foldl (fun g d => setKEmpty g (kAt d) false) g

/-- Halt every thread that satisfies `p` (R48 steps 2 to 4). A waiting `LOCK` sends its withdrawal and waits for the
answer. Walks that found no leaf answer these threads no longer (R384). -/
def haltWhere (s : State) (p : Group → Bool) : State :=
  let s := settleWhere s p
  let ts := (threads s).filter p
  let back (s : State) (g : Group) : State :=
    match g.wait with
    | .monitor =>
      let ds := (s.monitors.filter fun m => m.tid == g.tid).map Monitor.d
      updThread { s with monitors := s.monitors.filter fun m => m.tid != g.tid } g.tid
        fun g => ds.foldl (fun g d => setKEmpty g (kAt d) false) g
    | .journal seq => dropJournal s g.tid seq
    | .emit seq => dropJournal s g.tid seq
    | .lock key _ =>
      if s.lockMsgs.contains (.withdraw key g.tid) then s else { s with lockMsgs := s.lockMsgs ++ [.withdraw key g.tid] }
    | _ => s
  updWhere (forgetWalks (ts.foldl back s) p) p haltThread

/-- A `LOCK` of a thread that satisfies `p` still waits for the answer to its withdrawal (R48 step 4). -/
def withdrawing (s : State) (p : Group → Bool) : Bool :=
  s.lockMsgs.any fun m => match m with
    | .withdraw _ t => (thread? s t).any p
    | _ => false

/-- Stop a core (R359 step 2, R48 steps 1 to 4). Its engine operations and results in flight go on. -/
def stopCore (s : State) (core : Nat) : State :=
  setStopped (haltWhere s fun g => g.core == core) core true

/-- A core stops for a fault that a group of its own raises at an instruction; the group's place is noted, since another group of the core
may fault in the same clock (R362, R371). -/
def stopFor (s : State) (g : Group) : State := { stopCore s g.core with faulted := some (g.core, 8 * g.part + g.slot, s.tick) }

/-- An instruction that the current thread's window cannot perform ends it and does not issue until the branch resolves (R65); in a replay
the window is restarted (R67). -/
def endWindow (s : State) : Out :=
  match windowOf s s.g.tid with
  | none => stall s
  | some w =>
    if w.resolved.isSome then .next (restartWindow s w)
    else .next { s with windows := mapIf (fun x => x.saved.tid == s.g.tid) (fun x => { x with ended := true }) s.windows }

/-- Take a synchronous trap (R359): the instruction has no effect; inside a speculation window it ends the window (R67). Otherwise the core
stops, the thread's program counter names the first word of the hint run, and the record goes to the ring of the die. -/
def takeTrap (s : State) (r : Record) : Out :=
  match windowOf s s.g.tid with
  | some _ => endWindow s
  | none => .next (postRecord (stopFor { s with g := rewind s.g } s.g) (recordOf s.g r))

/-- Take a synchronous trap that comes back to a thread waiting at its instruction (R383, R402, R409). -/
def trapThread (s : State) (tid : Nat) (r : Record) : State :=
  match thread? s tid with
  | none => s
  | some g =>
    postRecord (stopFor (updThread s tid fun g => { rewind g with wait := .none }) g) (recordOf g r)

/-- A context that firmware has ended (R365). -/
def ctxEnded (s : State) (ctx : Nat) : Bool := s.ended.contains ctx

/-- Report an asynchronous fault (R360): the core that issued the instruction stops, unless its context has ended or the
command processor raised it (R428). PC is the thread's program counter once it has stopped (R361). -/
def asyncFault (s : State) (core : Nat) (r : Record) : State :=
  let s := if r.cq ∨ ctxEnded s r.ctx then s else stopCore s core
  postRecord s { r with async := true, pc := if r.cq then r.pc else ((thread? s r.tid).map unitPc).getD r.pc }

/-- Engine writes of a core that a peer refused go out again. -/
def retryWrites (s : State) (core : Nat) : State :=
  let again (s : State) (k : Kept) : State :=
    sendOn { s with kept := s.kept.erase k } k.packet k.packet.plane { k with flag := false }
  (s.kept.filter fun k => k.core == core && k.flag && (k.packet.kind == 0x0F || k.packet.kind == 0x0B)).foldl again s

/-- Return from a stop (`RETT`, R138, R364): every thread of the core goes on at the program counter its stop recorded,
and engine operations stopped under R387 go on from their progress registers. -/
def resumeCore (s : State) (core : Nat) : State :=
  { setStopped (retryWrites s core) core false with
    faulted := none
    engines := mapIf (fun e => e.core == core) (fun e => { e with fault := none }) s.engines }

end Sys2Proof.Machine
end

