-- ==== Sys2Proof/Machine/Issue.lean ====
section
/-! DEFINITION. The checks every word passes before its own meaning: hint runs, word form, core type, privilege, and the
speculation window (R65, R102, R103, R106, R111, R373 to R375). -/
namespace Sys2Proof.Machine

/-- The word of an instruction; 0 for an event row. -/
def wordOf (i : Instr) : Nat := i.word.getD 0

def opOf (w : Nat) : Nat := w / 2 ^ 25 % 128
def subOf (w : Nat) : Nat := w % 128

/-- The payload of the `HX` word of the run (R100). -/
def hxPayload (g : Group) : Option Nat := (g.run.find? fun w => hintKind w == 0).map hintPayload

/-- The displacement of the `HJ` word of the run, in words (R54). -/
def hjDisp (g : Group) : Option Int :=
  (g.run.find? fun w => hintKind w == 1).map fun w => (BitVec.ofNat 21 (hintPayload w)).toInt

/-- The mode of the `HP` word of the run; dynamic without one (R64). -/
def hpMode (g : Group) : Nat := ((g.run.find? fun w => hintKind w == 3).map hintPayload).getD 0

/-- A word the core type admits (R106, Table 06.8). -/
def admits (mcc : Bool) (w : Nat) : Bool :=
  let op := opOf w
  let sub := subOf w
  if op = 0x7F then !mcc || (hintKind w != 1 && hintKind w != 3)
  else if mcc then
    !((0x14 ≤ op && op ≤ 0x16) || (op == 0x17 && sub == 2) || (0x20 ≤ op && op ≤ 0x54) || op == 0x59 || op == 0x55
      || (op == 0x56 && sub < 3) || op == 0x6D)
  else op != 0x60

/-- A privileged instruction (R106): RETT, CSRR, CSRW, TLBINV, HALT. -/
def isPrivileged (w : Nat) : Bool := opOf w == 0x18 && 3 ≤ subOf w && subOf w ≤ 7

/-- `HX` extends format S but `SHI`, and format M with m = 1 (R100). -/
def takesHx (w : Nat) : Bool :=
  match formatOf (opOf w) with
  | some .S => opOf w != 0x0D
  | some .M => w % 2 == 1
  | _ => false

def isBrV (w : Nat) : Bool := opOf w == 0x14

/-- The own sub-cause of a hint word, 0 when it is well-formed (R102, Table 23.1). -/
def hintForm (w : Nat) : Nat :=
  let p := hintPayload w
  match hintKind w with
  | 0 => 0
  | 1 => 0
  | 2 => if 128 ≤ p then 3 else (holdDefect ⟨p / 4 % 32, by omega⟩ ⟨p % 4, by omega⟩).getD 0
  | 3 => if 8 ≤ p then 3 else if 5 ≤ p then 4 else 0
  | 4 => if 4 ≤ p then 3 else if p = 3 then 4 else 0
  | _ => 4

/-- The defects of one hint word of a run (R102, R375): its own form, its place, its core type. `before` are the hint words
before it, `next` the word after it, `i` the instruction word of the unit. -/
def hintDefects (mcc : Bool) (before : List Nat) (w next i : Nat) : List (Nat × Nat) :=
  let form := if hintForm w = 0 then [] else [(hintForm w, w)]
  let k := hintKind w
  let place :=
    (if k = 0 ∧ !takesHx i then [(5, w)] else []) ++
    (if k = 1 ∧ !isBrV next then [(5, w)] else []) ++
    (if k = 3 ∧ !(opOf next == 0x7F && hintKind next == 1) then [(5, w)] else []) ++
    (if k = 4 ∧ !(0x40 ≤ opOf i && opOf i ≤ 0x59) then [(5, w)] else []) ++
    (if before.any (fun b => hintKind b == k) then [(5, w)] else [])
  form ++ place ++ (if admits mcc w then [] else [(6, w)])

/-- The defects of a run of hint words before instruction word `i`. -/
def runDefects (mcc : Bool) (before : List Nat) : List Nat → Nat → List (Nat × Nat)
  | [], _ => []
  | w :: ws, i => hintDefects mcc before w (ws.headD i) i ++ runDefects mcc (before ++ [w]) ws i

/-- The defects of the instruction word itself: `own` is the sub-cause of its form, 0 for none. -/
def wordDefects (g : Group) (own i : Nat) : List (Nat × Nat) :=
  (if own = 0 then [] else [(own, i)]) ++
  (if isBrV i ∧ !(g.run.getLast?.any fun w => hintKind w == 1) then [(5, i)] else []) ++
  (if own = 1 ∨ own = 2 ∨ admits (onMcc g) i then [] else [(6, i)])

/-- The defect of lowest CODE, the first of them in fetch order (R372, R373). -/
def lowest : List (Nat × Nat) → Option (Nat × Nat)
  | [] => none
  | d :: ds => match lowest ds with
    | none => some d
    | some e => if d.1 ≤ e.1 then some d else some e

/-- The defect of the unit of hint run and instruction word, if any. -/
def unitDefect (g : Group) (own i : Nat) : Option (Nat × Nat) :=
  lowest (runDefects (onMcc g) [] g.run i ++ wordDefects g own i)

/-- The own sub-cause of an instruction; 0 when it is well-formed. -/
def ownDefect (i : Instr) : Nat := i.defect.getD 0

/-- Words that a speculation window admits (Table 04.5). -/
def windowAdmits (w : Nat) : Bool :=
  let op := opOf w
  let f := w % 4
  if op ≤ 0x0F then true
  else if op = 0x17 then subOf w == 3 || subOf w == 4 || subOf w == 5
  else if op = 0x18 then subOf w == 0 && w / 2 ^ 13 % 64 != 2
  else if 0x20 ≤ op ∧ op ≤ 0x29 then true
  else if op = 0x2A then f != 3
  else if op = 0x2B then f == 0
  else if 0x30 ≤ op ∧ op ≤ 0x3B then true
  else if 0x40 ≤ op ∧ op ≤ 0x4E then true
  else op == 0x7F

/-- Stores that a window holds (Table 04.5): `VST`, `SST`, `STK.d`, `STK.w`. -/
def windowHolds (w : Nat) : Bool :=
  let op := opOf w
  (0x44 ≤ op && op ≤ 0x47) || op == 0x49 || op == 0x4D || op == 0x4E

/-- The thread's window keeps the word from issuing: it is not admitted, an instruction has ended the window, or 64 have issued (R65). A replay issues what the
window has admitted before. -/
def windowBlocks (s : State) (w : Nat) : Bool :=
  match windowOf s s.g.tid with
  | none => false
  | some x => !windowAdmits w || (x.resolved.isNone && (x.ended || decide (64 ≤ x.issued)))

/-- A vector instruction, which a replay issues again (R66): arithmetic, and `VLD`, `VST`, `SLD`, `SST`, `PREF`. -/
def isVector (w : Nat) : Bool := let op := opOf w; decide (0x20 ≤ op) && decide (op ≤ 0x4A)

/-- What the window of a thread records of an instruction that has issued (R64): a vector instruction, or a store that is held. -/
def recordIn (g : Group) (i : Instr) (w : Window) : Window :=
  let e : Recorded := { instr := i, run := g.run, runPc := g.runPc, pc := g.pc, k := g.k, wv := g.wv, fmt := g.fmt
                        vec := isVector (wordOf i), store := w.held }
  { w with buffer := if e.vec || e.store.isSome then w.buffer ++ [e] else w.buffer, held := none }

/-- An instruction has issued in a window: it is counted, or it waits for a peer's replies. -/
def hasIssued (w : Window) (t : State) : Bool :=
  (windowOf t w.saved.tid).any fun x => decide (w.issued < x.issued) || (match t.g.wait with | .peer _ => true | _ => false)

/-- The outcome of a meaning, recorded when the thread's window is open (R64). -/
def noteIssued (s : State) (i : Instr) (out : Out) : Out :=
  match windowOf s s.g.tid, out with
  | some w, .next t =>
    if w.resolved.isNone && hasIssued w t then
      .next { t with windows := mapIf (fun x => x.saved.tid == s.g.tid) (recordIn s.g i) t.windows }
    else .next t
  | _, o => o

/-- ILLEGAL with a sub-cause and the word in VALUE (R372). -/
def illegal (s : State) (code value : Nat) : Out := takeTrap s { cause := 0x01, code := code, value := value }

/-- ILLEGAL 7, OPVALUE, naming a scalar register (Table 23.1); VALUE is the instruction word. -/
def opValue (s : State) (i : Instr) (reg : Fin 64) : Out :=
  takeTrap s { cause := 0x01, code := 7, value := wordOf i, reg := reg.val, rfile := 0 }

/-- Issue an instruction word: `k` is its meaning once the word form, the core type, the privilege and the window admit
it (R373 steps 3 and 4). -/
def issue (s : State) (i : Instr) (k : Out) : Out :=
  if !s.g.live then .fault .noThread
  else if !mayIssue s s.g then stall s
  else match unitDefect s.g (ownDefect i) (wordOf i) with
    | some d => illegal s d.1 d.2
    | none =>
      if isPrivileged (wordOf i) ∧ !s.g.priv then takeTrap s { cause := 0x02, value := wordOf i }
      else if windowBlocks s (wordOf i) then stall s
      else noteIssued s i k

/-! Replaying (R66 step 3). -/

/-- The thread as it issues a recorded instruction again: under the lanes of the resolved mask that were not predicted, with the scalar
operands that it read at first issue. -/
def replayState (s : State) (w : Window) (r : Mask) (e : Recorded) : State :=
  let p := (runningPath w (takenSet w.saved w.pred w.neg)).1
  { s with g := { s.g with M := r &&& ~~~p, pc := e.pc, run := e.run, runPc := e.runPc, k := e.k, kEmpty := 0, wv := e.wv, fmt := e.fmt } }

/-- Lanes of two parts of one store. -/
def joinStore (a b : Option HeldStore) : Option HeldStore :=
  match a, b with
  | some x, some y => some { x with lanes := x.lanes ++ y.lanes }
  | some x, none => some x
  | none, y => y

/-- An instruction has been replayed. -/
def replayed (e : Recorded) (w : Window) : Window :=
  { w with todo := w.todo.tail, buffer := w.buffer ++ [{ e with store := joinStore e.store w.held }], held := none }

/-- After a replayed instruction: the control thread stands where the window ended. A replay that would trap has restarted the window. -/
def afterReplay (s : State) (w : Window) (e : Recorded) (out : Out) : Out :=
  match out with
  | .next t =>
    if (windowOf t s.g.tid).isNone then .next t
    else
      let g := { t.g with M := s.g.M, pc := s.g.pc, run := s.g.run, runPc := s.g.runPc, landed := s.g.landed, last := s.g.last, hold := s.g.hold
                          k := s.g.k, kEmpty := s.g.kEmpty, wv := s.g.wv, fmt := s.g.fmt }
      let t' := { t with g := g }
      .next (if hasIssued w t then { t' with windows := mapIf (fun x => x.saved.tid == s.g.tid) (replayed e) t'.windows } else t')
  | o => o

/-- Record a hint word in the run of the unit (R103); its defects are reported with the instruction word. -/
def addHint (g : Group) (w : Nat) : Group :=
  { g with run := g.run ++ [w], runPc := if g.run = [] then g.pc else g.runPc, pc := g.pc + 4, landed := false }

/-- Issue a hint word. DESIGN CHOICE (log 61): a hint word is not one of the 64 instructions that a speculation window admits; the spec
does not say. -/
def issueHint (s : State) (w : Nat) : Out :=
  if !s.g.live then .fault .noThread
  else if !mayIssue s s.g then stall s
  else .next { s with g := addHint s.g w }

end Sys2Proof.Machine
end

