-- ==== Sys2Proof/Machine/Operands.lean ====
section
/-! DEFINITION. Operand forms: register windows, empty registers and their trap bits, waits on destinations and
predicates (R33 to R38, R366, R367), immediates and displacements (R100, R101), lane addresses (R98). -/
namespace Sys2Proof.Machine

/-- A source an instruction reads: a scalar, or a vector field by its active rows or, cross-lane, by every row. -/
inductive Src where
  | k (n : Fin 64) (trap : Bool)
  | v (f : Fin 64) (trap : Bool)
  | all (f : Fin 64) (trap : Bool)
  deriving DecidableEq, Repr

/-- What an instruction names. -/
structure Use where
  bounds : List (Fin 64) := []   -- vector fields, in the order of R367
  preds  : List (Fin 8) := []    -- predicates read
  late   : List (Fin 8) := []    -- predicates written
  srcs   : List Src := []        -- in the order of R366
  act    : Mask := 0             -- active lanes
  dstK   : List (Fin 64) := []
  dstV   : List (Fin 64) := []   -- written in active rows
  dstAll : List (Fin 64) := []   -- marked empty whole (R35)
  jumps  : Bool := false         -- control goes on where the meaning says, also to the instruction itself

/-- The first vector field whose window sum reaches the allotment (R367). -/
def firstOut (g : Group) : List (Fin 64) → Option (Fin 64)
  | [] => none
  | f :: fs => if g.allot ≤ physReg g f then some f else firstOut g fs

/-- Empty rows of a field among the rows given. -/
def emptyRows (g : Group) (f : Fin 64) (rows : BitVec 16) : List Nat :=
  (List.range g.rows).filter fun r => rows.getLsbD r && rowEmpty g (physReg g f) r

/-- The lanes a source offends with: none when it is full; `some` mask otherwise (R366). -/
def srcEmpty (g : Group) (act : Mask) : Src → Option Mask
  | .k n _ => if kIsEmpty g n then some 0 else none
  | .v f _ =>
    let rs := emptyRows g f (rowsOf (lanesOf g act))
    if rs = [] then none else some (maskOf ((lanesOf g act).filter fun i => rs.contains (i / 32)))
  | .all f _ =>
    let rs := emptyRows g f (allRows g)
    if rs = [] then none else some (maskOf ((List.range (laneCount g)).filter fun i => rs.contains (i / 32)))

def srcTraps : Src → Bool
  | .k _ t => t
  | .v _ t => t
  | .all _ t => t

/-- Register number and file of a source (Table 22.1). -/
def srcReg : Src → Nat × Nat
  | .k n _ => (n.val, 0)
  | .v f _ => (f.val, 1)
  | .all f _ => (f.val, 1)

/-- The first empty source whose trap bit is 1 (R366). -/
def firstTrap (g : Group) (act : Mask) : List Src → Option (Nat × Nat × Mask)
  | [] => none
  | x :: xs => match srcEmpty g act x with
    | some m => if srcTraps x then some ((srcReg x).1, (srcReg x).2, m) else firstTrap g act xs
    | none => firstTrap g act xs

/-- A source or a destination holds the instruction back (R36, R37, R38). -/
def notReady (g : Group) (u : Use) : Bool :=
  u.late.any (fun p => p != 0 && g.qBusy.getLsbD p.val) || u.srcs.any (fun x => (srcEmpty g u.act x).isSome) || u.dstK.any (fun n => kIsEmpty g n)
    || u.dstV.any (fun f => (emptyRows g f (rowsOf (lanesOf g u.act))) != [])
    || u.dstAll.any (fun f => emptyRows g f (allRows g) != [])

/-- The first source whose register data is lost: register, file and lanes (R391, Table 24.3). -/
def firstLost (g : Group) (act : Mask) : List Src → Option (Nat × Nat × Mask)
  | [] => none
  | x :: xs =>
    let lost (f : Fin 64) (l : List Nat) : Mask := maskOf (l.filter fun i => g.vBad.contains (laneKey (physReg g f) i))
    match x with
    | .k n _ => if g.kBad.getLsbD n.val then some (n.val, 0, 0) else firstLost g act xs
    | .v f _ => if lost f (lanesOf g act) ≠ 0 then some (f.val, 1, lost f (lanesOf g act)) else firstLost g act xs
    | .all f _ =>
      let m := lost f (List.range (laneCount g))
      if m ≠ 0 then some (f.val, 1, m) else firstLost g act xs

/-- The cause that the current thread's instruction has just raised, when its core has stopped for it in this step. -/
def raised (s t : State) : Option Nat :=
  if t.faulted = some (s.g.core, 8 * s.g.part + s.g.slot, s.tick) ∧ t.faulted ≠ s.faulted then
    ((t.causes.drop s.causes.length).map Cause.cause ++ (t.trapWait.drop s.trapWait.length).map Record.cause).head?
  else none

/-- DATA_LOSS 1 for a source register comes after every other cause of steps 7 to 9, and before JOURNAL (R373, Table 24.1): it is taken when the
rest of the checks has passed and the instruction would issue. DEDUCED (log 30): those checks take the register's value as it stands. -/
def lossAfter (s : State) (u : Use) (r : Record) (k : Out) : Out :=
  match k with
  | .next t =>
    if (windowOf s s.g.tid).isSome then takeTrap s r
    else match raised s t with
      | some c => if c = 0x0E ∨ c = 0x10 then takeTrap s r else k
      | none => if t.g = s.g ∧ ¬ u.jumps then k else takeTrap s r
  | _ => k

/-- Steps 5 and 6 of R373, then the waits: REG_BOUND, the predicate's completion, EMPTY_READ, full registers, and
DATA_LOSS 1 for a register that an uncorrectable error has hit (R391). -/
def withOperands (s : State) (u : Use) (k : Out) : Out :=
  match firstOut s.g u.bounds with
  | some f => takeTrap s { cause := 0x04, reg := f.val, rfile := 1, value := physReg s.g f }
  | none =>
    if u.preds.any fun p => p != 0 && s.g.qBusy.getLsbD p.val then stall s
    else match firstTrap s.g u.act u.srcs with
      | some (reg, rfile, m) => takeTrap s { cause := 0x03, reg := reg, rfile := rfile, mask := m }
      | none =>
        if notReady s.g u then stall s
        else match firstLost s.g u.act u.srcs with
          | some (reg, rfile, m) => lossAfter s u { cause := 0x0E, code := 1, reg := reg, rfile := rfile, mask := m } k
          | none => k

/-! Immediates and displacements. -/

/-- imm34 as 34 raw bits (R100, R123): the `HX` payload above imm13, or imm13 sign-extended to 34 bits. -/
def imm34 (g : Group) (imm : BitVec 13) : BitVec 34 :=
  match hxPayload g with
  | some p => BitVec.ofNat 34 (p * 2 ^ 13 + imm.toNat)
  | none => imm.signExtend 34

/-- The immediate of format S as 64 bits (R100, R121). -/
def immS (g : Group) (imm : BitVec 13) : BitVec 64 := (imm34 g imm).signExtend 64

/-- The unsigned count of a format-M word with m = 1 (R100). -/
def immM (g : Group) (x : Fin 64) : Nat :=
  match hxPayload g with
  | some p => p * 64 + x.val
  | none => x.val

/-- b + 4 × sext(disp) (R101); addresses are kept to 64 bits. -/
def target (b : Nat) (disp : Int) : Nat := (((b : Int) + 4 * disp) % 2 ^ 64).toNat

/-- The lane address of a format-M word (R98): the sum modulo 2^64. -/
def laneAddr (g : Group) (k x : Fin 64) (m : Bool) (size i : Nat) : Nat :=
  if m then wrap64 ((readK g k).toNat + immM g x * size + i * size)
  else wrap64 ((readK g k).toNat + (readV g x i).toNat)

end Sys2Proof.Machine
end

