-- ==== Sys2Proof/Machine/Float.lean ====
section
/-! DEFINITION. The binary formats (R70 to R72), rounding and flags (R82, R83), the arithmetic of R176 to R183, and the
conversions of R84. Every value is computed exactly as a sign, a natural number and a power of two, then rounded once. -/
namespace Sys2Proof.Machine

/-- Exception flags: NV DZ OF UF NX from bit 0 (Table 05.7). -/
abbrev Flags := BitVec 5
def flagNV : Flags := 1
def flagDZ : Flags := 2
def flagOF : Flags := 4
def flagUF : Flags := 8
def flagNX : Flags := 16

/-- A binary format: exponent bits and fraction bits (Table 05.1). -/
structure FloatFmt where
  ebits : Nat
  fbits : Nat
  deriving DecidableEq, Repr

def fmtD : FloatFmt := ⟨11, 52⟩
def fmtF : FloatFmt := ⟨8, 23⟩
def fmtH : FloatFmt := ⟨5, 10⟩
def fmtB : FloatFmt := ⟨8, 7⟩
/-- F12 (R183): binary32 values whose fraction bits [10:0] are zero. -/
def fmtF12 : FloatFmt := ⟨8, 12⟩

def fmtBias (f : FloatFmt) : Nat := 2 ^ (f.ebits - 1) - 1
def fmtWidth (f : FloatFmt) : Nat := 1 + f.ebits + f.fbits
/-- Exponent of the least significant bit of a subnormal. -/
def fmtQmin (f : FloatFmt) : Int := 1 - (fmtBias f : Int) - f.fbits
def infBits (f : FloatFmt) (s : Bool) : Nat := (if s then 2 ^ (f.ebits + f.fbits) else 0) + (2 ^ f.ebits - 1) * 2 ^ f.fbits
def maxBits (f : FloatFmt) (s : Bool) : Nat := infBits f s - 1
def zeroBits (f : FloatFmt) (s : Bool) : Nat := if s then 2 ^ (f.ebits + f.fbits) else 0
/-- The canonical quiet NaN (Table 05.1). -/
def nanBits (f : FloatFmt) : Nat := infBits f false + 2 ^ (f.fbits - 1)

/-- A value: a NaN, an infinity, or (−1)^s × m × 2^e exactly. -/
inductive FVal where
  | nan (signalling : Bool)
  | inf (s : Bool)
  | fin (s : Bool) (m : Nat) (e : Int)
  deriving DecidableEq, Repr

/-- The value of a bit pattern (R70, IEEE 754-2019). -/
def unpack (f : FloatFmt) (x : Nat) : FVal :=
  let fr := x % 2 ^ f.fbits
  let ex := x / 2 ^ f.fbits % 2 ^ f.ebits
  let s := x / 2 ^ (f.fbits + f.ebits) % 2 == 1
  if ex = 2 ^ f.ebits - 1 then
    if fr = 0 then .inf s else .nan (decide (fr < 2 ^ (f.fbits - 1)))
  else if ex = 0 then .fin s fr (fmtQmin f)
  else .fin s (2 ^ f.fbits + fr) (fmtQmin f + ex - 1)

/-- Bits of a number; 0 for 0. -/
def bitLen (m : Nat) : Nat := if m = 0 then 0 else Nat.log2 m + 1

/-- Whether the truncated magnitude is raised by one unit, by the rounding mode of Table 05.6: `odd` is its last bit,
the discarded part is compared with half a unit as `2 × rem` against `unit`. -/
def roundsUp (mode : Nat) (s odd : Bool) (rem unit : Nat) : Bool :=
  match mode with
  | 0 => decide (2 * rem > unit) || (decide (2 * rem = unit) && odd)
  | 1 => false
  | 2 => decide (rem ≠ 0) && !s
  | 3 => decide (rem ≠ 0) && s
  | _ => decide (2 * rem ≥ unit) && decide (rem ≠ 0)

/-- m × 2^e to a whole multiple of 2^q in the mode: the multiple, and whether it is inexact. -/
def roundAt (mode : Nat) (s : Bool) (m : Nat) (e q : Int) : Nat × Bool :=
  if q ≤ e then (m * 2 ^ (e - q).toNat, false)
  else
    let unit := 2 ^ (q - e).toNat
    let t := m / unit
    let r := m % unit
    (if roundsUp mode s (t % 2 == 1) r unit then t + 1 else t, decide (r ≠ 0))

/-- The exact value (−1)^s × m × 2^e rounded into the format in the mode, with its flags (R82, Table 05.7): overflow by
mode, tininess detected after rounding. -/
def roundTo (f : FloatFmt) (mode : Nat) (s : Bool) (m : Nat) (e : Int) : Nat × Flags :=
  if m = 0 then (zeroBits f s, 0)
  else
    let top := e + bitLen m - 1
    let free := top - f.fbits
    let q := max free (fmtQmin f)
    let r := roundAt mode s m e q
    let body := (q - fmtQmin f).toNat * 2 ^ f.fbits + r.1
    if body ≥ (2 ^ f.ebits - 1) * 2 ^ f.fbits then
      (if mode = 1 ∨ (mode = 2 ∧ s) ∨ (mode = 3 ∧ !s) then maxBits f s else infBits f s, flagOF ||| flagNX)
    else
      let u := roundAt mode s m e free
      let tiny := decide (free < fmtQmin f) && !(decide (free = fmtQmin f - 1) && decide (u.1 = 2 ^ (f.fbits + 1)))
      (zeroBits f s + body, (if r.2 then flagNX else 0) ||| (if r.2 && tiny then flagUF else 0))

/-- The signed sum of two exact finite values over one exponent. -/
def addExact (s1 : Bool) (m1 : Nat) (e1 : Int) (s2 : Bool) (m2 : Nat) (e2 : Int) : Int × Int :=
  let e := min e1 e2
  let a : Int := (m1 : Int) * 2 ^ (e1 - e).toNat
  let b : Int := (m2 : Int) * 2 ^ (e2 - e).toNat
  ((if s1 then -a else a) + (if s2 then -b else b), e)

def isNan : FVal → Bool
  | .nan _ => true
  | _ => false
def isSig : FVal → Bool
  | .nan true => true
  | _ => false
def isZero : FVal → Bool
  | .fin _ 0 _ => true
  | _ => false
def signOf : FVal → Bool
  | .nan _ => false
  | .inf s => s
  | .fin s _ _ => s
def negate : FVal → FVal
  | .nan s => .nan s
  | .inf s => .inf (!s)
  | .fin s m e => .fin (!s) m e

/-- NV when any operand is a signalling NaN (R176). -/
def sigFlag (l : List FVal) : Flags := if l.any isSig then flagNV else 0

/-- x + y (R176): the sign of an exact zero sum is that of IEEE 754-2019 for the mode. -/
def addReal (f : FloatFmt) (mode : Nat) (x y : FVal) : Nat × Flags :=
  match x, y with
  | .nan a, y => (nanBits f, sigFlag [.nan a, y])
  | x, .nan b => (nanBits f, sigFlag [x, .nan b])
  | .inf a, .inf b => if a = b then (infBits f a, 0) else (nanBits f, flagNV)
  | .inf a, .fin _ _ _ => (infBits f a, 0)
  | .fin _ _ _, .inf b => (infBits f b, 0)
  | .fin s1 m1 e1, .fin s2 m2 e2 =>
    let r := addExact s1 m1 e1 s2 m2 e2
    if r.1 = 0 then (zeroBits f (if m1 = 0 ∧ m2 = 0 ∧ s1 = s2 then s1 else mode == 3), 0)
    else roundTo f mode (decide (r.1 < 0)) r.1.natAbs r.2

/-- x × y (R176). -/
def mulReal (f : FloatFmt) (mode : Nat) (x y : FVal) : Nat × Flags :=
  match x, y with
  | .nan a, y => (nanBits f, sigFlag [.nan a, y])
  | x, .nan b => (nanBits f, sigFlag [x, .nan b])
  | .inf a, .inf b => (infBits f (a != b), 0)
  | .inf a, .fin b m _ => if m = 0 then (nanBits f, flagNV) else (infBits f (a != b), 0)
  | .fin a m _, .inf b => if m = 0 then (nanBits f, flagNV) else (infBits f (a != b), 0)
  | .fin s1 m1 e1, .fin s2 m2 e2 => roundTo f mode (s1 != s2) (m1 * m2) (e1 + e2)

/-- The exact product as a value; an invalid 0 × ∞ is a signalling NaN, so that NV is raised whatever the addend. -/
def productOf (x y : FVal) : FVal :=
  match x, y with
  | .nan a, .nan b => .nan (a || b)
  | .nan a, _ => .nan a
  | _, .nan b => .nan b
  | .inf a, .inf b => .inf (a != b)
  | .inf a, .fin b m _ => if m = 0 then .nan true else .inf (a != b)
  | .fin a m _, .inf b => if m = 0 then .nan true else .inf (a != b)
  | .fin s1 m1 e1, .fin s2 m2 e2 => .fin (s1 != s2) (m1 * m2) (e1 + e2)

/-- x × y + z with one rounding (R176). -/
def fmaReal (f : FloatFmt) (mode : Nat) (x y z : FVal) : Nat × Flags := addReal f mode (productOf x y) z

/-- floor(√n) by bits: `b` bits of the root are still to be found below `r`. -/
def isqrtFrom (n : Nat) : Nat → Nat → Nat
  | 0, r => r
  | b + 1, r => isqrtFrom n b (if (r + 2 ^ b) * (r + 2 ^ b) ≤ n then r + 2 ^ b else r)

/-- floor(√n). -/
def isqrt (n : Nat) : Nat := isqrtFrom n (bitLen n / 2 + 1) 0

/-- A quotient or root known to within its last unit: a last bit of 1 stands for a non-zero remainder. -/
def sticky (t : Nat) (exact : Bool) : Nat := 2 * t + (if exact then 0 else 1)

/-- x / y (R178). -/
def divReal (f : FloatFmt) (mode : Nat) (x y : FVal) : Nat × Flags :=
  match x, y with
  | .nan a, y => (nanBits f, sigFlag [.nan a, y])
  | x, .nan b => (nanBits f, sigFlag [x, .nan b])
  | .inf _, .inf _ => (nanBits f, flagNV)
  | .inf a, .fin b _ _ => (infBits f (a != b), 0)
  | .fin a _ _, .inf b => (zeroBits f (a != b), 0)
  | .fin s1 m1 e1, .fin s2 m2 e2 =>
    if m2 = 0 then (if m1 = 0 then (nanBits f, flagNV) else (infBits f (s1 != s2), flagDZ))
    else
      let k := f.fbits + 4 + bitLen m2
      let n := m1 * 2 ^ k
      roundTo f mode (s1 != s2) (sticky (n / m2) (n % m2 == 0)) (e1 - e2 - k - 1)

/-- √x (R178). -/
def sqrtReal (f : FloatFmt) (mode : Nat) (x : FVal) : Nat × Flags :=
  match x with
  | .nan a => (nanBits f, sigFlag [.nan a])
  | .inf s => if s then (nanBits f, flagNV) else (infBits f false, 0)
  | .fin s m e =>
    if m = 0 then (zeroBits f s, 0)
    else if s then (nanBits f, flagNV)
    else
      let odd := e % 2 = 1
      let m1 := if odd then 2 * m else m
      let e1 := if odd then e - 1 else e
      let k := f.fbits + 3
      let r := isqrt (m1 * 2 ^ (2 * k))
      roundTo f mode false (sticky r (r * r == m1 * 2 ^ (2 * k))) (e1 / 2 - k - 1)

/-- The order of two values that are not NaN: −1, 0 or 1 as x < y, x = y, x > y; ±0 are equal (R179). -/
def compareReal (x y : FVal) : Int :=
  match x, y with
  | .inf a, .inf b => if a = b then 0 else if a then -1 else 1
  | .inf a, _ => if a then -1 else 1
  | _, .inf b => if b then 1 else -1
  | .fin s1 m1 e1, .fin s2 m2 e2 =>
    let r := (addExact s1 m1 e1 (!s2) m2 e2).1
    if r < 0 then -1 else if r = 0 then 0 else 1
  | _, _ => 0

/-- `VFMIN` (`mx` false) and `VFMAX` on bit patterns (R177): −0 is less than +0, one NaN gives the other operand. -/
def minMaxBits (f : FloatFmt) (mx : Bool) (a b : Nat) : Nat × Flags :=
  let x := unpack f a
  let y := unpack f b
  let fl := sigFlag [x, y]
  if isNan x && isNan y then (nanBits f, fl)
  else if isNan x then (b, fl)
  else if isNan y then (a, fl)
  else
    let c := compareReal x y
    let less := decide (c < 0) || (decide (c = 0) && signOf x && !signOf y)
    (if mx then (if less then b else a) else (if less then a else if decide (c = 0) && signOf x == signOf y then a
      else b), fl)

/-- The conditions of `VFCMP` by minor: EQ LT LE UN (R179). -/
def fcmpBits (f : FloatFmt) (cond : Nat) (a b : Nat) : Bool × Flags :=
  let x := unpack f a
  let y := unpack f b
  let un := isNan x || isNan y
  let quiet := cond = 0 ∨ cond = 3
  let fl := if quiet then sigFlag [x, y] else if un then flagNV else 0
  let c := compareReal x y
  (match cond with
   | 0 => !un && decide (c = 0)
   | 1 => !un && decide (c < 0)
   | 2 => !un && decide (c ≤ 0)
   | _ => un, fl)

/-- Round to an integral value in the source format (R181). -/
def rintReal (f : FloatFmt) (mode : Nat) (x : FVal) : Nat × Flags :=
  match x with
  | .nan a => (nanBits f, sigFlag [.nan a])
  | .inf s => (infBits f s, 0)
  | .fin s m e =>
    let r := roundAt mode s m e 0
    if e ≥ 0 then ((roundTo f mode s m e).1, 0)
    else ((roundTo f mode s r.1 0).1, if r.2 then flagNX else 0)

/-- The class bit of Table 08.6. -/
def classOf (f : FloatFmt) (a : Nat) : Nat :=
  match unpack f a with
  | .nan true => 2 ^ 0
  | .nan false => 2 ^ 1
  | .inf s => if s then 2 ^ 2 else 2 ^ 9
  | .fin s m _ =>
    if m = 0 then (if s then 2 ^ 5 else 2 ^ 6)
    else if m < 2 ^ f.fbits then (if s then 2 ^ 4 else 2 ^ 7)
    else (if s then 2 ^ 3 else 2 ^ 8)

/-- A value into a binary format (R84): a NaN gives the canonical NaN, with NV only for a signalling one. -/
def toBinary (f : FloatFmt) (mode : Nat) (x : FVal) : Nat × Flags :=
  match x with
  | .nan a => (nanBits f, sigFlag [.nan a])
  | .inf s => (infBits f s, 0)
  | .fin s m e => roundTo f mode s m e

/-- A value into an integer of `w` bits, signed or natural (R84): out of range clamps with NV, NaN gives 0 with NV. -/
def toInteger (w : Nat) (signed : Bool) (mode : Nat) (x : FVal) : Int × Flags :=
  let hi : Int := if signed then 2 ^ (w - 1) - 1 else 2 ^ w - 1
  let lo : Int := if signed then -(2 ^ (w - 1)) else 0
  match x with
  | .nan _ => (0, flagNV)
  | .inf s => (if s then lo else hi, flagNV)
  | .fin s m e =>
    let r := roundAt mode s m e 0
    let v : Int := if s then -(r.1 : Int) else r.1
    if v > hi then (hi, flagNV) else if v < lo then (lo, flagNV) else (v, if r.2 then flagNX else 0)

/-- An integer as an exact value. -/
def ofInt (i : Int) : FVal := .fin (decide (i < 0)) i.natAbs 0

/-- Clamp an integer to `w` bits; NV when the value changes (R84). -/
def clampInt (w : Nat) (signed : Bool) (i : Int) : Int × Flags :=
  let hi : Int := if signed then 2 ^ (w - 1) - 1 else 2 ^ w - 1
  let lo : Int := if signed then -(2 ^ (w - 1)) else 0
  if i > hi then (hi, flagNV) else if i < lo then (lo, flagNV) else (i, 0)

/-! The approximations of R183. Fixed point with 256 fraction bits; log 8 says why that decides every rounding. -/

def fixBits : Nat := 256

/-- Σ over k from 1 to n of 2^256 / (k × 2^k): ln 2 in fixed point. -/
def ln2Sum : Nat → Nat
  | 0 => 0
  | k + 1 => ln2Sum k + 2 ^ fixBits / ((k + 1) * 2 ^ (k + 1))

def ln2Fix : Nat := ln2Sum 264

/-- Σ of t^k / k! from term `k` on, `fuel` terms; `term` is the term before. -/
def expSum (t : Nat) : Nat → Nat → Nat → Nat
  | 0, _, _ => 0
  | fuel + 1, k, term =>
    let nxt := term * t / (k * 2 ^ fixBits)
    nxt + expSum t fuel (k + 1) nxt

/-- 2^(f / 2^256) in fixed point, for f below 2^256. -/
def exp2Frac (f : Nat) : Nat := 2 ^ fixBits + expSum (f * ln2Fix / 2 ^ fixBits) 72 1 (2 ^ fixBits)

/-- Σ of z^(2k+1) / (2k+1), `fuel` terms; `pow` is z^(2k+1). -/
def atanhSum (z2 : Nat) : Nat → Nat → Nat → Nat
  | 0, _, _ => 0
  | fuel + 1, k, pow => pow / (2 * k + 1) + atanhSum z2 fuel (k + 1) (pow * z2 / 2 ^ fixBits)

/-- log2 of m / 2^23 in fixed point, for m from 2^23 to 2^24. -/
def log2Frac (m : Nat) : Nat :=
  let z := (m - 2 ^ 23) * 2 ^ fixBits / (m + 2 ^ 23)
  2 * atanhSum (z * z / 2 ^ fixBits) 84 0 z * 2 ^ fixBits / ln2Fix

/-- A result of F12 as binary32 bits. -/
def f12 (r : Nat × Flags) : Nat × Flags :=
  (r.1 / 2 ^ 20 * 2 ^ 31 + r.1 % 2 ^ 20 * 2 ^ 11, r.2)

/-- `VRCP.f` (R183). -/
def rcpF12 (x : FVal) : Nat × Flags :=
  match x with
  | .nan a => (nanBits fmtF, sigFlag [.nan a])
  | _ => f12 (divReal fmtF12 0 (.fin false 1 0) x)

/-- `VRSQ.f` (R183). -/
def rsqF12 (x : FVal) : Nat × Flags :=
  match x with
  | .nan a => (nanBits fmtF, sigFlag [.nan a])
  | .inf s => if s then (nanBits fmtF, flagNV) else (0, 0)
  | .fin s m e =>
    if m = 0 then (infBits fmtF s, flagDZ)
    else if s then (nanBits fmtF, flagNV)
    else
      let odd := e % 2 = 1
      let m1 := if odd then 2 * m else m
      let e1 := if odd then e - 1 else e
      let n := 2 ^ 160
      let r := isqrt (n / m1)
      f12 (roundTo fmtF12 0 false (sticky r (r * r * m1 == n)) (-(e1 / 2) - 81))

/-- `VEXP2.f` (R183). -/
def exp2F12 (x : FVal) : Nat × Flags :=
  match x with
  | .nan a => (nanBits fmtF, sigFlag [.nan a])
  | .inf s => (if s then 0 else infBits fmtF false, 0)
  | .fin s m e =>
    if m = 0 then (0x3F800000, 0)
    else if e + bitLen m > 9 then
      f12 (if s then roundTo fmtF12 0 false 1 (-1000) else roundTo fmtF12 0 false 1 1000)
    else
      -- x in fixed point is exact: |x| < 2^9 and e ≥ −149
      let v : Int := (if s then -1 else 1) * ((m * 2 ^ (e + fixBits).toNat : Nat) : Int)
      let n := v / 2 ^ fixBits
      let fr := (v % 2 ^ fixBits).toNat
      if fr = 0 then f12 (roundTo fmtF12 0 false 1 n)
      else f12 (roundTo fmtF12 0 false (sticky (exp2Frac fr) false) (n - fixBits - 1))

/-- `VLOG2.f` (R183). -/
def log2F12 (x : FVal) : Nat × Flags :=
  match x with
  | .nan a => (nanBits fmtF, sigFlag [.nan a])
  | .inf s => if s then (nanBits fmtF, flagNV) else (infBits fmtF false, 0)
  | .fin s m e =>
    if m = 0 then (infBits fmtF true, flagDZ)
    else if s then (nanBits fmtF, flagNV)
    else
      let top := e + bitLen m - 1
      let m1 := if bitLen m ≤ 24 then m * 2 ^ (24 - bitLen m) else m / 2 ^ (bitLen m - 24)
      if m1 = 2 ^ 23 then f12 (roundTo fmtF12 0 (decide (top < 0)) top.natAbs 0)
      else
        let v : Int := top * 2 ^ fixBits + log2Frac m1
        -- the exact value lies above v by less than one unit; its magnitude is floored below
        let neg := decide (v < 0)
        f12 (roundTo fmtF12 0 neg (sticky (if neg then v.natAbs - 1 else v.natAbs) false) (-(fixBits : Int) - 1))

end Sys2Proof.Machine
end

