-- ==== Sys2Proof/Machine/Taper.lean ====
section
/-! DEFINITION. The tapered formats T8 and T6, scaled blocks, element codes and `VCVT` (R74 to R81, R84, R107, R108). -/
namespace Sys2Proof.Machine

/-- Length of the run of bits equal to `b` from bit `i - 1` down. -/
def runLen (m : Nat) (b : Bool) : Nat → Nat
  | 0 => 0
  | i + 1 => if (m / 2 ^ i % 2 == 1) = b then 1 + runLen m b i else 0

/-- The value of a magnitude field of `w` bits with `eb` exponent bits, times 2^12 (R74, R75). -/
def taperMag (w eb m : Nat) : Nat :=
  let one := m / 2 ^ (w - 1) % 2 == 1
  let k := runLen m one w
  let r : Int := if one then (k : Int) - 1 else -(k : Int)
  let left := w - k - 1
  let e := if eb = 1 ∧ left ≥ 1 then m / 2 ^ (left - 1) % 2 else 0
  let fb := left - eb
  let ex : Int := (if eb = 1 then 2 * r else r) + e
  -- 2^ex × (2^fb + fraction) / 2^fb × 2^12
  (2 ^ fb + m % 2 ^ fb) * 2 ^ (ex + 12).toNat / 2 ^ fb

/-- The value of a T8 byte (R74): NaV is a quiet NaN. -/
def t8Value (x : Nat) : FVal :=
  let x := x % 256
  if x = 0x80 then .nan false else if x = 0 then .fin false 0 0
  else .fin (decide (x ≥ 128)) (taperMag 7 1 (x % 128)) (-12)

/-- The value of a T6 pattern (R75). -/
def t6Value (x : Nat) : FVal :=
  let x := x % 64
  if x = 0x20 then .nan false else if x = 0 then .fin false 0 0
  else .fin (decide (x ≥ 32)) (taperMag 5 0 (x % 32)) (-12)

/-- m × 2^e × 2^12 as a fraction: numerator and denominator. -/
def taperScale (m : Nat) (e : Int) : Nat × Nat :=
  if e + 12 ≥ 0 then (m * 2 ^ (e + 12).toNat, 1) else (m, 2 ^ (-(e + 12)).toNat)

/-- The magnitude code nearest to n / d among the codes up to `c`, ties to the even code; codes ascend in value. -/
def taperNear (w eb n d : Nat) : Nat → Nat
  | 0 => 0
  | c + 1 =>
    let lo := taperMag w eb c
    let hi := taperMag w eb (c + 1)
    if n ≥ hi * d then c + 1
    else if c ≥ 1 ∧ n ≥ lo * d then
      (if 2 * n > (lo + hi) * d then c + 1 else if 2 * n < (lo + hi) * d then c else if c % 2 = 0 then c else c + 1)
    else taperNear w eb n d c

/-- Rounding into T8 (`w` = 7, `eb` = 1) or T6 (`w` = 5, `eb` = 0) with flags (R76). -/
def taperRound (w eb : Nat) (x : FVal) : Nat × Flags :=
  match x with
  | .nan s => (2 ^ w, if s then flagNV else 0)
  | .inf s => ((if s then 2 ^ w else 0) + (2 ^ w - 1), flagOF ||| flagNX)
  | .fin s m e =>
    let r := taperScale m e
    let sg := if s then 2 ^ w else 0
    if m = 0 then (0, 0)
    else if r.1 > taperMag w eb (2 ^ w - 1) * r.2 then (sg + (2 ^ w - 1), flagOF ||| flagNX)
    else if 2 * r.1 ≤ taperMag w eb 1 * r.2 then (0, flagUF ||| flagNX)
    else if r.1 < taperMag w eb 1 * r.2 then (sg + 1, flagUF ||| flagNX)
    else
      let c := taperNear w eb r.1 r.2 (2 ^ w - 1)
      (sg + c, if r.1 = taperMag w eb c * r.2 then 0 else flagNX)

def t8Round (x : FVal) : Nat × Flags := taperRound 7 1 x
def t6Round (x : FVal) : Nat × Flags := taperRound 5 0 x

/-- x × 2^k exactly. -/
def scaleReal (x : FVal) (k : Int) : FVal :=
  match x with
  | .fin s m e => .fin s m (e + k)
  | y => y

/-- |x| ≤ 2^p. -/
def atMostPow (x : FVal) (p : Int) : Bool :=
  match x with
  | .fin _ m e => decide (m = 0) || decide (compareReal (.fin false m e) (.fin false 1 p) ≤ 0)
  | _ => false

/-- The smallest S in `s` .. with mx × 2^(127−S) ≤ maxpos (2^12 for T8, 2^4 for T6), or 254 (R80). -/
def pickScale (mx : FVal) (p : Int) : Nat → Nat → Nat
  | 0, _ => 254
  | fuel + 1, s => if atMostPow (scaleReal mx (127 - s)) p then s else pickScale mx p fuel (s + 1)

/-- The greater magnitude of two values that are not NaN. -/
def maxMag (x y : FVal) : FVal :=
  match x, y with
  | .inf _, _ => .inf false
  | _, .inf _ => .inf false
  | .fin _ m e, .fin _ m2 e2 => if compareReal (.fin false m e) (.fin false m2 e2) < 0 then .fin false m2 e2 else .fin false m e
  | a, _ => a

/-- Encode a scaled block (R80): the scale byte, the element codes, the flags. `t8` chooses SB64.T8. -/
def encodeBlock (t8 : Bool) (xs : List FVal) : Nat × List Nat × Flags :=
  if xs.any isNan then (0xFF, xs.map (fun _ => if t8 then 0x80 else 0x20), sigFlag xs)
  else
    let mx := xs.foldl maxMag (.fin false 0 0)
    let s := if isZero mx then 0 else pickScale mx (if t8 then 12 else 4) 255 0
    let rs := xs.map (fun x => if t8 then t8Round (scaleReal x (127 - s)) else t6Round (scaleReal x (127 - s)))
    (s, rs.map Prod.fst, rs.foldl (fun a r => a ||| r.2) 0)

/-- The value of an element of a scaled block (R78). -/
def blockElem (t8 : Bool) (scale code : Nat) : FVal :=
  if scale = 0xFF then .nan false else scaleReal (if t8 then t8Value code else t6Value code) ((scale : Int) - 127)

/-! Element format codes (Table 05.5). -/

/-- Bytes per element, or per unit of four elements for the T6 forms; 0 for a reserved code (Table 05.4, R208). -/
def elemSize (c : Nat) : Nat :=
  match c with
  | 0x01 => 8 | 0x0B => 8 | 0x0F => 8
  | 0x02 => 4 | 0x0A => 4 | 0x0E => 4
  | 0x03 => 2 | 0x04 => 2 | 0x09 => 2 | 0x0D => 2
  | 0x08 => 1 | 0x0C => 1 | 0x10 => 1 | 0x12 => 1
  | 0x11 => 3 | 0x13 => 3
  | _ => 0

def isT6 (c : Nat) : Bool := c == 0x11 || c == 0x13
def isScaled (c : Nat) : Bool := c == 0x12 || c == 0x13

/-- The value of an element code in a floating-point format of Table 05.5, with its block scale. -/
def elemValue (fmt scale code : Nat) : FVal :=
  match fmt with
  | 0x01 => unpack fmtD code
  | 0x02 => unpack fmtF code
  | 0x03 => unpack fmtH code
  | 0x04 => unpack fmtB code
  | 0x10 => t8Value code
  | 0x11 => t6Value code
  | 0x12 => blockElem true scale code
  | _ => blockElem false scale code

/-- A value into one of the unscaled floating-point formats, in RNE (R76, R84). -/
def elemRound (fmt : Nat) (x : FVal) : Nat × Flags :=
  match fmt with
  | 0x01 => toBinary fmtD 0 x
  | 0x02 => toBinary fmtF 0 x
  | 0x03 => toBinary fmtH 0 x
  | 0x04 => toBinary fmtB 0 x
  | 0x10 => t8Round x
  | _ => t6Round x

/-! `VCVT` (R107, R108). Formats are numbered d f h bf t8 t6 i32 i64 n32 from 0. -/

/-- Source and destination of a conversion code (Table 06.9). -/
def convPair (c : Nat) : Nat × Nat :=
  if c < 0x20 then
    let dst := [[1, 2, 3, 4, 5, 6, 7, 8], [0, 2, 3, 4, 5, 6, 7, 8], [0, 1, 3, 4, 5, 6, 7, 8], [0, 1, 2, 4, 5, 6, 7, 8]]
    (c / 8, (dst.getD (c / 8) []).getD (c % 8) 0)
  else if c < 0x25 then (4, [0, 1, 2, 3, 5].getD (c - 0x20) 0)
  else if c < 0x2A then (5, [0, 1, 2, 3, 4].getD (c - 0x25) 0)
  else if c < 0x30 then (6, [0, 1, 2, 3, 7, 8].getD (c - 0x2A) 0)
  else if c < 0x36 then (7, [0, 1, 2, 3, 6, 8].getD (c - 0x30) 0)
  else (8, [0, 1, 2, 3, 6, 7].getD (c - 0x36) 0)

def isNarrow (f : Nat) : Bool := decide (2 ≤ f) && decide (f ≤ 5)

/-- Element j of a lane in format f as raw bits (R108). -/
def convRead (f lane j : Nat) : Nat :=
  match f with
  | 0 => lane | 1 => lane % 2 ^ 32
  | 2 => lane / 2 ^ (16 * j) % 2 ^ 16 | 3 => lane / 2 ^ (16 * j) % 2 ^ 16
  | 4 => lane / 2 ^ (8 * j) % 2 ^ 8 | 5 => lane / 2 ^ (8 * j) % 2 ^ 6
  | 6 => lane % 2 ^ 32 | 7 => lane
  | _ => lane % 2 ^ 32

/-- The integer a raw source stands for. -/
def convInt (f raw : Nat) : Int :=
  match f with
  | 6 => (BitVec.ofNat 32 raw).toInt
  | 7 => (BitVec.ofNat 64 raw).toInt
  | _ => raw

/-- The value of a raw floating-point source. -/
def convValue (f raw : Nat) : FVal :=
  match f with
  | 0 => unpack fmtD raw | 1 => unpack fmtF raw | 2 => unpack fmtH raw | 3 => unpack fmtB raw
  | 4 => t8Value raw
  | _ => t6Value raw

/-- One element converted: the raw destination element (an integer as 64 bits) and its flags (R84, Table 05.8). -/
def convElem (frm dst mode raw : Nat) : Nat × Flags :=
  let int (w : Nat) (signed : Bool) : Nat × Flags :=
    let r := if frm ≥ 6 then clampInt w signed (convInt frm raw) else toInteger w signed mode (convValue frm raw)
    ((BitVec.ofInt 64 r.1).toNat, r.2)
  let x := if frm ≥ 6 then ofInt (convInt frm raw) else convValue frm raw
  match dst with
  | 0 => toBinary fmtD mode x | 1 => toBinary fmtF mode x | 2 => toBinary fmtH mode x | 3 => toBinary fmtB mode x
  | 4 => t8Round x | 5 => t6Round x
  | 6 => int 32 true | 7 => int 64 true
  | _ => int 32 false

/-- Place of element j in the destination lane (R108). -/
def convShift (dst j : Nat) : Nat := if dst = 2 ∨ dst = 3 then 16 * j else if dst = 4 ∨ dst = 5 then 8 * j else 0

/-- `VCVT` on one lane (R107, R108): narrow to narrow converts four elements, every other pair one. -/
def convLane (c mode lane : Nat) : Nat × Flags :=
  let p := convPair c
  let n := if isNarrow p.1 && isNarrow p.2 then 4 else 1
  (List.range n).foldl (fun acc j =>
    let r := convElem p.1 p.2 mode (convRead p.1 lane j)
    (acc.1 + r.1 * 2 ^ convShift p.2 j, acc.2 ||| r.2)) (0, 0)

end Sys2Proof.Machine
end

