-- ==== Sys2Proof/Machine/Elements.lean ====
section
/-! DEFINITION. The elements of engine operations (R206 to R212, R221, R225, R256, R257): where each is read, where it is
written, its tile position, and the ranges an operation registers. Scratchpad places are written as aperture addresses
(R185), so that one number names any byte. -/
namespace Sys2Proof.Machine

/-- The lowest address of the scratchpad aperture (R185). -/
def apBase : Nat := 0x1FFFFFFF0000000

/-- The address lies in the aperture (R185). -/
def inAperture (va : Nat) : Bool := decide (apBase ≤ va) && decide (va < 2 ^ 57)

/-- One element of an operation. -/
structure Elem where
  src  : Option Nat    -- none: nothing is read, the fill pattern is written
  dst  : Nat
  size : Nat
  pos  : Nat           -- tile position (R206)
  keep : Nat           -- elements of a T6 unit that lie inside the tensor; 4 otherwise
  live : Bool          -- false: nothing is read or written (R209)
  deriving DecidableEq, Repr

/-- Bits `hi` to `lo` of a word. -/
def bits (x : BitVec 64) (hi lo : Nat) : Nat := x.toNat / 2 ^ lo % 2 ^ (hi - lo + 1)

/-! The layout record (Table 11.9), words w0 to w11 and the origin words 12 to 14. -/

def recBase (d : List (BitVec 64)) : Nat := bits (word d 0) 56 0
def recFmt (d : List (BitVec 64)) : Nat := bits (word d 1) 7 0
def recRank (d : List (BitVec 64)) : Nat := bits (word d 1) 11 8
def recIlv (d : List (BitVec 64)) : Nat := bits (word d 1) 14 12
def recFill (d : List (BitVec 64)) : Nat := bits (word d 1) 63 32 * (2 ^ 32 + 1)
def recDim (d : List (BitVec 64)) (j : Nat) : Nat := bits (word d (2 + j / 2)) (31 + 32 * (j % 2)) (32 * (j % 2))
def recStride (d : List (BitVec 64)) (j : Nat) : Nat := bits (word d (4 + j)) 39 0
def recBox (d : List (BitVec 64)) (j : Nat) : Nat := bits (word d (9 + j / 4)) (15 + 16 * (j % 4)) (16 * (j % 4))
def recSoff (d : List (BitVec 64)) : Nat := bits (word d 10) 39 16
def recPitch (d : List (BitVec 64)) : Nat := bits (word d 10) 63 40
def recRec (d : List (BitVec 64)) : Nat := bits (word d 11) 5 0
def recUse (d : List (BitVec 64)) : Bool := (word d 11).getLsbD 6
/-- Origin o_j, signed (R208). -/
def recOrg (d : List (BitVec 64)) (j : Nat) : Int :=
  (BitVec.ofNat 32 (bits (word d (12 + j / 2)) (31 + 32 * (j % 2)) (32 * (j % 2)))).toInt

/-- Elements of dim0 per unit of the copy loop: four for the T6 forms (R208). -/
def unitOf (fmt : Nat) : Nat := if isT6 fmt then 4 else 1

/-- Units in a box, and bytes in a box (R208). -/
def boxUnits (d : List (BitVec 64)) : Nat :=
  recBox d 0 / unitOf (recFmt d) * recBox d 1 * recBox d 2 * recBox d 3 * recBox d 4
def boxBytes (d : List (BitVec 64)) : Nat := boxUnits d * elemSize (recFmt d)

/-- `place` (R257): the OFFSET of byte rel of box row `row`. -/
def placeOf (ilv soff rel row : Nat) : Nat :=
  let a := soff + rel
  if ilv = 1 then a ^^^ (16 * (row % 2))
  else if ilv = 2 then a ^^^ (16 * (row % 4))
  else if ilv = 3 then a ^^^ (16 * (row % 8))
  else if ilv = 4 then a - 128 * (a / 128 % 32) + 128 * ((a / 128 % 32 + row) % 32)
  else a

/-- Index of box dimension j ≥ 1 in box row `row` (R208). -/
def boxIndex (d : List (BitVec 64)) (row j : Nat) : Nat :=
  let below := (List.range (j - 1)).foldl (fun acc i => acc * max 1 (recBox d (i + 1))) 1
  row / below % max 1 (recBox d j)

/-- Unit i of a box: its place, its memory address, and how many of its elements lie inside the tensor (R208). A dimension at
or above the rank takes no part in the test (log 12). -/
def boxUnit (d : List (BitVec 64)) (i : Nat) : Nat × Nat × Nat :=
  let fmt := recFmt d
  let size := elemSize fmt
  let u := unitOf fmt
  let b0 := max 1 (recBox d 0 / u)
  let e0 := i % b0
  let row := i / b0
  let c0 : Int := recOrg d 0 / u + e0
  let c (j : Nat) : Int := recOrg d j + boxIndex d row j
  let outer := ([1, 2, 3, 4].filter fun j => decide (j < recRank d)).all fun j => decide (0 ≤ c j) && decide (c j < recDim d j)
  let room : Int := recDim d 0 - c0 * u
  let keep : Nat := if outer ∧ 0 ≤ c0 then min u room.toNat else 0
  let sum := [1, 2, 3, 4].foldl (fun (acc : Int) j => acc + recStride d j * c j) 0
  let addr := (((recBase d : Int) + c0 * size + 16 * sum) % 2 ^ 64).toNat
  (placeOf (recIlv d) (recSoff d) (row * recPitch d + e0 * size) row, addr, keep)

/-- The number of elements of an operation, in the sense of R48 and R249. -/
def elemCount (op : EngOp) : Nat :=
  match op.kind with
  | .cpyT => boxUnits op.desc
  | .cpyTs => boxUnits op.desc
  | .cpyRem => bits (word op.desc 2) 39 0 / 16
  | .cpyRed => bits (word op.desc 2) 31 0 / 128
  | .cpyL => op.lanes.length
  | .mst => bits (word op.desc 1) 6 0 * bits (word op.desc 1) 14 8
  | .qntEnc =>
    let f := bits (word op.desc 3) 47 40
    bits (word op.desc 3) 31 0 / (if isScaled f then 64 else unitOf f)
  | .qntDec =>
    let f := bits (word op.desc 3) 39 32
    bits (word op.desc 3) 31 0 / (if isScaled f then 64 else unitOf f)
  | .gath => 0
  | .panel => 0

/-- Bytes that unit i of a `CPY.TS` writes. -/
def tsBytes (d : List (BitVec 64)) (i : Nat) : Nat := if (boxUnit d i).2.2 = 0 then 0 else elemSize (recFmt d)

/-- Element i of a copy or a tile store. -/
def elemAt (op : EngOp) (i : Nat) : Elem :=
  let d := op.desc
  match op.kind with
  | .cpyT =>
    let (at', addr, keep) := boxUnit d i
    { src := if keep = 0 then none else some addr, dst := apBase + at' % 2 ^ 22, size := elemSize (recFmt d)
      pos := i * elemSize (recFmt d), keep := if isT6 (recFmt d) then keep else 4, live := true }
  | .cpyTs =>
    let (at', addr, keep) := boxUnit d i
    { src := some (apBase + at' % 2 ^ 22), dst := addr, size := elemSize (recFmt d)
      pos := (List.range i).foldl (fun acc k => acc + tsBytes d k) 0
      keep := if isT6 (recFmt d) then keep else 4, live := decide (keep ≠ 0) }
  | .cpyL =>
    let p := op.lanes.getD i (0, 0)
    let n := (word d 1).toNat
    { src := some p.2, dst := apBase + (bits (word d 0) 27 0 + n * p.1) % 2 ^ 28, size := n, pos := n * p.1, keep := 4, live := true }
  | .mst =>
    let cols := max 1 (bits (word d 1) 14 8)
    let size := elemSize (bits (word d 1) 39 32)
    { src := none, dst := bits (word d 0) 56 0 + i / cols * bits (word d 1) 31 16 + i % cols * size, size := size
      pos := i * size, keep := 4, live := true }
  | .cpyRed =>
    { src := some (bits (word d 1) 56 0 + 128 * i), dst := bits (word d 0) 56 0 + 128 * i, size := 128, pos := 128 * i
      keep := 4, live := true }
  | _ =>
    { src := some (bits (word d 1) 56 0 + 16 * i), dst := bits (word d 0) 56 0 + 16 * i, size := 16, pos := 16 * i, keep := 4
      live := true }

/-- Bytes that element i writes. -/
def elemBytes (op : EngOp) (i : Nat) : Nat := if (elemAt op i).live then (elemAt op i).size else 0

/-- Bytes that an operation delivers: what its token receives and what it posts (R206, R208 to R212, R221). -/
def opBytes (op : EngOp) : Nat :=
  match op.kind with
  | .cpyT => boxBytes op.desc
  | .cpyRem => bits (word op.desc 2) 39 0
  | .cpyRed => bits (word op.desc 2) 31 0
  | _ => (List.range (elemCount op)).foldl (fun acc i => acc + elemBytes op i) 0

/-- Bytes of the range of n bytes at p that lie in chunk c (R206). -/
def chunkPart (p n c : Nat) : Nat := min (p + n) (512 * c + 512) - max p (512 * c)

/-- Bytes that the elements from `first` on write into each chunk of their tile, by chunk; a record holds 64 chunks (R206). -/
def chunkDue (op : EngOp) (first : Nat) : List (Nat × Nat) :=
  let els := ((List.range (elemCount op)).drop first).map (elemAt op)
  (List.range 64).map fun c => (c, els.foldl (fun acc e => if e.live then acc + chunkPart e.pos e.size c else acc) 0)

/-- The least range that holds every interval, if there is one. -/
def hull (l : List (Nat × Nat)) : Option (Nat × Nat) :=
  l.foldl (fun acc p => match acc with
    | none => some p
    | some (lo, hi) => some (min lo p.1, max hi p.2)) none

/-! Quantise descriptors (Table 10.4). -/

/-- The scaled format of a quantise operation, 0 for an unscaled one; its payload bytes per unit or block. -/
def qntTaper (op : EngOp) : Nat :=
  if op.kind = .qntEnc then bits (word op.desc 3) 47 40 else bits (word op.desc 3) 39 32
def qntBinary (op : EngOp) : Nat :=
  if op.kind = .qntEnc then bits (word op.desc 3) 39 32 else bits (word op.desc 3) 47 40
/-- Elements per step: a block of 64, a T6 unit of 4, or one. -/
def qntStep (op : EngOp) : Nat := if isScaled (qntTaper op) then 64 else unitOf (qntTaper op)
/-- Taper payload bytes per step. -/
def qntPay (op : EngOp) : Nat := qntStep op / unitOf (qntTaper op) * elemSize (qntTaper op)
/-- Binary bytes per step. -/
def qntBin (op : EngOp) : Nat := qntStep op * elemSize (qntBinary op)

/-- The source and destination ranges of an operation: destination flag, lowest and highest byte (R206, R225, R226). For `GATH`
the entry count is the word given (log 13). -/
def rangesOf (op : EngOp) (nnz : Nat) : List (Bool × Nat × Nat) :=
  let d := op.desc
  let els := (List.range (elemCount op)).map (elemAt op)
  let one (dst : Bool) (r : Option (Nat × Nat)) : List (Bool × Nat × Nat) := (r.map fun p => (dst, p.1, p.2)).toList
  let srcs := els.filterMap fun e => if e.live then e.src.map fun a => (a, a + e.size - 1) else none
  let dsts := els.filterMap fun e => if e.live then some (e.dst, e.dst + e.size - 1) else none
  let lin (a n : Nat) : Option (Nat × Nat) := if n = 0 then none else some (a, a + n - 1)
  match op.kind with
  | .cpyT => one false (hull srcs) ++ one true (hull dsts)
  | .cpyTs => one false (hull srcs) ++ one true (hull dsts)
  | .cpyRem =>
    one false (lin (bits (word d 1) 56 0) (bits (word d 2) 39 0)) ++ one true (lin (bits (word d 0) 56 0) (bits (word d 2) 39 0))
  | .cpyRed =>
    one false (lin (bits (word d 1) 56 0) (bits (word d 2) 31 0)) ++ one true (lin (bits (word d 0) 56 0) (bits (word d 2) 31 0))
  | .cpyL => one true (hull dsts)
  | .mst => one true (hull dsts)
  | .qntEnc =>
    let n := elemCount op
    one false (lin (bits (word d 0) 56 0) (n * qntBin op)) ++ one true (lin (bits (word d 1) 56 0) (n * qntPay op))
      ++ (if isScaled (qntTaper op) then one true (lin (bits (word d 2) 56 0) n) else [])
  | .qntDec =>
    let n := elemCount op
    one false (lin (bits (word d 0) 56 0) (n * qntPay op)) ++ one true (lin (bits (word d 1) 56 0) (n * qntBin op))
      ++ (if isScaled (qntTaper op) then one false (lin (bits (word d 2) 56 0) n) else [])
  | .gath =>
    one false (lin (bits (word d 0) 56 0) (4 * (bits (word d 3) 6 0 + 1))) ++ one false (lin (bits (word d 1) 56 0) (2 * nnz))
      ++ one false (lin (bits (word d 2) 56 0) ((if bits (word d 3) 31 24 = 0x04 then 2 else 1) * nnz))
  | .panel =>
    let fmt := bits (word d 0) 55 48
    let rows := bits (word d 1) 6 0
    let k := bits (word d 1) 17 8
    let row := k / unitOf fmt * elemSize fmt
    one false (lin (apBase + bits (word d 0) 27 0) ((rows - 1) * bits (word d 0) 47 32 + row))
      ++ (if isScaled fmt then one false (lin (apBase + bits (word d 1) 59 32) (rows * (k / 64))) else [])

/-- The GANG = 1 form of a scratchpad address, `idx` being the index of the own block in its gang (R252). -/
def gangForm (idx a : Nat) : Nat := if a / 2 ^ 27 % 2 = 1 then a % 2 ^ 28 else 2 ^ 27 + idx % 32 * 2 ^ 22 + a % 2 ^ 22

/-- One number for any byte: aperture addresses in their GANG = 1 form (R252). -/
def normAddr (idx va : Nat) : Nat := if inAperture va then apBase + gangForm idx (va % 2 ^ 28) else va

/-- The tile position of a destination byte of an operation (R252), if it writes that byte; `a` is in the form of
`normAddr`. -/
def tilePos (op : EngOp) (idx a : Nat) : Option Nat :=
  ((List.range (elemCount op)).map (elemAt op)).findSome? fun e =>
    let d := normAddr idx e.dst
    if e.live ∧ d ≤ a ∧ a < d + e.size then some (e.pos + (a - d)) else none

end Sys2Proof.Machine
end

