-- ==== Sys2Proof/Machine/Translate.lean ====
section
/-! DEFINITION. Address translation (R246 to R248, R304, R355): table walks, permissions, the fabric MMU, and where an
address leads. -/
namespace Sys2Proof.Machine

/-- Access kinds (R383): 0 load or monitor, 1 store, 2 atomic or lock, 3 fetch, 4 engine read, 5 engine write. -/
abbrev Kind := Nat

/-- The outcome of translating one address: a place, a walk still to be made, or an XLATE code (Table 24.1). -/
inductive Xlate where
  | ok (loc : Loc)
  | miss
  | fault (code : Nat)
  deriving DecidableEq, Repr

/-- A physical address of memory (Table 21.1). -/
def isHbm (pa : Nat) : Bool := decide (pa < 2 ^ 39) && decide (pa % 2 ^ 36 < 0xC00000000)

/-- Base and size of control space (Table 21.1). -/
def csrBase : Nat := 0x8000000000000

/-- Bits [51:12] of an entry or root, in place. -/
def entryAddr (e : Nat) : Nat := e / 2 ^ 12 % 2 ^ 40 * 2 ^ 12

/-- The BF16 window whose range holds a physical address (R253). DESIGN CHOICE (log 61): of two enabled windows whose ranges meet, the one
of the lower number; the spec does not say. -/
def windowAt (s : State) (pa : Nat) : Option Nat :=
  (List.range 16).find? fun w =>
    let a := csrRaw s (csrAw w)
    a % 2 == 1 && decide (a - a % 128 ≤ pa) && decide (pa < a - a % 128 + csrRaw s (csrLen w))

/-- The block behind byte y of a BF16 window (R253): SB64.T8 or not, the place of its payload and of its scale byte. -/
def windowBlock (s : State) (w y : Nat) : Bool × Nat × Nat :=
  let t8 := csrRaw s (csrAwFmt w) % 2 == 0
  (t8, csrRaw s (csrPay w) + y / 128 * (if t8 then 64 else 48), csrRaw s (csrScl w) + y / 128)

/-- Where a physical address leads (R355, R253); none when it maps nothing. A window's range aliases memory addresses, and a block
whose payload or scale lies in no memory maps nothing. -/
def physical (s : State) (pa : Nat) : Option Loc :=
  if isHbm pa then
    match windowAt s pa with
    | some w =>
      let y := pa - csrRaw s (csrAw w) / 128 * 128
      let b := windowBlock s w y
      if isHbm b.2.1 ∧ isHbm b.2.2 then some (.window w y) else none
    | none => some (.hbm pa)
  else if csrBase ≤ pa ∧ pa < csrBase + 2 ^ 40 then some (.csr ((pa - csrBase) / 8) ((pa - csrBase) % 8))
  else none

/-! The table tree of a context (Tables 11.4, 11.5). -/

/-- Level, lowest index bit and index width. -/
def levels : List (Nat × Nat × Nat) := [(1, 48, 9), (2, 39, 9), (3, 30, 9), (4, 21, 9), (5, 16, 5)]

/-- Walk from a table through the levels left (R246); none when no valid leaf is found. -/
def walkFrom (s : State) (ctx va : Nat) : List (Nat × Nat × Nat) → Nat → Option Tlb
  | [], _ => none
  | (lvl, lo, n) :: rest, table =>
    let at' := table + 8 * (va / 2 ^ lo % 2 ^ n)
    let e := homeRead s at' 8
    if ¬ isHbm at' ∨ e % 2 = 0 then none
    else if e / 2 % 2 = 1 then
      if lvl < 3 then none
      else some { ctx := ctx, va := va / 2 ^ lo * 2 ^ lo, size := 2 ^ lo, r := e / 4 % 2 == 1, w := e / 8 % 2 == 1
                  x := e / 16 % 2 == 1, fab := e / 32 % 2 == 1, addr := entryAddr e, pkg := e / 2 ^ 52 % 2 ^ 12 }
    else if lvl = 5 then none
    else walkFrom s ctx va rest (entryAddr e)

/-- The leaf that a walk of the context's tree finds (R246). -/
def walk (s : State) (ctx va : Nat) : Option Tlb := walkFrom s ctx va levels (entryAddr (csrRaw s (csrRoot ctx)))

/-- The lines of this package's tables that a walk reads. -/
def walkLines (s : State) (va : Nat) : List (Nat × Nat × Nat) → Nat → List Nat
  | [], _ => []
  | (_, lo, n) :: rest, table =>
    let at' := table + 8 * (va / 2 ^ lo % 2 ^ n)
    let e := homeRead s at' 8
    if ¬ isHbm at' then [] else at' / 128 :: if e % 2 = 0 ∨ e / 2 % 2 = 1 then [] else walkLines s va rest (entryAddr e)

/-- The lines of page tables that a walk reads enter the common ways of L2 (R244). -/
def walkThrough (s : State) (ctx va : Nat) : State :=
  (walkLines s va levels (entryAddr (csrRaw s (csrRoot ctx)))).foldl (fun s l => fillL2 s none l) s

/-- A held translation of an address (R247). -/
def tlbFind (s : State) (ctx va : Nat) : Option Tlb :=
  s.tlb.find? fun t => t.ctx == ctx && decide (t.va ≤ va) && decide (va < t.va + t.size)

/-- The leaf grants the kind (R383). -/
def grants (t : Tlb) (kind : Kind) : Bool :=
  if kind = 0 ∨ kind = 4 then t.r else if kind = 1 ∨ kind = 5 then t.w else if kind = 3 then t.x else t.r && t.w

/-! The fabric MMU (Table 14.3). -/

/-- Walk of the fabric MMU: the leaf entry, if a valid one is found (R304). -/
def fmWalk (s : State) (off : Nat) : Option Nat :=
  let step (acc : Option Nat) (l : Nat × Bool) : Option Nat :=
    match acc with
    | none => none
    | some table =>
      let at' := table + 8 * (off / 2 ^ l.1 % 2 ^ 9)
      let e := homeRead s at' 8
      if ¬ isHbm at' ∨ e % 2 = 0 ∨ (e / 2 % 2 == 1) ≠ l.2 then none else some (if l.2 then e else entryAddr e)
  match [(39, false), (30, false), (21, true)].foldl step (some (entryAddr (csrRaw s csrFmRoot))) with
  | some e => if e / 2 ^ 12 % 2 ^ 9 = 0 then some e else none
  | none => none

/-- The entry of an offset that the fabric MMU uses: one that it holds since an earlier access, else that of a walk (R248). -/
def fmEntry (s : State) (off : Nat) : Option Nat :=
  let e := getT 0 s.fmTlb (off / 2 ^ 21)
  if e ≠ 0 then some e else fmWalk s off

/-- The fabric MMU holds the entry of an offset from now on, until `TLBINV` mode 3 (R140, R248). -/
def holdEntry (s : State) (off : Nat) : State :=
  match fmEntry s off with
  | some e => { s with fmTlb := putT 0 s.fmTlb (off / 2 ^ 21) e }
  | none => s

/-- The second stage at the target package: the physical address, or none when the entry is missing, lacks the
permission, or holds another CTXTAG (XLATE 3). -/
def fabricPlace (s : State) (ctx off : Nat) (needR needW : Bool) : Option Nat :=
  match fmEntry s off with
  | none => none
  | some e =>
    let pa := entryAddr e + off % 2 ^ 21
    if (needR ∧ e / 4 % 2 = 0) ∨ (needW ∧ e / 8 % 2 = 0) ∨ e / 2 ^ 52 % 2 ^ 12 ≠ ctx % 2 ^ 12 ∨ ¬ isHbm pa then none else some pa

def kindReads (kind : Kind) : Bool := kind == 0 || kind == 2 || kind == 3 || kind == 4
def kindWrites (kind : Kind) : Bool := kind == 1 || kind == 2 || kind == 5

/-- The intermediate fabric offset of an address through a FAB leaf (R248). -/
def fabricOffset (t : Tlb) (va : Nat) : Nat := (t.addr % 2 ^ 48 - t.addr % 2 ^ 48 % t.size + (va - t.va)) % 2 ^ 48

/-- A multicast leaf (R304): ADDR[47:40] all ones. -/
def isMcast (t : Tlb) : Bool := t.fab && t.addr / 2 ^ 40 % 2 ^ 8 == 255

/-- Where an address leads through a leaf (R246, R248, R304, R305). A load through a multicast leaf reads this package's own
mapping; an atomic through one finds no permitted leaf (log 14). DESIGN CHOICE (log 61): a leaf that names this package as PKG leads to this
package's memory through its own fabric MMU; the spec speaks of another package only. -/
def throughLeaf (s : State) (t : Tlb) (ctx va : Nat) (kind : Kind) : Xlate :=
  if ¬ grants t kind then .fault 2
  else if t.fab then
    let off := fabricOffset t va
    let own : Xlate := match fabricPlace s ctx off (kindReads kind) (kindWrites kind) with
      | some pa => .ok (.hbm pa)
      | none => .fault 3
    if isMcast t then
      if t.pkg ≠ 0 then .fault 1
      else if kind = 1 then .ok (.mcast (off / 2 ^ 30 % 2 ^ 10) off)
      else if kind = 0 ∨ kind = 3 ∨ kind = 4 then own
      else .fault 2
    else if t.pkg = pkgNum s then own
    else .ok (.peer t.pkg off)
  else
    match physical s (t.addr - t.addr % t.size + (va - t.va)) with
    | some l => .ok l
    | none => .fault 4

/-- The 64 KiB page of an address, which names a walk. -/
def pageOf (va : Nat) : Nat := va / 2 ^ 16 * 2 ^ 16

/-- A walk of the page of an address that answers a thread: one that still runs, or one of its own that has ended without a leaf
(R384). -/
def walkOf (s : State) (tid ctx va : Nat) : Option Walk :=
  s.walks.find? fun w => w.ctx == ctx && w.va == pageOf va && (w.code == 0 || w.who.contains tid)

/-- Translate by the TLBs and the walks that have ended (R247, R384). -/
def translate (s : State) (tid ctx va : Nat) (kind : Kind) : Xlate :=
  if 2 ^ 57 ≤ va then .fault 5
  else match tlbFind s ctx va with
    | some t => throughLeaf s t ctx va kind
    | none => match walkOf s tid ctx va with
      | none => .miss
      | some w => if w.code = 0 then .miss else .fault w.code

/-- Misses of a die that are outstanding, at most 1,024 (R247). -/
def missesOf (s : State) (die : Nat) : List Walk := s.walks.filter fun w => w.code == 0 && w.die == die

/-- Start the walks of the pages that a thread misses, one for a page (R247, R384). A miss that finds no free miss slot waits. -/
def startWalks (s : State) (g : Group) (vas : List Nat) : State :=
  vas.foldl (fun s va =>
    let running (w : Walk) : Bool := w.ctx == g.ctx && w.va == pageOf va && w.code == 0 && w.die == dieOfCore g.core
    if s.walks.any running then
      { s with walks := mapIf running (fun w => { w with who := insertNat g.tid w.who }) s.walks }
    else if 1024 ≤ (missesOf s (dieOfCore g.core)).length then s
    else { s with walks := s.walks ++ [⟨g.ctx, pageOf va, 0, dieOfCore g.core, [g.tid]⟩] }) s

/-- Put a translation into one TLB, of `size` entries: a full one gives up an entry that a free value names (R247; log 60). -/
def fillTlb (s : State) (unit size : Nat) (t : Tlb) : State :=
  let t := { t with unit := unit }
  let mine := s.tlb.filter fun e => e.unit == unit
  if s.tlb.contains t then s
  else if mine.length < size then { s with tlb := s.tlb ++ [t] }
  else
    let (n, s) := drawFree s
    match mine[Config.freeVictim n % mine.length]? with
    | some e => { s with tlb := s.tlb.erase e ++ [t] }
    | none => s

/-- Put a translation into the L2 TLB of a die and the L1 TLBs of the cores whose threads missed it (R247). -/
def fillTlbs (s : State) (die : Nat) (cores : List Nat) (t : Tlb) : State :=
  cores.foldl (fun s c => fillTlb s c 256 t) (fillTlb s (128 + die) 16384 t)

/-- Translate with a walk made on the spot, as an engine, the command processor or a host access does. -/
def translateNow (s : State) (ctx va : Nat) (kind : Kind) : Xlate :=
  if 2 ^ 57 ≤ va then .fault 5
  else match tlbFind s ctx va with
    | some t => throughLeaf s t ctx va kind
    | none => match walk s ctx va with
      | some t => throughLeaf s t ctx va kind
      | none => .fault 1

/-! The deep part of a reconvergence stack (R53). -/

/-- An entry as it is spilled (Table 04.1), little-endian. -/
def entryNum (e : Entry) : Nat :=
  e.mask.toNat + e.pc % 2 ^ 57 * 2 ^ 512 + (if e.join then 1 else 2) * 2 ^ 569 + e.fmt.toNat * 2 ^ 576

/-- Entries that a launch's save area holds for each of its groups: their places are parts of the area of equal size (log 62). -/
def spillRoom (l : Launch) : Nat := 1024 * l.savesz / (96 * max 1 (l.nblk * l.gpb))

/-- Where entry i of a group, the deepest being 0, is spilled: in the group's part of the save area, from a place on that a free value
names (log 62). -/
def spillAt (l : Launch) (g : Group) (i : Nat) : Nat :=
  l.save + 96 * ((g.blk * l.gpb + g.grp) * spillRoom l + (Config.spillPlace g.tid + i) % spillRoom l)

/-- Write 32 bytes of a spilled entry. -/
def spillPiece (ctx va x : Nat) (s : State) : State :=
  match translateNow s ctx va 1 with
  | .ok (.hbm pa) => if homeRead s pa 32 = x % 2 ^ 256 then s else homeWrite s pa 32 (x % 2 ^ 256)
  | _ => s

/-- Spill one entry, 96 bytes. -/
def spillEntry (ctx va x : Nat) (s : State) : State :=
  spillPiece ctx (va + 64) (x / 2 ^ 512) (spillPiece ctx (va + 32) (x / 2 ^ 256) (spillPiece ctx va x s))

/-- The entries below the 32 on chip lie in the save area of the thread's launch, as many as it has room for (R53; log 62). -/
def spillStack (s : State) (g : Group) : State :=
  let l := launchOf s g.launch
  ((g.stack.drop 32).reverse.take (spillRoom l)).zipIdx.foldl (fun s x => spillEntry g.ctx (spillAt l g x.2) (entryNum x.1) s) s

/-! Scratchpad addresses (Table 09.1). -/

/-- Where a scratchpad address leads for a thread: the low 28 bits are laid out as Table 09.1, the rest is `high`
(R185, R383): the code of SPAD_BOUND, or the place. -/
def spadPlace (s : State) (g : Group) (a high size : Nat) : Except Nat Loc :=
  let off := a % 2 ^ 22
  let gblk := a / 2 ^ 22 % 32
  if high ≠ 0 ∨ (a / 2 ^ 27 % 2 = 0 ∧ gblk ≠ 0) then .error 3
  else
    let block := if a / 2 ^ 27 % 2 = 0 then some g.block else (gangOf s g.gang).blocks[gblk]?
    match block with
    | none => .error 2
    | some b => if 2 ^ 17 * (blockOf s b).nbanks < off + max 1 size then .error 1 else .ok (.spad b off)

end Sys2Proof.Machine
end

