-- ==== Sys2Proof/Machine/Access.lean ====
section
/-! DEFINITION. The address checks of an instruction in the order of Table 24.1 (R383 to R385, R252, R402, R391), and the
accesses they admit: loads, stores and their results. -/
namespace Sys2Proof.Machine

/-- What an instruction's accesses are. -/
structure Form where
  kind  : Kind
  size  : Nat
  align : Nat          -- the multiple its addresses must be
  spad  : Bool         -- scratchpad addresses (`SLD`, `SST`)
  lanes : Bool         -- a lane instruction: MASK names its lanes
  deriving DecidableEq, Repr

/-- The outcome of the checks. -/
inductive Checked where
  | wait (s : State)
  | trap (r : Record)
  | ok (l : List (Nat × Nat × Loc))   -- lane, address, place

/-- Where the address of a lane leads: an XLATE or SPAD_BOUND outcome by cause and code, a miss, or a place. -/
inductive Place where
  | ok (loc : Loc)
  | miss
  | bad (cause code : Nat)
  deriving DecidableEq, Repr

/-- Resolve one address for a form. -/
def resolve (s : State) (g : Group) (f : Form) (va : Nat) : Place :=
  if f.spad ∨ inAperture va then
    match spadPlace s g (va % 2 ^ 28) (if f.spad then va / 2 ^ 28 else 0) f.size with
    | .ok l => .ok l
    | .error c => .bad 0x07 c
  else match translate s g.tid g.ctx va f.kind with
    | .ok l => .ok l
    | .miss => .miss
    | .fault c => .bad 0x09 c

/-- The index of a block in its gang (R284, R185). -/
def gangIndex (s : State) (block : Nat) : Nat :=
  let b := blockOf s block
  b.num % max 1 (launchOf s b.launch).bpg

/-- The access of `n` bytes at `a` meets the range of an entry (R252). Both are numbers of `normAddr`; entries of other contexts
and gangs name other bytes (log 15). -/
def meets (g : Group) (e : Section) (a n : Nat) : Bool :=
  e.core == g.core && (if e.spad then e.gang == g.gang else e.ctx == g.ctx) && decide (a ≤ e.hi) && decide (e.lo < a + n)

/-- A read byte of a destination range is free once its chunk is set in the record (R252). -/
def chunkFree (s : State) (e : Section) (a : Nat) : Bool :=
  match engineOf s e.op with
  | none => false
  | some op =>
    match tilePos op (gangIndex s op.block) a with
    | none => false
    | some p => (getT {} (blockOf s op.recBlk).recs op.recIdx).chunks.getLsbD (p / 512)

/-- The access touches the entry (R252). -/
def touches (s : State) (g : Group) (e : Section) (write : Bool) (a n : Nat) : Bool :=
  meets g e a n && (write || (e.dst && !(e.useRec && (List.range n).all fun i => !meets g e (a + i) 1 || chunkFree s e (a + i))))

/-- The lowest index of an entry that the access touches. -/
def touched (s : State) (g : Group) (f : Form) (va : Nat) : Option Nat :=
  let a := normAddr (gangIndex s g.block) (if f.spad then apBase + va % 2 ^ 28 else va)
  let hits := (s.sections.filter fun e => touches s g e (kindWrites f.kind) a f.size).map Section.index
  if f.size = 0 then none else (sortNat hits).head?

/-- Where a byte of a block's scratchpad lies (R237): OFFSET o is in the bank o / 128 mod B of the block's B banks, taken in ascending
order, at byte (o / (128 × B)) × 128 + o mod 128 of it. -/
def bankPlace (b : Block) (off : Nat) : Nat × Nat :=
  (b.banks.getD (off / 128 % max 1 b.nbanks) 0, off / (128 * max 1 b.nbanks) * 128 + off % 128)

/-- The key of the 128-byte row of a bank that holds a byte of a block's scratchpad. -/
def rowKey (b : Block) (off : Nat) : Nat := (b.clu * 64 + (bankPlace b off).1) * 2 ^ 32 + (bankPlace b off).2 / 128

/-- A line of this package is lost at its home: the code of the store, L2 or HBM (R391). -/
def lostHome (s : State) (line : Nat) : Option Nat :=
  if s.bad.contains (3, line) then some 3 else if s.bad.contains (5, line) then some 5 else none

/-- The data at a place is lost for a core (R391, Table 24.3): the code of the store. A clean cached line is fetched again and raises
nothing. Of a window, the block's payload and scale count. -/
def lostAt (s : State) (core : Nat) : Loc → Option Nat
  | .spad b off => if s.bad.contains (4, rowKey (blockOf s b) off) then some 4 else none
  | .hbm pa =>
    if s.bad.contains (2, cacheKey core (pa / 128)) ∧ (l1Line s core (pa / 128)).dirty ≠ 0 then some 2 else lostHome s (pa / 128)
  | .window w y =>
    let b := windowBlock s w y
    [b.2.1, b.2.1 + (if b.1 then 63 else 47), b.2.2].findSome? fun pa => lostHome s (pa / 128)
  | _ => none

/-- Data that an access reads is lost (R391). -/
def lostCode (s : State) (g : Group) (f : Form) (loc : Loc) : Option Nat :=
  if ¬ kindReads f.kind ∨ f.size = 0 then none else lostAt s g.core loc

/-- A clean line of a core's L1 is lost: it is to be fetched again (R391, Table 24.3). -/
def refetched (s : State) (core line : Nat) : Bool := s.bad.contains (2, cacheKey core line) && (l1Line s core line).dirty == 0

/-- The error of a line that is fetched again is counted for its die, and gone (R391). -/
def healLine (s : State) (core line : Nat) : State :=
  if refetched s core line then
    { s with bad := s.bad.filter (· != (2, cacheKey core line)), ecc := putT 0 s.ecc (dieOfCore core) (getT 0 s.ecc (dieOfCore core) + 1) }
  else s

/-- The package a place lies on, when it is a peer. -/
def peerPkg : Loc → Option Nat
  | .peer p _ => some p
  | _ => none

/-- The page of an address as a held translation or a walk of the tables gives it (Table 11.4); 64 KiB where there is no leaf. -/
def pageBase (s : State) (ctx va : Nat) : Nat := (((tlbFind s ctx va).or (walk s ctx va)).map Tlb.va).getD (pageOf va)

/-- The address that a record lists (R383): the page base for XLATE, or the address itself for bits [63:57]; the line for lost data of a
cache or of memory (Table 24.3). -/
def listed (s : State) (ctx cause code va : Nat) : Nat :=
  (if cause = 0x09 ∧ code ≠ 5 then pageBase s ctx va else if cause = 0x0E then va / 128 * 128 else va) % 2 ^ 57

/-- The record of one cause: MASK and the addresses of its lanes; of several codes, that of the lowest lane (R383). -/
def laneRecord (s : State) (ctx : Nat) (f : Form) (cause value : Nat) (l : List (Nat × Nat × Nat)) : Record :=
  { cause := cause, code := (l.head?.map fun x => x.2.2).getD 0, value := value
    mask := if f.lanes then maskOf (l.map fun x => x.1) else 0
    addrs := sortNat (l.map fun x => listed s ctx cause x.2.2 x.2.1) }

/-- An access to a window of 1 or 16 bytes (R254). -/
def badWindow (f : Form) (l : Loc) : Bool := match l with
  | .window _ _ => f.size == 1 || f.size == 16
  | _ => false

/-- The checks of R383 on the lanes given, ascending: (lane, address). `real` says that the places are then read or written, so that lost
data and a peer that cannot be asked count: a lock word is neither read nor written (R200). -/
def checkLanes (s : State) (g : Group) (f : Form) (real : Bool) (lanes : List (Nat × Nat)) : Checked :=
  let skew := lanes.filter fun x => x.2 % f.align != 0
  if skew ≠ [] then .trap (laneRecord s g.ctx f 0x0A 0 (skew.map fun x => (x.1, x.2, 1)))
  else
    let places := lanes.map fun x => (x.1, x.2, resolve s g f x.2)
    let misses := places.filterMap fun x => if x.2.2 = .miss then some x.2.1 else none
    if misses ≠ [] then .wait (startWalks s g misses)
    else
      let got := places.filterMap fun x => match x.2.2 with
        | .ok l => some (x.1, x.2.1, l)
        | _ => none
      let of (cause : Nat) : List (Nat × Nat × Nat) := places.filterMap fun x => match x.2.2 with
        | .bad c k => if c = cause then some (x.1, x.2.1, k) else none
        | _ => none
      let wins := (got.filter fun x => badWindow f x.2.2).map fun x => (x.1, x.2.1, 2)
      let locks := got.filterMap fun x => (touched s g f x.2.1).map fun i => (x.1, x.2.1, i)
      let lost := if real then got.filterMap fun x => (lostCode s g f x.2.2).map fun c => (x.1, x.2.1, c) else []
      let off := got.filterMap fun x => match peerPkg x.2.2 with
        | some p => if kindReads f.kind ∧ real ∧ unreachable s p ≠ 0 then some (x.1, x.2.1, p) else none
        | none => none
      if wins ≠ [] then .trap (laneRecord s g.ctx f 0x0A 0 wins)
      else if of 0x07 ≠ [] then .trap (laneRecord s g.ctx f 0x07 0 (of 0x07))
      else if of 0x09 ≠ [] then .trap (laneRecord s g.ctx f 0x09 f.kind (of 0x09))
      else match (sortNat (locks.map fun x => x.2.2)).head? with
        | some i => .trap (laneRecord s g.ctx f 0x08 i (locks.map fun x => (x.1, x.2.1, 0)))
        | none =>
          if lost ≠ [] then .trap (laneRecord s g.ctx f 0x0E 0 lost)
          else match off with
            | x :: _ =>
              .trap { laneRecord s g.ctx f 0x0F x.2.2 ((off.filter fun y => y.2.2 == x.2.2).map fun y => (y.1, y.2.1, unreachable s x.2.2)) with
                        value := x.2.2 }
            | [] => if got.any (fun x => (peerPkg x.2.2).isSome) ∧ real ∧ ¬ fabricUp s then .wait s else .ok got

/-- The checks of an access. -/
def checkAccess (s : State) (g : Group) (f : Form) (lanes : List (Nat × Nat)) : Checked := checkLanes s g f true lanes

/-- Go on with an instruction whose accesses are checked. -/
def withAccess (s : State) (f : Form) (lanes : List (Nat × Nat)) (k : List (Nat × Nat × Loc) → Out) : Out :=
  match checkAccess s s.g f lanes with
  | .wait s' => .next s'
  | .trap r => takeTrap s r
  | .ok l => k l

/-! Overlap with the thread's own accesses that are still to be performed (R187). -/

/-- Byte ranges of two places meet. -/
def overlap (a : Loc) (m : Nat) (b : Loc) (n : Nat) : Bool :=
  let meet (x y : Nat) : Bool := decide (x < y + n) && decide (y < x + m)
  match a, b with
  | .spad i x, .spad j y => i == j && meet x y
  | .hbm x, .hbm y => meet x y
  | .csr i _, .csr j _ => i == j
  | .peer i x, .peer j y => i == j && meet x y
  | .window i x, .window j y => i == j && x / 128 == y / 128
  | .mcast i x, .mcast j y => i == j && meet x y
  | _, _ => false

/-- A flight of the thread still has to perform an access to one of the places, or a flag of it is still to be written there (R145). -/
def stillOpen (s : State) (tid size : Nat) (l : List (Nat × Nat × Loc)) : Bool :=
  (s.flights.any fun f => f.tid == tid &&
    (f.reqs.any (fun r => !r.done && l.any fun x => overlap r.loc r.size x.2.2 size)
      || f.atoms.any fun a => !a.done && l.any fun x => overlap a.loc a.size x.2.2 size))
  || s.flagWrites.any fun w => w.tid == tid && l.any fun x => overlap w.loc 8 x.2.2 size

/-- A store that the thread's window holds is to one of the places (R65). -/
def overHeld (s : State) (tid size : Nat) (l : List (Nat × Nat × Loc)) : Bool :=
  (windowOf s tid).any fun w => (w.buffer ++ w.todo).any fun e => e.store.any fun h =>
    h.lanes.any fun y => l.any fun x => overlap y.2.2.1 h.size x.2.2 size

/-- A message of a core's thread that its queue-lock unit has not accepted yet. -/
def lockSent (s : State) (core : Nat) : LockMsg → Bool
  | .request _ tid => (thread? s tid).any fun g => g.core == core
  | .unlock _ _ r => r.core + (if r.mcc then 96 else 0) == core
  | _ => false

/-- Slots of a core's load/store queue in use (R42, Table 03.4): those of loads, stores and atomics that are not performed, of `LOCK`s and
`UNLOCK`s on their way, and of `WAITM`s that a peer has not answered. DESIGN CHOICE (log 60): a slot returns when the request is
performed or, at a queue-lock unit, received. -/
def slotsUsed (s : State) (core : Nat) : Nat :=
  (s.flights.filter fun f => f.core == core && (f.reqs.any (fun r => !r.done) || f.atoms.any fun a => !a.done)).length
    + (s.lockMsgs.filter (lockSent s core)).length
    + (s.monitors.filter fun m => m.core == core && !m.armed).length

/-- The load/store queue has room for the requests of an instruction (Table 03.4). -/
def queueRoom (s : State) (core : Nat) : Bool := decide (slotsUsed s core < 128)

/-- Every load and atomic of the thread has its value, so that a write, a release or an engine's issue that follows cannot act on what
an earlier load is still to read (A3, A4 of R263). -/
def readsDone (s : State) (tid : Nat) : Bool :=
  !(s.flights.any fun f => f.tid == tid && (f.reqs.any (fun r => !r.done && r.kind != .store) || f.atoms.any fun a => !a.done))

/-! Loads. -/

/-- The bytes of a register of control space (R357). -/
def csrBytes (s : State) (num byte size : Nat) : Nat := csrRead s num / 2 ^ (8 * byte) % 2 ^ (8 * size)

/-- The value a load has at issue when nothing has to be fetched: an L1 hit, or a hit of a peer's line in the RDC share (R239). A bank is
read lane by lane (R238, R15). -/
def valueNow (s : State) (core size : Nat) (home : Bool) (loc : Loc) : Option Nat :=
  match loc with
  | .hbm pa =>
    let l := l1Line s core (pa / 128)
    if ¬ home ∧ ¬ refetched s core (pa / 128) ∧ lineHas l (pa % 128) size then some (lineRead l (pa % 128) size) else none
  | .peer p off =>
    let l := l1Line s core (lineKey (.peer p off))
    let share := rdcLine s core (lineKey (.peer p off))
    if home ∨ refetched s core (lineKey (.peer p off)) then none
    else if lineHas l (off % 128) size then some (lineRead l (off % 128) size)
    else if lineHas share (off % 128) size then some (lineRead share (off % 128) size)
    else none
  | _ => none

/-- How a load that is not satisfied at issue is performed. -/
def loadKind (home : Bool) : Loc → ReqKind
  | .window _ _ => .windowLd
  | .csr _ _ => .home
  | .spad _ _ => .home
  | _ => if home then .home else .fill

/-- A peer's line that a core's load has asked for, to be cached; `only` restricts it to the RDC share (R194). The number 0 in `op`
says that no engine and no monitor waits for it. -/
def lineAsked (core : Nat) (k : Kept) : Bool := k.packet.kind == 0x01 && k.core == core && k.op == 0

/-! Miss entries (R245, Table 11.3). What a load waits for holds them from one step to the next; every other access takes its line in the
step in which it is performed, and does so only when the entries that a miss needs are free (log 60). -/

/-- The distinct lines that loads wait for, oldest first, with the cores that wait. -/
def missLines (s : State) : List (Nat × Nat) :=
  (s.flights.flatMap fun f => (f.reqs.filter fun r => !r.done && r.kind == .fill).map fun r => (f.core, lineKey r.loc)).eraseDups

/-- The distinct lines of this package that loads wait for and whose home slice satisfies `p`. -/
def missesAt (s : State) (p : Nat → Bool) : List Nat :=
  (((missLines s).filter fun x => x.2 < 2 ^ 58 && p (homeSlice (x.2 * 128))).map fun x => x.2).eraseDups

/-- A line has miss entries: it is among the first 512 that its core waits for and, where they pass its RDC share, among the first 64, and,
in this package's memory, among the first 256 of its slice and the first 8,192 of its die. -/
def hasEntry (s : State) (core line : Nat) : Bool :=
  let mine := (missLines s).filter fun x => x.1 == core
  let slice := homeSlice (line * 128)
  (mine.take 512).contains (core, line)
    && (!remoteLine core line || ((mine.filter fun x => remoteLine core x.2).take 64).contains (core, line))
    && (decide (2 ^ 58 ≤ line) || (((missesAt s fun n => n == slice).take 256).contains line
      && ((missesAt s fun n => n / 32 == slice / 32).take 8192).contains line))

/-- A core has at most 64 misses in its RDC share under way: lines of peers that it has asked for, and lines of other dies that its loads
wait for. -/
def rdcMissRoom (s : State) (core : Nat) : Bool :=
  decide ((s.kept.filter (lineAsked core)).length
    + ((missLines s).filter fun x => x.1 == core && x.2 < 2 ^ 58 && remoteLine core x.2).length < 64)

/-- A home slice has an L2 miss entry for a line that no way of it holds. -/
def l2MissRoom (s : State) (line : Nat) : Bool :=
  let slice := homeSlice (line * 128)
  getT 0 s.l2 line != 0 || (missesAt s fun n => n == slice).contains line
    || (decide ((missesAt s fun n => n == slice).length < 256) && decide ((missesAt s fun n => n / 32 == slice / 32).length < 8192))

/-- The lines of a physical byte range. -/
def linesAt (pa n : Nat) : List Nat := if n = 0 then [] else (List.range ((pa + n - 1) / 128 - pa / 128 + 1)).map (pa / 128 + ·)

/-- The lines of this package's memory that an access at a place reaches, those of a window's block among them. -/
def placeLines (s : State) : Loc → List Nat
  | .hbm pa => [pa / 128]
  | .window w y => let (t8, pay, scl) := windowBlock s w y; linesAt pay (if t8 then 64 else 48) ++ [scl / 128]
  | _ => []

/-- The lines of a place enter L2 for a context (R244). -/
def enterL2 (s : State) (ctx : Nat) (loc : Loc) : State := (placeLines s loc).foldl (fun s l => fillL2 s (some ctx) l) s

/-- A place that an access reaches at its home finds its miss entries there. -/
def homeRoom (s : State) (loc : Loc) : Bool := (placeLines s loc).all (l2MissRoom s)

/-- A core's access to a line of this package finds every miss entry that it needs, or the line is in its L1. -/
def missRoom (s : State) (core line : Nat) : Bool :=
  (l1Line s core line).valid == BitVec.allOnes 128 || (missLines s).contains (core, line)
    || (decide (((missLines s).filter fun x => x.1 == core).length < 512) && (!remoteLine core line || rdcMissRoom s core) && l2MissRoom s line)

/-- Ask a peer for a line (R302). A miss that finds no entry is asked for later (`LINE_FILL`). -/
def askPeer (s : State) (g : Group) (va : Nat) (loc : Loc) : State :=
  match loc with
  | .peer p off => if rdcMissRoom s g.core then sendLine s (packet 0x01 p g.ctx (off / 128 * 128)) g.core g.tid va false else s
  | _ => s

/-- Peers' lines that the RDC share holds enter L1 with the loads that hit there (R239). -/
def liftShares (s : State) (core : Nat) (home : Bool) (l : List (Nat × Nat × Loc)) : State :=
  l.foldl (fun s x =>
    let key := lineKey x.2.2
    if (peerPkg x.2.2).isSome ∧ ¬ home ∧ (l1Line s core key).valid = 0 ∧ (rdcLine s core key).valid = BitVec.allOnes 128 ∧ l1Room s core 1 then
      fillLine (makeRoomL1 s core key) core key (rdcLine s core key).data.toNat
    else s) s

/-- A load over lanes, with the flight that carries it. An acquire form reads at the home, as the bypass policy does. -/
def makeLoad (s : State) (g : Group) (dest : Dest) (signed : Bool) (pol : Policy) (acq : Bool) (size : Nat) (rows : BitVec 16)
    (l : List (Nat × Nat × Loc)) : State × Flight :=
  let home := pol == .bypass
  let (id, s) := fresh s
  let now := l.filterMap fun x => (valueNow s g.core size home x.2.2).map fun v => (x.1, v)
  let later := l.filter fun x => (valueNow s g.core size home x.2.2).isNone
  let reqs := later.map fun x => (⟨x.1, x.2.2, size, loadKind home x.2.2, 0, false, x.2.1⟩ : Req)
  let f : Flight := { id := id, tid := g.tid, core := g.core, dest := dest, signed := signed, acq := acq, lanes := now, reqs := reqs
                      atoms := [], rows := rows, flags := 0, spec := (windowOf s g.tid).isSome, low := pol == .stream }
  let asks := later.foldl (fun (acc : State × List Nat) x =>
    let k := lineKey x.2.2
    if acc.2.contains k then acc else (askPeer acc.1 g x.2.1 x.2.2, k :: acc.2)) (s, [])
  ({ asks.1 with flights := asks.1.flights ++ [f] }, f)

/-- Some lane's request goes to a peer, so that its reply may bring a fault (R383). -/
def asksPeer (f : Flight) : Bool :=
  f.reqs.any (fun r => (peerPkg r.loc).isSome) || f.atoms.any fun a => (peerPkg a.loc).isSome && !a.done

/-- Mark a destination empty in full (R35). A row in which no lane is written is full again at once. -/
def emptyDest (g : Group) (dest : Dest) (rows : BitVec 16) : Group :=
  match dest with
  | .scalar d => setKEmpty g d true
  | .vector p => setRows g p rows true
  | _ => g

/-- The thread goes on after a request: its destination is empty, and an acquire form waits for its rows (R193). -/
def goOn (g : Group) (f : Flight) : Group :=
  let g := advance (emptyDest g f.dest f.rows)
  if f.acq then { g with wait := .acquire f.id } else g

/-- Count the instruction in its window, and let the thread go on, or wait for a peer's replies (R383). -/
def afterRequest (s : State) (f : Flight) : State :=
  if asksPeer f then { s with g := { s.g with wait := .peer f.id } } else countIssue { s with g := goOn s.g f }

/-! Stores. -/

/-- Report a posted store that cannot be delivered (R402): the packet is discarded. -/
def lostStore (s : State) (g : Group) (p lane va : Nat) : State :=
  asyncFault s g.core
    { recordOf g { cause := 0x0F, code := unreachable s p, value := p, mask := maskOf [lane], addrs := [va % 2 ^ 57] } with tid := g.tid }

/-- Bytes of a line that a write touches (Table 14.1). -/
def byteMask (off n : Nat) : BitVec 128 := BitVec.ofNat 128 ((2 ^ n - 1) * 2 ^ (off % 128))

/-- A posted store to a peer (R241). -/
def postStore (s : State) (g : Group) (p off lane va n x : Nat) (flag : Bool) : State :=
  let s := updateCopies s g.core (.peer p off) n x
  let s := uncacheAsked s fun k => k.core == g.core && k.packet.dst == p && k.packet.offset == off / 128 * 128
  if unreachable s p ≠ 0 then lostStore s g p lane va
  else
    let pk := { packet 0x03 p g.ctx (off / 128 * 128) with len := 2, mask := byteMask off n, data := x % 2 ^ (8 * n) * 2 ^ (8 * (off % 128)) }
    sendOn s pk (linePlane off p) ⟨pk, g.core, g.tid, va, flag, 0, lane⟩

/-- A multicast store (R305), on plane g mod 18. -/
def multicast (s : State) (g : Group) (grp off lane va n x : Nat) : State :=
  let p := { packet 0x0A grp g.ctx (off / 128 * 128) with len := 2, mask := byteMask off n, data := x % 2 ^ (8 * n) * 2 ^ (8 * (off % 128)) }
  sendOn s p (grp % 18) ⟨p, g.core, g.tid, va, false, 0, lane⟩

/-- Write bytes of a block's scratchpad at its banks (R238). -/
def writeSpad (s : State) (block off n x : Nat) : State :=
  updBlock s block fun b => { b with spad := writeN b.spad off n x }

/-- A store to control space: a notify register takes effect once the core is released (R274, R357); no other register is written
by a store (R358). -/
def storeCsr (s : State) (core num byte size x : Nat) : State :=
  if csrAccess num = .wo ∧ 0x1000000 ≤ num ∧ byte = 0 ∧ 4 ≤ size then
    { s with notifies := s.notifies ++ [((num - 0x1000000) / 8192, x % 2 ^ 32, core)] }
  else s

/-- One lane's store of the normal or stream policy. -/
def storeOne (s : State) (g : Group) (pol : Policy) (size : Nat) (lane va : Nat) (loc : Loc) (x : Nat) : State :=
  match loc with
  | .spad b off => writeSpad s b off size x
  | .hbm pa => storeOwned s g.core (some g.ctx) (pol == .stream) pa size x
  | .csr num byte => storeCsr s g.core num byte size x
  | .peer p off => postStore s g p off lane va size x false
  | .window _ _ => s
  | .mcast grp off => multicast s g grp off lane va size x

/-- A store that is performed at the home: a bypass store to this package, or any store through a window (R243, R254). -/
def atHome (pol : Policy) : Loc → Bool
  | .hbm _ => pol == .bypass
  | .window _ _ => true
  | _ => false

/-- The requests of a store that are performed at the home. -/
def homeReqs (pol : Policy) (size : Nat) (l : List (Nat × Nat × Loc × Nat)) : List Req :=
  (l.filter fun x => atHome pol x.2.2.1).map fun x =>
    ⟨x.1, x.2.2.1, size, match x.2.2.1 with | .window _ _ => .windowSt | _ => .store, x.2.2.2, false, x.2.1⟩

/-- The flight that carries stores to their home. -/
def sendStores (s : State) (g : Group) (reqs : List Req) : State :=
  if reqs = [] then s
  else
    let (id, s) := fresh s
    { s with flights := s.flights ++ [{ id := id, tid := g.tid, core := g.core, dest := .none, signed := false, acq := false, lanes := []
                                        reqs := reqs, atoms := [], rows := 0, flags := 0, spec := false }] }

/-- The stores of one instruction that are performed where they issue, in ascending lane order. -/
def storeHere (s : State) (g : Group) (pol : Policy) (size : Nat) (l : List (Nat × Nat × Loc × Nat)) : State :=
  l.foldl (fun s x => if atHome pol x.2.2.1 then s else storeOne s g pol size x.1 x.2.1 x.2.2.1 x.2.2.2) s

/-- The stores of one instruction in ascending lane order (R187): (lane, address, place, value); the lane of a scalar store is `noLane`. -/
def makeStore (s : State) (g : Group) (pol : Policy) (size : Nat) (l : List (Nat × Nat × Loc × Nat)) : State :=
  sendStores (storeHere s g pol size l) g (homeReqs pol size l)

/-- A core's stores to this package have registered, and what it sent to a package has been acknowledged (R143, R145, R146). DESIGN CHOICE
(log 61): a multicast store is no store to the package, although one of its perform events lies there; the spec does not say. -/
def settledAt (s : State) (core : Nat) (pkg : Option Nat) : Bool :=
  match pkg with
  | none => released s core
  | some p => !(s.kept.any fun k => k.core == core && k.packet.dst == p && k.packet.kind != 0x0A)
      && !(s.flights.any fun f => f.core == core && f.atoms.any fun a => !a.done && peerPkg a.loc == some p)

end Sys2Proof.Machine
end

