-- ==== Sys2Proof/Machine/Home.lean ====
section
/-! DEFINITION. Reads and writes performed at the place itself: memory at its home slice (R243), a bank (R238), a control
register (R357), a block behind a BF16 window (R254). -/
namespace Sys2Proof.Machine

/-- The element codes of a block's payload as a little-endian number (R78). -/
def blockCodes (t8 : Bool) (payload : Nat) : List Nat :=
  (List.range 64).map fun i => if t8 then payload / 2 ^ (8 * i) % 2 ^ 8 else payload / 2 ^ (6 * i) % 2 ^ 6

/-- The payload of a block from its element codes (R78). -/
def blockPayload (t8 : Bool) (codes : List Nat) : Nat :=
  codes.foldr (fun c acc => if t8 then c % 2 ^ 8 + acc * 2 ^ 8 else c % 2 ^ 6 + acc * 2 ^ 6) 0

/-- The 64 element values behind byte y of a window. -/
def windowValues (s : State) (w y : Nat) : List FVal :=
  let (t8, pay, scl) := windowBlock s w y
  let scale := homeRead s scl 1
  (blockCodes t8 (homeRead s pay (if t8 then 64 else 48))).map (blockElem t8 scale)

/-- A load of n bytes through a window (R254, R80): each element rounded into BF16. -/
def windowRead (s : State) (w y n : Nat) : Nat :=
  let xs := windowValues s w y
  (List.range (n / 2)).foldl (fun acc j =>
    acc + (toBinary fmtB 0 (xs.getD ((y / 2 + j) % 64) (.fin false 0 0))).1 * 2 ^ (16 * j)) 0

/-- A store of n bytes through a window (R254): the whole block is encoded again; no flag. -/
def windowWrite (s : State) (w y n x : Nat) : State :=
  let (t8, pay, scl) := windowBlock s w y
  let put (xs : List FVal) (j : Nat) : List FVal := xs.set ((y / 2 + j) % 64) (unpack fmtB (x / 2 ^ (16 * j) % 2 ^ 16))
  let r := encodeBlock t8 ((List.range (n / 2)).foldl put (windowValues s w y))
  homeWrite (homeWrite s pay (if t8 then 64 else 48) (blockPayload t8 r.2.1)) scl 1 r.1

/-- A read performed at the place. -/
def placeRead (s : State) (loc : Loc) (n : Nat) : Nat :=
  match loc with
  | .hbm pa => homeRead s pa n
  | .spad b off => readN (blockOf s b).spad off n
  | .csr num byte => csrBytes s num byte n
  | .window w y => windowRead s w y n
  | _ => 0

/-- A write performed at the place. -/
def placeWrite (s : State) (core : Nat) (loc : Loc) (n x : Nat) : State :=
  match loc with
  | .hbm pa => homeWrite s pa n x
  | .spad b off => writeSpad s b off n x
  | .csr num byte => storeCsr s core num byte n x
  | .window w y => windowWrite s w y n x
  | _ => s

/-- Write the flags of `FENCE.FLAG` whose earlier stores are performed (R145): at a peer as a posted store, else at the home, where the
issuing core's copies take the bytes as those of a bypass store do (R243). Everything that the core issued to its own package is
registered before any flag (R261). -/
def settleFlags (s : State) : State :=
  let go (s : State) (w : FlagWrite) : State :=
    let g : Group := (thread? s w.tid).getD { core := w.core, tid := w.tid, ctx := w.ctx }
    match w.loc with
    | .peer p off => postStore s g p off noLane w.va 8 w.val.toNat true
    | .mcast grp off => multicast s g grp off noLane w.va 8 w.val.toNat
    | .hbm pa => updateCopies (homeWrite (enterL2 s w.ctx w.loc) pa 8 w.val.toNat) w.core (.hbm pa) 8 w.val.toNat
    | loc => placeWrite s w.core loc 8 w.val.toNat
  let ready (w : FlagWrite) : Bool := settledAt s w.core (peerPkg w.loc) && released s w.core
  (s.flagWrites.filter ready).foldl go { s with flagWrites := s.flagWrites.filter fun w => !ready w }

/-- The core's own copies of the words of a byte range that it does not own are dropped, so that a later load finds no value older than
the one read or written at the home (R187, A1 of R263). -/
def dropCopies (s : State) (core : Nat) (loc : Loc) (n : Nat) : State :=
  match loc with
  | .hbm pa => (wordsOf pa n).foldl (fun s w => if ownerOf s w = core + 1 then s else dropWord s core w) s
  | .peer _ off => (wordsOf (lineKey loc * 128 + off % 128) n).foldl (fun s w => dropWord s core w) s
  | _ => s

/-! Accesses of the part's own units at physical addresses: the Signal Box's, and those of a partner (R313, R315, R317). -/

/-- A unit's access to a physical address brings its lines into the common ways of L2 (R244). -/
def physTouch (s : State) (pa n : Nat) : State := if isHbm pa then (linesAt pa n).foldl (fun s l => fillL2 s none l) s else s

/-- A unit's read of a physical address; where no memory is, nothing is read, and the value is 0 (R355; log 61). -/
def physRead (s : State) (pa n : Nat) : Nat := if isHbm pa then homeRead s pa n else 0

/-- A unit's write of a physical address; where no memory is, nothing is written (R355; log 61). -/
def physWrite (s : State) (pa n x : Nat) : State := if isHbm pa then homeWrite (physTouch s pa n) pa n x else s

end Sys2Proof.Machine
end

