-- ==== Sys2Proof/Machine/MemInstr.lean ====
section
/-! DEFINITION. Loads, stores and prefetches (majors 0x40 to 0x50, R189 to R194). -/
namespace Sys2Proof.Machine

/-- The policy that a cp field names (Table 11.2). -/
def policyOf (cp : Fin 4) : Policy := if cp = 1 then .bypass else if cp = 2 then .stream else .normal

/-- A load whose accesses are checked (R190 to R193). It waits while one of the thread's own accesses to the same bytes is
still to be performed (R187), and for a slot of the queue (R42). In a speculation window, one to bytes of a store that the window holds
ends it: it issues once the store has been performed, as it would without the window (R67, R187). -/
def doLoad (s : State) (dest : Dest) (signed : Bool) (pol : Policy) (acq : Bool) (size : Nat) (l : List (Nat × Nat × Loc)) : Out :=
  if l = [] then (if acq then (if s.flights.any fun f => f.tid == s.g.tid then stall s else finish (acquire s s.g.core) s.g) else finish s s.g)
  else if overHeld s s.g.tid size l then endWindow s
  else if stillOpen s s.g.tid size l ∨ ¬ queueRoom s s.g.core then stall s
  else
    let rows : BitVec 16 := match dest with
      | .vector _ => rowsOf (l.map fun x => x.1)
      | _ => 1
    let r := makeLoad (liftShares s s.g.core (pol == .bypass) l) s.g dest signed pol acq size rows l
    .next (afterRequest r.1 r.2)

/-- The lines of this package that a store brings into its core's L1 find room there, and the miss entries that they need (R240, R245). -/
def linesFit (s : State) (core : Nat) (l : List (Nat × Nat × Loc)) : Bool :=
  let lines := sortNat (l.filterMap fun x => match x.2.2 with | .hbm pa => some (pa / 128) | _ => none)
  l1Room s core lines.length && lines.all (missRoom s core)

/-- A store whose accesses are checked waits while one of the thread's own accesses to the same bytes is still to be performed (R187), while
an earlier load has no value (A4 of R263), and for a slot of the queue and its lines (R42, R240). -/
def storeWaits (s : State) (pol : Policy) (size : Nat) (l : List (Nat × Nat × Loc)) : Bool :=
  stillOpen s s.g.tid size l || !readsDone s s.g.tid || !queueRoom s s.g.core || !(pol == .bypass || linesFit s s.g.core l)

/-- The window of the current thread holds a store (R65). -/
def holdStore (s : State) (h : HeldStore) : State :=
  { s with windows := mapIf (fun w => w.saved.tid == s.g.tid) (fun w => { w with held := some h }) s.windows }

/-- The kept window of the current thread has replayed everything (R66 steps 4 and 5): its stores are performed in program order, each with
its lanes in ascending order and each as soon as it may, and then the group goes on. -/
def settleStores (s : State) (w : Window) (r : Mask) : State :=
  match heldStores w with
  | [] => commitWindow s w r
  | h :: _ =>
    if storeWaits s h.policy h.size (h.lanes.map fun x => (x.1, x.2.1, x.2.2.1)) then s
    else makeStore { s with windows := mapIf (fun x => x.saved.tid == w.saved.tid) dropHeld s.windows } s.g h.policy h.size h.lanes

/-- A store whose accesses are checked. In a speculation window it is held (R65). The thread stands at the next word before the bytes
go out, so that a stop that a lost posted store brings about (R402) finds it there. -/
def doStore (s : State) (pol : Policy) (size : Nat) (l : List (Nat × Nat × Loc)) (val : Nat → Nat) : Out :=
  if (windowOf s s.g.tid).isSome then finish (holdStore s ⟨pol, size, l.map fun x => (x.1, x.2.1, x.2.2, val x.1)⟩) s.g
  else if storeWaits s pol size l then stall s
  else
    let l := l.map fun x => (x.1, x.2.1, x.2.2, val x.1)
    .next (makeStore (countIssue { s with g := advance s.g }) s.g pol size l)

/-- Sources of the address of a format-M word: k, then x when m = 0 (R96, R366). -/
def addrSrcs (k x : Fin 64) (et m : Bool) : List Src := .k k et :: (if m then [] else [.v x et])

/-- Vector fields of a format-M word, t then x (R367). -/
def addrFields (t : List (Fin 64)) (x : Fin 64) (m : Bool) : List (Fin 64) := t ++ (if m then [] else [x])

/-- Addresses of the active lanes of a format-M word (R98). -/
def laneAddrs (g : Group) (act : Mask) (k x : Fin 64) (m : Bool) (size : Nat) : List (Nat × Nat) :=
  (lanesOf g act).map fun i => (i, laneAddr g k x m size i)

/-- An aperture address with a cache policy (R185, R378). -/
def badPolicy (cp : Fin 4) (l : List (Nat × Nat)) : Bool := cp != 0 && l.any fun x => inAperture x.2

/-- `VLD` (R190). -/
def vload (s : State) (i : Instr) (o : M) (size : Nat) : Out :=
  let act := activeMask s.g o.q
  issue s i <| withOperands s { bounds := addrFields [o.t] o.x o.m, preds := [o.q], srcs := addrSrcs o.k o.x o.et o.m, act := act, dstAll := [o.t] } <|
    let l := laneAddrs s.g act o.k o.x o.m size
    if badPolicy o.cp l then opValue s i o.k
    else withAccess s ⟨0, size, size, false, true⟩ l fun l => doLoad s (.vector (physReg s.g o.t)) false (policyOf o.cp) false size l

/-- `VST` (R190). -/
def vstore (s : State) (i : Instr) (o : M) (size : Nat) : Out :=
  let act := activeMask s.g o.q
  issue s i <| withOperands s { bounds := addrFields [o.t] o.x o.m, preds := [o.q], srcs := addrSrcs o.k o.x o.et o.m ++ [.v o.t o.et], act := act } <|
    let l := laneAddrs s.g act o.k o.x o.m size
    if badPolicy o.cp l then opValue s i o.k
    else withAccess s ⟨1, size, size, false, true⟩ l fun l => doStore s (policyOf o.cp) size l fun i => (readV s.g o.t i).toNat

def execVldD (o : M) (s : State) : Out := vload s (.vldD o) o 8
def execVldW (o : M) (s : State) : Out := vload s (.vldW o) o 4
def execVldH (o : M) (s : State) : Out := vload s (.vldH o) o 2
def execVldB (o : M) (s : State) : Out := vload s (.vldB o) o 1
def execVstD (o : M) (s : State) : Out := vstore s (.vstD o) o 8
def execVstW (o : M) (s : State) : Out := vstore s (.vstW o) o 4
def execVstH (o : M) (s : State) : Out := vstore s (.vstH o) o 2
def execVstB (o : M) (s : State) : Out := vstore s (.vstB o) o 1

/-- Size of an `SLD` or `SST` by its cp field (Table 06.3): 8, 4, 2 or 1 bytes. -/
def spadBytes (cp : Fin 4) : Nat := 8 / 2 ^ cp.val

/-- `SLD` (R191): scratchpad addresses. -/
def execSld (o : M) (s : State) : Out :=
  let act := activeMask s.g o.q
  let size := spadBytes o.cp
  issue s (.sld o) <| withOperands s { bounds := addrFields [o.t] o.x o.m, preds := [o.q], srcs := addrSrcs o.k o.x o.et o.m, act := act, dstAll := [o.t] } <|
    withAccess s ⟨0, size, size, true, true⟩ (laneAddrs s.g act o.k o.x o.m size) fun l =>
      doLoad s (.vector (physReg s.g o.t)) false .normal false size l

/-- `SST` (R191). -/
def execSst (o : M) (s : State) : Out :=
  let act := activeMask s.g o.q
  let size := spadBytes o.cp
  issue s (.sst o) <| withOperands s { bounds := addrFields [o.t] o.x o.m, preds := [o.q], srcs := addrSrcs o.k o.x o.et o.m ++ [.v o.t o.et], act := act } <|
    withAccess s ⟨1, size, size, true, true⟩ (laneAddrs s.g act o.k o.x o.m size) fun l =>
      doStore s .normal size l fun i => (readV s.g o.t i).toNat

/-- The address that lane i of a `PREF` names (R194). -/
def prefAddr (g : Group) (o : M0) (i : Nat) : Nat :=
  if o.m then wrap64 ((readK g o.k).toNat + 128 * (immM g o.x + i))
  else wrap64 ((readK g o.k).toNat + (readV g o.x i).toNat)

/-- A line that a prefetch has asked a peer for: level 0 is to fill L1 and the RDC share, level 1 the RDC share alone (R194). The thread
number 0 says that no load waits for it. -/
def askNear (s : State) (g : Group) (level pkg off : Nat) : State :=
  let p := packet 0x01 pkg g.ctx (off / 128 * 128)
  if ¬ fabricUp s ∨ unreachable s pkg ≠ 0 ∨ ¬ rdcMissRoom s g.core
      ∨ s.kept.any (fun k => lineAsked g.core k && k.packet.dst == pkg && k.packet.offset == p.offset && !k.flag) then s
  else sendLine s p g.core 0 level false

/-- The line of a place is brought near (R194): level 0 fills L1 and the RDC share, level 1 the RDC share or, for a line homed on the core's
own die, the home L2. A prefetch that finds every miss entry in use, or a peer that cannot be reached, brings nothing. -/
def bringNear (s : State) (g : Group) (level : Nat) (loc : Loc) : State :=
  match loc with
  | .hbm pa =>
    let line := pa / 128
    if ¬ missRoom s g.core line then s
    else if level = 0 then (if l1Room s g.core 1 then bringLine s g.core (some g.ctx) line else s)
    else if ¬ remoteLine g.core line then fillL2 s (some g.ctx) line
    else if (rdcLine s g.core line).valid ≠ BitVec.allOnes 128 then
      let s := recallLine (fillL2 s (some g.ctx) line) line
      fillRdc s g.core line (readN s.mem (line * 128) 128)
    else s
  | .peer p off =>
    let key := lineKey (.peer p off)
    if (rdcLine s g.core key).valid = BitVec.allOnes 128 then (if level = 0 then liftShares s g.core false [(0, 0, loc)] else s)
    else askNear s g level p off
  | _ => s

/-- `PREF` (R194): a lane with any address problem is dropped; in a speculation window such a lane ends the window (Table 04.5). -/
def execPref (o : M0) (s : State) : Out :=
  let act := activeMask s.g o.q
  issue s (.pref o) <| withOperands s { bounds := addrFields [] o.x o.m, preds := [o.q], srcs := addrSrcs o.k o.x o.et o.m, act := act } <|
    let vas := ((lanesOf s.g act).map (prefAddr s.g o)).filter fun a => !inAperture a
    let misses := vas.filter fun a => translate s s.g.tid s.g.ctx a 0 == .miss
    if misses ≠ [] then .next (startWalks s s.g misses)
    else
      let ok := vas.filter fun a => !s.sections.any fun e => meets s.g e a 1
      let locs := ok.filterMap fun a => match translate s s.g.tid s.g.ctx a 0 with
        | .ok l => some l
        | _ => none
      if (windowOf s s.g.tid).any (fun w => w.resolved.isNone) ∧ locs.length < vas.length then endWindow s else
      let s := locs.foldl (fun s l => bringNear s s.g o.cp.val l) s
      finish (forgetWalks s fun g => g.tid == s.g.tid) s.g

/-- The address of an `LDK` or `STK` (R192). -/
def scalarAddr (g : Group) (a : Fin 64) (imm : BitVec 13) : Nat := (readK g a + immS g imm).toNat

/-- `LDK.d`, `LDK.w` (R192). -/
def scalarLoad (s : State) (i : Instr) (o : SI) (size : Nat) (signed : Bool) : Out :=
  issue s i <| withOperands s { srcs := [.k o.a false], dstK := [o.d] } <|
    withAccess s ⟨0, size, size, false, false⟩ [(0, scalarAddr s.g o.a o.imm)] fun l => doLoad s (.scalar o.d) signed .normal false size l

/-- A scalar's access as that of a store: no lane is concerned (R383). -/
def scalarPlaces (l : List (Nat × Nat × Loc)) : List (Nat × Nat × Loc) := l.map fun x => (noLane, x.2)

/-- `STK.d`, `STK.w` (R192). -/
def scalarStore (s : State) (i : Instr) (o : SI) (size : Nat) : Out :=
  issue s i <| withOperands s { srcs := [.k o.a false, .k o.d false] } <|
    withAccess s ⟨1, size, size, false, false⟩ [(0, scalarAddr s.g o.a o.imm)] fun l =>
      doStore s .normal size (scalarPlaces l) fun _ => (readK s.g o.d).toNat

def execLdkD (o : SI) (s : State) : Out := scalarLoad s (.ldkD o) o 8 false
def execLdkW (o : SI) (s : State) : Out := scalarLoad s (.ldkW o) o 4 true
def execStkD (o : SI) (s : State) : Out := scalarStore s (.stkD o) o 8
def execStkW (o : SI) (s : State) : Out := scalarStore s (.stkW o) o 4

/-- `LDK.ACQ` (R193). -/
def execLdkAcq (d a : Fin 64) (s : State) : Out :=
  issue s (.ldkAcq d a) <| withOperands s { srcs := [.k a false], dstK := [d] } <|
    withAccess s ⟨0, 8, 8, false, false⟩ [(0, (readK s.g a).toNat)] fun l => doLoad s (.scalar d) false .bypass true 8 l

/-- `STK.REL` (R193): the store follows the release. -/
def execStkRel (a b : Fin 64) (s : State) : Out :=
  issue s (.stkRel a b) <| withOperands s { srcs := [.k a false, .k b false] } <|
    withAccess s ⟨1, 8, 8, false, false⟩ [(0, (readK s.g a).toNat)] fun l =>
      if released s s.g.core && readsDone s s.g.tid then doStore s .normal 8 (scalarPlaces l) fun _ => (readK s.g b).toNat else stall s

/-- Lane addresses of the acquire and release forms (R193): every lane of M. -/
def formAddrs (g : Group) (a b : Fin 64) : List (Nat × Nat) :=
  (lanesOf g g.M).map fun i => (i, wrap64 ((readK g a).toNat + (readV g b i).toNat))

/-- `VLD.ACQ` (R193). -/
def execVldAcq (d a b : Fin 64) (s : State) : Out :=
  issue s (.vldAcq d a b) <| withOperands s { bounds := [d, b], srcs := [.k a false, .v b false], act := s.g.M, dstAll := [d] } <|
    withAccess s ⟨0, 8, 8, false, true⟩ (formAddrs s.g a b) fun l => doLoad s (.vector (physReg s.g d)) false .bypass true 8 l

/-- `VST.REL` (R193). -/
def execVstRel (d a b : Fin 64) (s : State) : Out :=
  issue s (.vstRel d a b) <| withOperands s { bounds := [d, b], srcs := [.v d false, .k a false, .v b false], act := s.g.M } <|
    withAccess s ⟨1, 8, 8, false, true⟩ (formAddrs s.g a b) fun l =>
      if released s s.g.core && readsDone s s.g.tid then doStore s .normal 8 l fun i => (readV s.g d i).toNat else stall s

end Sys2Proof.Machine
end

