-- ==== Sys2Proof/Machine/Atomic.lean ====
section
/-! DEFINITION. Atomics (majors 0x51 to 0x55, R89, R196 to R199). -/
namespace Sys2Proof.Machine

/-- The memory word after one lane's operand x, with expected value e (Table 09.5, R197, R198), and the flags of the
rounding. -/
def combine (op : AtomOp) (size m x e : Nat) : Nat × Flags :=
  let w := 8 * size
  let less (a b : Nat) : Bool := decide ((BitVec.ofNat w a).toInt < (BitVec.ofNat w b).toInt)
  match op with
  | .add => ((m + x) % 2 ^ w, 0)
  | .minS => (if less x m then x else m, 0)
  | .maxS => (if less m x then x else m, 0)
  | .xchg => (x, 0)
  | .and => (m &&& x, 0)
  | .or => (m ||| x, 0)
  | .cas => (if m = e then x else m, 0)
  | .addF => addReal fmtF 0 (unpack fmtF m) (unpack fmtF x)
  | .addD => addReal fmtD 0 (unpack fmtD m) (unpack fmtD x)

/-- Lanes in order, each on the value the one before it left (R196, R197): old values, final value, flags. -/
def runLanes (op : AtomOp) (size : Nat) : Nat → List (Nat × Nat × Nat) → List (Nat × Nat) × Nat × Flags
  | m, [] => ([], m, 0)
  | m, (l, x, e) :: r =>
    let c := combine op size m x e
    let t := runLanes op size c.1 r
    ((l, m) :: t.1, t.2.1, c.2 ||| t.2.2)

/-- The fold of R89: `p` is the fold of the lanes before, none for the first. -/
def runFold (op : AtomOp) (size m : Nat) : Option Nat → List (Nat × Nat × Nat) → List (Nat × Nat) × Nat × Flags
  | none, [] => ([], m, 0)
  | some p, [] => let c := combine op size m p 0; ([], c.1, c.2)
  | none, (l, x, _) :: r =>
    let t := runFold op size m (some x) r
    ((l, m) :: t.1, t.2.1, t.2.2)
  | some p, (l, x, _) :: r =>
    let old := combine op size m p 0
    let q := combine op size p x 0
    let t := runFold op size m (some q.1) r
    ((l, old.1) :: t.1, t.2.1, old.2 ||| q.2 ||| t.2.2)

/-- A floating-point member. -/
def foldsFirst (op : AtomOp) : Bool := op == .addF || op == .addD

/-- One request at its home on the value m it finds: old values by lane, the value it leaves, flags. -/
def runAtom (op : AtomOp) (size m : Nat) (lanes : List (Nat × Nat × Nat)) : List (Nat × Nat) × Nat × Flags :=
  if foldsFirst op then runFold op size m none lanes else runLanes op size m lanes

/-- What one request carries to a peer: one folded operand, or the operand and expected value of every lane of a compare and
swap. -/
def carried (op : AtomOp) (size : Nat) (lanes : List (Nat × Nat × Nat)) : List (Nat × Nat) :=
  let step (p : Option Nat) (x : Nat × Nat × Nat) : Option Nat := match p with
    | none => some x.2.1
    | some p => some (combine op size p x.2.1 0).1
  if op = .cas then lanes.map fun x => (x.2.1, x.2.2) else [((lanes.foldl step none).getD 0, 0)]

/-- The number of a combining function in a packet (log 16). -/
def opCode : AtomOp → Nat
  | .add => 0 | .minS => 1 | .maxS => 2 | .xchg => 3 | .and => 4 | .or => 5 | .cas => 6 | .addF => 7 | .addD => 8

def opFromCode : Nat → AtomOp
  | 0 => .add | 1 => .minS | 2 => .maxS | 3 => .xchg | 4 => .and | 5 => .or | 6 => .cas | 7 => .addF | _ => .addD

/-- The ATOM packets of one request (Table 14.2): the bytes of the word, the first operand in OPERAND, and the request in the data flit,
whose layout is the model's (log 16): the function in bits [7:0], how many pairs of operand and expected value follow in [9:8], in [10] that
more packets follow, and the pairs from bit 128 on. -/
def atomPackets (g : Group) (pkg off size : Nat) (op : AtomOp) (lanes : List (Nat × Nat × Nat)) : List Packet :=
  let xs := carried op size lanes
  let n := max 1 ((xs.length + 2) / 3)
  (List.range n).map fun i =>
    let ys := (xs.drop (3 * i)).take 3
    { packet 0x06 pkg g.ctx (off / 128 * 128) with
        len := 1, mask := byteMask off size, operand := BitVec.ofNat 64 ((xs.headD (0, 0)).1)
        data := opCode op + 2 ^ 8 * ys.length + 2 ^ 10 * bit (i + 1 < n)
          + 2 ^ 128 * ys.foldr (fun p acc => p.1 + 2 ^ 64 * p.2 + 2 ^ 128 * acc) 0 }

/-- A request performed at its home (R199): the word is written unless a compare and swap changes nothing (R197). The issuing
core's own copies go (R187). -/
def performAtom (s : State) (core : Nat) (loc : Loc) (size : Nat) (op : AtomOp) (lanes : List (Nat × Nat × Nat)) :
    State × List (Nat × Nat) × Flags :=
  let m := placeRead s loc size
  let r := runAtom op size m lanes
  let s := if op = .cas ∧ r.2.1 = m then s else placeWrite s core loc size r.2.1
  (dropCopies s core loc size, r.1, r.2.2)

/-- The requests of one instruction: one for each distinct address, in the order of their lowest lanes (R196). -/
def atomGroups : List (Nat × Nat × Loc) → List (Nat × Loc)
  | [] => []
  | x :: l =>
    let r := atomGroups l
    (x.2.1, x.2.2) :: r.filter fun y => y.1 != x.2.1

/-- Add one address's request to a flight: to a peer it is sent, else it waits for its bank or its home. -/
def addAtom (s : State) (g : Group) (size : Nat) (op : AtomOp) (f : Flight) (va : Nat) (loc : Loc) (lanes : List (Nat × Nat × Nat)) :
    State × Flight :=
  match loc with
  | .peer p off =>
    ((atomPackets g p off size op lanes).foldl (fun s pk => sendLine s pk g.core g.tid va false) s, { f with atoms := f.atoms ++ [⟨loc, size, op, lanes, [], false⟩] })
  | _ => (s, { f with atoms := f.atoms ++ [⟨loc, size, op, lanes, [], false⟩] })

/-- An atomic whose accesses are checked: operands and expected values by lane. -/
def doAtom (s : State) (dest : Dest) (signed : Bool) (size : Nat) (op : AtomOp) (l : List (Nat × Nat × Loc)) (x e : Nat → Nat) : Out :=
  if l = [] then finish s s.g
  else if stillOpen s s.g.tid size l ∨ ¬ readsDone s s.g.tid ∨ ¬ queueRoom s s.g.core then stall s
  else
    let (id, s) := fresh s
    let rows : BitVec 16 := match dest with
      | .vector _ => rowsOf (l.map fun x => x.1)
      | _ => 1
    let w := 2 ^ (8 * size)
    let f : Flight := { id := id, tid := s.g.tid, core := s.g.core, dest := dest, signed := signed, acq := false, lanes := [], reqs := []
                        atoms := [], rows := rows, flags := 0, spec := false }
    let lanesAt (va : Nat) : List (Nat × Nat × Nat) := (l.filter fun y => y.2.1 == va).map fun y => (y.1, x y.1 % w, e y.1 % w)
    let r := (atomGroups l).foldl (fun acc a => addAtom acc.1 s.g size op acc.2 a.1 a.2 (lanesAt a.1)) (s, f)
    .next (afterRequest { r.1 with flights := r.1.flights ++ [r.2] } r.2)

/-- `VATOM` and `VCAS` (R196, R197). `VCAS` reads its expected values from d, and that read waits. -/
def vatom (s : State) (i : Instr) (o : V3) (size : Nat) (signed : Bool) (op : AtomOp) : Out :=
  let act := activeMask s.g o.q
  issue s i <| withOperands s { bounds := [o.d, o.a, o.b], preds := [o.q], srcs := [.v o.a o.ea, .v o.b o.eb] ++ (if op = .cas then [.v o.d false] else []), act := act, dstAll := [o.d] } <|
    withAccess s ⟨2, size, size, false, true⟩ ((lanesOf s.g act).map fun i => (i, (readV s.g o.a i).toNat)) fun l =>
      doAtom s (.vector (physReg s.g o.d)) signed size op l (fun i => (readV s.g o.b i).toNat) (fun i => (readV s.g o.d i).toNat)

def execVatomAddI32 (o : V3) (s : State) : Out := vatom s (.vatomAddI32 o) o 4 true .add
def execVatomMinI32 (o : V3) (s : State) : Out := vatom s (.vatomMinI32 o) o 4 true .minS
def execVatomMaxI32 (o : V3) (s : State) : Out := vatom s (.vatomMaxI32 o) o 4 true .maxS
def execVatomXchgI32 (o : V3) (s : State) : Out := vatom s (.vatomXchgI32 o) o 4 true .xchg
def execVatomAddI64 (o : V3) (s : State) : Out := vatom s (.vatomAddI64 o) o 8 false .add
def execVatomMinI64 (o : V3) (s : State) : Out := vatom s (.vatomMinI64 o) o 8 false .minS
def execVatomMaxI64 (o : V3) (s : State) : Out := vatom s (.vatomMaxI64 o) o 8 false .maxS
def execVatomXchgI64 (o : V3) (s : State) : Out := vatom s (.vatomXchgI64 o) o 8 false .xchg
def execVatomAddF (o : V3) (s : State) : Out := vatom s (.vatomAddF o) o 4 false .addF
def execVatomAddD (o : V3) (s : State) : Out := vatom s (.vatomAddD o) o 8 false .addD
def execVatomAndI64 (o : V3) (s : State) : Out := vatom s (.vatomAndI64 o) o 8 false .and
def execVatomOrI64 (o : V3) (s : State) : Out := vatom s (.vatomOrI64 o) o 8 false .or
def execVcasI32 (o : V3) (s : State) : Out := vatom s (.vcasI32 o) o 4 true .cas
def execVcasI64 (o : V3) (s : State) : Out := vatom s (.vcasI64 o) o 8 false .cas

/-- The scalar atomics (R198): the control thread executes each once. -/
def scalarAtom (s : State) (i : Instr) (d a b : Fin 64) (op : AtomOp) : Out :=
  issue s i <| withOperands s { srcs := [.k a false, .k b false] ++ (if op = .cas then [.k d false] else []), dstK := [d] } <|
    withAccess s ⟨2, 8, 8, false, false⟩ [(0, (readK s.g a).toNat)] fun l =>
      doAtom s (.scalar d) false 8 op l (fun _ => (readK s.g b).toNat) (fun _ => (readK s.g d).toNat)

def execAtomkAdd (d a b : Fin 64) (s : State) : Out := scalarAtom s (.atomkAdd d a b) d a b .add
def execAtomkXchg (d a b : Fin 64) (s : State) : Out := scalarAtom s (.atomkXchg d a b) d a b .xchg
def execCask (d a b : Fin 64) (s : State) : Out := scalarAtom s (.cask d a b) d a b .cas
def execAtomkFadd (d a b : Fin 64) (s : State) : Out := scalarAtom s (.atomkFadd d a b) d a b .addD

end Sys2Proof.Machine
end

