-- ==== Sys2Proof/Machine/Flags.lean ====
section
/-! DEFINITION. The exception flags (R83, Table 05.7), the rounding mode of a thread (R82), and integer saturation
(R73). -/
namespace Sys2Proof.Machine

/-- OR flags into `fpflags` (R83). -/
def raise (g : Group) (f : Flags) : Group := { g with fpflags := g.fpflags ||| f }

/-- The rounding mode of the thread: `fmt`[2:0] (R82). -/
def modeOf (g : Group) : Nat := g.fmt.toNat % 8

/-- Clamp to signed `w` bits (R73). -/
def satS (w : Nat) (x : Int) : Int := max (-(2 ^ (w - 1))) (min x (2 ^ (w - 1) - 1))

/-- Clamp to natural `w` bits (R73). -/
def satN (w : Nat) (x : Int) : Int := max 0 (min x (2 ^ w - 1))

/-- Element j of a lane, `w` bits each (R71, R73). -/
def elemOf (w : Nat) (x : BitVec 64) (j : Nat) : BitVec w := BitVec.ofNat w (x.toNat / 2 ^ (w * j))

/-- A lane from its elements. -/
def packLane (w : Nat) (n : Nat) (f : Nat → BitVec w) : BitVec 64 :=
  BitVec.ofNat 64 ((List.range n).foldl (fun acc j => acc + (f j).toNat * 2 ^ (w * j)) 0)

/-- Elementwise on two lanes (R73). -/
def zipLane (w : Nat) (f : BitVec w → BitVec w → BitVec w) (x y : BitVec 64) : BitVec 64 :=
  packLane w (64 / w) fun j => f (elemOf w x j) (elemOf w y j)

end Sys2Proof.Machine
end

