-- ==== Sys2Proof/Machine/Life.lean ====
section
/-! DEFINITION. The ends of paths, threads and blocks (R46, R56, R130, R380), and barrier arrivals (R45, R142). -/
namespace Sys2Proof.Machine

/-! Barriers. -/

/-- The phase completes when the count equals the number of members (R45, R46): the threads that were waiting. -/
def completePhase (b : Barrier) : Barrier × List Nat :=
  if b.count = b.members.length then ({ b with phase := b.phase + 1, count := 0, arrived := [] }, b.arrived) else (b, [])

/-- One arrival of a thread (R142). -/
def arriveAt (b : Barrier) (tid : Nat) : Barrier × List Nat :=
  completePhase { b with count := b.count + 1, arrived := b.arrived ++ [tid] }

/-- A thread stops counting as a member; an arrival of the current phase is withdrawn (R46). -/
def leaveOne (b : Barrier) (tid : Nat) : Barrier × List Nat :=
  if b.members.contains tid then
    completePhase { b with members := b.members.filter (· != tid)
                           arrived := b.arrived.filter (· != tid)
                           count := if b.arrived.contains tid then b.count - 1 else b.count }
  else (b, [])

/-- The key of a barrier in a group's phase table: gang barrier n follows the 16 block barriers. -/
def barKey (gang : Bool) (n : Nat) : Nat := if gang then 16 + n else n

/-- The barrier a thread names. -/
def barrierOf (s : State) (g : Group) (gang : Bool) (n : Nat) : Barrier :=
  if gang then getT {} (gangOf s g.gang).bars n else getT {} (blockOf s g.block).bars n

/-- The home cluster of a gang barrier: that of block 0 of the gang (R44). -/
def gangHome (s : State) (gang : Nat) : Nat := (gangOf s gang).home

/-- The thread reaches the gang barrier by messages (R44). -/
def farFrom (s : State) (g : Group) (gang : Bool) : Bool := gang && cluOfCore g.core != gangHome s g.gang

/-- Releases under way for the threads of other clusters once a gang phase completes (R44). -/
def sendReleases (s : State) (gang n : Nat) (tids : List Nat) : State :=
  let far (t : Nat) : Bool := match thread? s t with
    | some g => farFrom s g true
    | none => false
  { s with barRels := s.barRels ++ ((tids.filter far).map fun t => (gang, n, t)) }

/-- Put a block barrier. -/
def putBlockBar (s : State) (block n : Nat) (b : Barrier) : State :=
  updBlock s block fun x => { x with bars := putT {} x.bars n b }

/-- Put a gang barrier and send the releases of a completed phase. -/
def putGangBar (s : State) (gang n : Nat) (r : Barrier × List Nat) : State :=
  sendReleases (updGang s gang fun x => { x with bars := putT {} x.bars n r.1 }) gang n r.2

/-- The group has arrived in the phase it recorded, and it has not learnt that this phase has completed (R45, R142). -/
def awaiting (s : State) (g : Group) (gang : Bool) (n : Nat) : Bool :=
  let k := barKey gang n
  let onWay (l : List (Nat × Nat × Nat)) : Bool := l.any fun m => m == (g.gang, n, g.tid)
  g.barA.getLsbD k && (getT 0 g.barP k == (barrierOf s g gang n).phase || (gang && (onWay s.barMsgs || onWay s.barRels)))

/-- Record the arrival flag and the phase of a thread's last arrival (R142). -/
def markArrival (g : Group) (gang : Bool) (n phase : Nat) : Group :=
  let k := barKey gang n
  { g with barA := g.barA ||| BitVec.ofNat 20 (2 ^ k), barP := putT 0 g.barP k phase }

/-- The current thread arrives (R142): at once at a barrier of its own cluster, by a message otherwise. -/
def arrive (s : State) (gang : Bool) (n : Nat) : State :=
  let g := s.g
  let b := barrierOf s g gang n
  let s := updThread s g.tid fun g => markArrival g gang n b.phase
  if farFrom s g gang then { s with barMsgs := s.barMsgs ++ [(g.gang, n, g.tid)] }
  else if gang then putGangBar s g.gang n (arriveAt b g.tid)
  else putBlockBar s g.block n (arriveAt b g.tid).1

/-- The thread is a member of the barrier (R376). -/
def isMember (s : State) (g : Group) (gang : Bool) (n : Nat) : Bool := (barrierOf s g gang n).members.contains g.tid

/-- A thread leaves every barrier of its block and gang (R46); its messages under way are withdrawn with it. -/
def leaveBarriers (s : State) (g : Group) : State :=
  let mine (m : Nat × Nat × Nat) : Bool := m.1 == g.gang && m.2.2 == g.tid
  let s := { s with barMsgs := s.barMsgs.filter fun m => !mine m, barRels := s.barRels.filter fun m => !mine m }
  let s := (List.range 16).foldl (fun s n => putBlockBar s g.block n (leaveOne (getT {} (blockOf s g.block).bars n) g.tid).1) s
  (List.range 4).foldl (fun s n => putGangBar s g.gang n (leaveOne (getT {} (gangOf s g.gang).bars n) g.tid)) s

/-! The end of a thread and of a block (R130). -/

/-- Nothing that the thread issued is still to land (R130 steps 4 and 5). -/
def drained (s : State) (tid : Nat) : Bool :=
  !(s.flights.any fun f => f.tid == tid) && !(s.monitors.any fun m => m.tid == tid)
    && !(s.engines.any fun e => e.tid == tid && !e.cq && !e.dead) && !(s.matrix.any fun m => m.2.queue.any fun e => e.tid == tid)

/-- The matrix unit and the command queue of a cluster. -/
def matrixOf (s : State) (clu : Nat) : Matrix := ((s.matrix.find? fun m => m.1 == clu).map fun m => m.2).getD {}

/-- Put a cluster's matrix unit. -/
def setMatrix (s : State) (clu : Nat) (m : Matrix) : State :=
  { s with matrix := (clu, m) :: s.matrix.filter fun x => x.1 != clu }

/-- A block ends once its threads have ended and every engine operation they issued has completed (R130): its
scratchpad, banks and records are released, and its launch counts it. What it held is kept as it stood. -/
def endBlock (s : State) (id : Nat) : State :=
  let b := blockOf s id
  if b.id = id ∧ b.threads = [] ∧ ¬ s.engines.any (fun e => e.block == id && !e.cq && !e.dead) then
    let s := { s with blocks := s.blocks.filter (fun x => x.id != id), pastBlocks := s.pastBlocks ++ [b] }
    let s := updLaunch s b.launch fun l => { l with ended := l.ended + 1 }
    let others := s.blocks.any fun x => x.gang == b.gang
    let s := if others then s else updGang s b.gang fun g => { g with place := .ended }
    if (launchOf s b.launch).pair ≠ 0 then { s with matrix := s.matrix.filter fun m => m.1 != b.clu } else s
  else s

/-- A thread whose `EXIT` has been done leaves the machine once nothing of it is in flight and every engine operation that it issued has
completed (R130 step 5). Its registers are kept as they stood. -/
def reap (s : State) (tid : Nat) : State :=
  match thread? s tid with
  | none => s
  | some g =>
    if g.wait = .draining ∧ drained s tid then
      let s := if s.g.live ∧ s.g.tid = tid then { s with g := {} } else { s with others := s.others.filter fun x => x.tid != tid }
      let s := updBlock { s with past := s.past ++ [g] } g.block fun b => { b with threads := b.threads.filter (· != tid) }
      endBlock s g.block
    else s

/-- A thread ends with locks held (R380): release notices go to every slice, and ILLEGAL 14 is reported. -/
def reportOrphan (s : State) (g : Group) : State :=
  if g.locks = [] then s
  else
    let s := { s with lockMsgs := s.lockMsgs ++ (List.range 128).map fun k => LockMsg.notice g.tid k }
    asyncFault s g.core { recordOf g { cause := 0x01, code := 14, value := g.ender, addrs := sortNat (g.locks.map fun l => l.2) } with tid := g.tid }

/-- The end of the current thread once its release is done (R130 steps 3 to 5). Its program counter stays at the unit that ended it (R372). -/
def exitThread (s : State) : State :=
  let g := s.g
  let s := leaveBarriers s g
  let s := { s with g := { s.g with wait := .draining, landed := false } }
  reap (reportOrphan s g) g.tid

/-! Paths (R52, R56). -/

/-- The depth of a stack: its number of join entries. -/
def depth (st : List Entry) : Nat := (st.filter Entry.join).length

/-- The innermost join. -/
def innermost (st : List Entry) : Option Entry := st.find? Entry.join

/-- `PathEnd()` (R56): the entry that goes on, with its lanes that have not exited, and the stack below it; none when the
group ends. -/
def pathEnd (x : Mask) : List Entry → Option (Entry × List Entry)
  | [] => none
  | e :: st =>
    if e.mask &&& ~~~x ≠ 0 then some ({ e with mask := e.mask &&& ~~~x }, st)
    else if e.join ∧ depth st = 0 then none
    else pathEnd x st

/-- The group after `PathEnd()`. A group that ends has an empty mask and an empty stack. -/
def takePath (g : Group) : Group :=
  match pathEnd g.X g.stack with
  | none => { g with M := 0, stack := [], run := [], landed := false }
  | some (e, st) =>
    if e.pc = g.pc then { g with M := e.mask, fmt := e.fmt, stack := st }
    else { g with M := e.mask, pc := e.pc, fmt := e.fmt, stack := st, run := [], landed := true }

/-- The path ends at the group's program counter (R56). -/
def atJoin (g : Group) : Bool := match innermost g.stack with
  | some e => e.pc == g.pc
  | none => false

/-- The path ends that come before a fetch (R56), at most as many as the stack has entries. -/
def pathEnds : Nat → Group → Group
  | 0, g => g
  | n + 1, g => if atJoin g then pathEnds n (takePath g) else g

/-- A group whose mask at depth 0 is empty has ended (R56); a matrix thread has no lanes. -/
def hasEnded (g : Group) : Bool := !onMcc g && g.M == 0 && depth g.stack == 0

/-- Put the group after the word `w` has ended its path; a group that has ended stands at the unit of that word, performs its release and ends
(R56, R130, R372). -/
def settleGroup (s : State) (g : Group) (w : Nat) : State :=
  let t := { s with g := if hasEnded g then { g with pc := unitPc s.g, ender := w } else g }
  if hasEnded g ∧ released t g.core then exitThread t else t

/-! Scratchpads of blocks and gangs. -/

/-- Bytes of a block's scratchpad allocation (R237). -/
def spadSize (b : Block) : Nat := 2 ^ 17 * b.nbanks

end Sys2Proof.Machine
end

