-- ==== Sys2Proof/Machine/Control.lean ====
section
/-! DEFINITION. Control flow (majors 0x10 to 0x17, R52 to R69, R124 to R133) and the hint words (R102, R103). -/
namespace Sys2Proof.Machine

/-! Divergent branches. -/

/-- STACK_DEPTH 0 (R369): the branch would push above 1,024 entries. -/
def tooDeep (s : State) : Out :=
  takeTrap s { cause := 0x06, code := 0, value := s.g.stack.length, mask := s.g.M }

/-- The taken lanes that the prediction table names for one row with active lanes `a`; none when it predicts nothing
(Table 04.4). -/
def predictRow (p : Point) (mode r a : Nat) : Option Nat :=
  if a = 0 then some 0
  else if mode = 1 then some a
  else if mode = 2 then some 0
  else if mode = 3 then some (a &&& rowBits p.masks r)
  else if mode = 4 then none
  else if rowState p r = 1 then some a
  else if rowState p r = 2 then some 0
  else if rowState p r = 3 then some (a &&& rowBits p.masks r)
  else none

/-- The predicted taken set over all rows (R64); none when the branch is not predicted. -/
def predict (s : State) (g : Group) (mode : Nat) : Option Mask :=
  let p := getT {} s.points (pointKey g)
  (List.range 16).foldl (fun acc r => match acc, predictRow p mode r (rowBits g.M r) with
    | some m, some x => some (m ||| BitVec.ofNat 512 (x * 2 ^ (32 * r)))
    | _, _ => none) (some 0)

/-- `BR.V` and `BR.VN` (R55, R63 to R69, R126). The predicate is complete: the branch resolves. Otherwise it is predicted
when the table and the hint allow it, and a window opens; else it waits. -/
def branchV (s : State) (i : Instr) (p : Fin 8) (neg : Bool) (disp : BitVec 19) : Out :=
  issue s i <|
    let g := s.g
    let dst := target g.pc disp.toInt
    let join := target g.pc ((hjDisp g).getD 0)
    if p ≠ 0 ∧ g.qBusy.getLsbD p.val then
      match (if 1023 ≤ g.stack.length then none else predict s g (hpMode g)) with
      | none => stall s
      | some pt =>
        let w : Window := { saved := g, pred := p, neg := neg, pt := pt, target := dst, join := join, issued := 0 }
        .next { s with g := diverge g pt dst join, windows := s.windows ++ [w] }
    else
      let t := takenSet g p neg
      if t ≠ 0 ∧ g.M &&& ~~~t ≠ 0 ∧ 1023 ≤ g.stack.length then tooDeep s
      else .next { countBranch (updatePoints s g t) g 3 with g := diverge g t dst join }

def execBrV (p : Fin 8) (disp : BitVec 19) (s : State) : Out := branchV s (.brV p disp) p false disp
def execBrVn (p : Fin 8) (disp : BitVec 19) (s : State) : Out := branchV s (.brVn p disp) p true disp

/-- `BR.U` and `BR.UN` (R57, R127): lanes that disagree raise UNIFORMITY (R368). -/
def branchU (s : State) (i : Instr) (p : Fin 8) (neg : Bool) (disp : BitVec 19) : Out :=
  issue s i <| withOperands s { preds := [p] } <|
    let g := s.g
    let t := takenSet g p neg
    if t = g.M then finishAt s g (target g.pc disp.toInt)
    else if t = 0 then finish s g
    else takeTrap s { cause := 0x05, reg := p.val, rfile := 2, mask := t }

def execBrU (p : Fin 8) (disp : BitVec 19) (s : State) : Out := branchU s (.brU p disp) p false disp
def execBrUn (p : Fin 8) (disp : BitVec 19) (s : State) : Out := branchU s (.brUn p disp) p true disp

/-- The entries of the n innermost regions, and the rest of the stack below them (R58). -/
def innerRegions : Nat → List Entry → List Entry × List Entry
  | 0, st => ([], st)
  | _ + 1, [] => ([], [])
  | n + 1, e :: st =>
    let r := innerRegions (if e.join then n else n + 1) st
    (e :: r.1, r.2)

/-- Path entries from the top of a stack down to the innermost join, and the stack from that join on. -/
def pathsAbove (st : List Entry) : List Entry × List Entry := (st.takeWhile (fun e => !e.join), st.dropWhile fun e => !e.join)

/-- The stack once the lanes L have left the n innermost regions for target (R58); none when a path entry would have to
be inserted at 1,024 entries (R369), with the entry count either way. -/
def breakStack (g : Group) (n : Nat) (l : Mask) (target : Nat) : Option (List Entry) × Nat :=
  let r := innerRegions n g.stack
  let cut := (r.1.map fun e => { e with mask := e.mask &&& ~~~l }).filter fun e => e.mask != 0
  let a := pathsAbove r.2
  let above := cut ++ a.1
  let count := above.length + a.2.length
  let fresh := (if 1024 ≤ count then none else some (above ++ ⟨false, l, target, g.fmt⟩ :: a.2), count)
  match above.reverse with
  | e :: up => if !e.join && e.pc == target then (some (up.reverse ++ { e with mask := e.mask ||| l } :: a.2), count) else fresh
  | [] => fresh

/-- `BRK` (R58, R128). -/
def execBrk (n p : Fin 8) (disp : BitVec 19) (s : State) : Out :=
  issue s (.brk n p disp) <| withOperands s { preds := [p] } <|
    let g := s.g
    let l := activeMask g p
    if depth g.stack ≤ n.val then takeTrap s { cause := 0x06, code := 1, value := depth g.stack, mask := l }
    else if l = 0 then finish s g
    else match breakStack g n.val l (target g.pc disp.toInt) with
      | (none, count) => takeTrap s { cause := 0x06, code := 0, value := count, mask := g.M }
      | (some st, _) =>
        let g' := { advance g with M := g.M &&& ~~~l, stack := st }
        if g'.M = 0 then .next (settleGroup (countIssue s) (takePath g') (wordOf (.brk n p disp))) else finish s { g with M := g'.M, stack := st }

/-- `EXIT.V` (R59, R129): every lane of M exits and the running path ends. -/
def execExitV (s : State) : Out :=
  issue s .exitV <|
    let g := { advance s.g with X := s.g.X ||| s.g.M, M := 0 }
    .next (settleGroup s (if depth g.stack = 0 then { g with stack := [] } else takePath g) (wordOf .exitV))

/-! Scalar transfers. -/

/-- `JMP` (R124). -/
def execJmp (disp : BitVec 19) (s : State) : Out :=
  issue s (.jmp disp) <| finishAt s s.g (target s.g.pc disp.toInt)

/-- `CALL` (R124). -/
def execCall (c : Fin 64) (disp : BitVec 19) (s : State) : Out :=
  issue s (.call c disp) <| withOperands s { dstK := [c] } <|
    finishAt s (writeK s.g c (BitVec.ofNat 64 (s.g.pc + 4))) (target s.g.pc disp.toInt)

/-- `BZ` (R124). -/
def execBz (c : Fin 64) (disp : BitVec 19) (s : State) : Out :=
  issue s (.bz c disp) <| withOperands s { srcs := [.k c false], jumps := true } <|
    if readK s.g c = 0 then finishAt s s.g (target s.g.pc disp.toInt) else finish s s.g

/-- `BNZ` (R124). -/
def execBnz (c : Fin 64) (disp : BitVec 19) (s : State) : Out :=
  issue s (.bnz c disp) <| withOperands s { srcs := [.k c false], jumps := true } <|
    if readK s.g c ≠ 0 then finishAt s s.g (target s.g.pc disp.toInt) else finish s s.g

/-- `JR` (R125): a target that is not a word address, or that has bits [63:57], faults at the `JR` (R376, R383). -/
def execJr (d a : Fin 64) (s : State) : Out :=
  issue s (.jr d a) <| withOperands s { srcs := [.k a false], dstK := [d], jumps := true } <|
    let t := (readK s.g a).toNat
    if t % 4 ≠ 0 then takeTrap s { cause := 0x0A, code := 1, addrs := [t % 2 ^ 57] }
    else if 2 ^ 57 ≤ t then takeTrap s { cause := 0x09, code := 5, value := 3, addrs := [t % 2 ^ 57] }
    else finishAt s (writeK s.g d (BitVec.ofNat 64 (s.g.pc + 4))) t

/-- `EXIT` (R130): once its release is done, the thread leaves its barriers and drains. -/
def execExit (s : State) : Out :=
  issue s .exit <| if released s s.g.core then .next (exitThread { s with g := { s.g with ender := wordOf .exit } }) else stall s

/-! Group state. -/

/-- A value that `fmt` may hold (R131, R376). -/
def fmtOk (x : BitVec 64) : Bool := decide (x.toNat < 5)

/-- `SETFMT` (R131). -/
def execSetfmt (d a : Fin 64) (s : State) : Out :=
  issue s (.setfmt d a) <| withOperands s { srcs := [.k a false], dstK := [d] } <|
    let x := readK s.g a
    if !fmtOk x then opValue s (.setfmt d a) a
    else finish s (writeK { s.g with fmt := x.truncate 16 } d (s.g.fmt.zeroExtend 64))

/-- `WIN` (R132). -/
def execWin (d a n : Fin 64) (s : State) : Out :=
  issue s (.win d a n) <| withOperands s { srcs := [.k a false], dstK := [d] } <|
    let w : BitVec 8 := BitVec.ofNat 8 ((readK s.g a).toNat + n.val)
    finish s (writeK { s.g with wv := w } d (w.zeroExtend 64))

/-- `NOP` (R133). -/
def execNop (s : State) : Out := issue s .nop <| finish s s.g

/-- `YIELD` (R133): the group goes last in the rotation. -/
def execYield (s : State) : Out := issue s .yield <| finish s { s.g with last := true }

/-! Hint words (R102): each stands in the run of the instruction after it. -/

def execHx (p : BitVec 21) (s : State) : Out := issueHint s (wordH 0 p.toNat)
def execHj (p : BitVec 21) (s : State) : Out := issueHint s (wordH 1 p.toNat)
def execHs (c : Fin 32) (m : Fin 4) (s : State) : Out := issueHint s (wordH 2 (4 * c.val + m.val))
def execHp (m : Fin 8) (s : State) : Out := issueHint s (wordH 3 m.val)
def execHc (m : Fin 4) (s : State) : Out := issueHint s (wordH 4 m.val)

end Sys2Proof.Machine
end

