-- ==== Sys2Proof/Machine/Sync.lean ====
section
/-! DEFINITION. Locks, monitors and arrival records (major 0x56, R200 to R205). -/
namespace Sys2Proof.Machine

/-- A lock's key: the double of this package's memory that names it (R200); none for an address that has no home slice here. -/
def lockKey : Loc → Option Nat
  | .hbm pa => some (pa / 8)
  | _ => none

/-- The address checks of `LOCK` and `UNLOCK` (R200): those of an access of kind 2, then the home (R373). Nothing is asked of a peer that an
address leads to. -/
def withLock (s : State) (i : Instr) (a : Fin 64) (k : Nat → Nat → Out) : Out :=
  issue s i <| withOperands s { srcs := [.k a false] } <|
    match checkLanes s s.g ⟨2, 8, 8, false, false⟩ false [(0, (readK s.g a).toNat)] with
    | .wait t => .next t
    | .trap r => takeTrap s r
    | .ok ((_, va, loc) :: _) => match lockKey loc with
      | some key => if queueRoom s s.g.core then k key va else stall s
      | none => opValue s i a
    | .ok [] => stall s

/-- `LOCK` (R200): the request goes to the queue-lock unit, and the thread waits for its grant. -/
def execLock (a : Fin 64) (s : State) : Out :=
  withLock s (.lock a) a fun key va =>
    .next { s with g := { s.g with wait := .lock key va }, lockMsgs := s.lockMsgs ++ [.request key s.g.tid] }

/-- `UNLOCK` (R201): a release, then the message; the thread does not wait for the handover. -/
def execUnlock (a : Fin 64) (s : State) : Out :=
  withLock s (.unlock a) a fun key _ =>
    if released s s.g.core && readsDone s s.g.tid then
      let r := { recordOf s.g { cause := 0x01, code := 12, reg := a.val, rfile := 0 } with value := wordOf (.unlock a), async := true, tid := s.g.tid }
      finish { s with lockMsgs := s.lockMsgs ++ [.unlock key s.g.tid r] } { s.g with locks := s.g.locks.filter fun x => x.1 != key }
    else stall s

/-- Monitor entries of a core in use (R202). A `WAITM` that found none free, and returns with the value that its peer answers, has none:
it is woken without having been armed. -/
def monitorsOf (s : State) (core : Nat) : Nat := (s.monitors.filter fun m => m.core == core && (m.armed || !m.woken)).length

/-- The thread's accesses have landed, so that an acquire may be performed (R143). -/
def quiet (s : State) (tid : Nat) : Bool := !(s.flights.any fun f => f.tid == tid)

/-- The core has a store to the bytes that its home has not recorded yet. -/
def notYetHome (s : State) (core : Nat) (loc : Loc) (n : Nat) : Bool :=
  match loc with
  | .hbm pa => (wordsOf pa n).any fun w => s.pending.any fun p => p.core == core && p.word == w && !p.atHome
  | _ => false

/-- `WAITM` returns v (R202): an acquire. -/
def monitorReturn (s : State) (d : Fin 64) (v : Nat) : Out := finish (acquire s s.g.core) (writeK s.g d (BitVec.ofNat 64 v))

/-- `WAITM` (R202). Arming and reading are one step at the home; a peer's line is asked for first. A core whose entries are all in use
arms nothing, and the value read is returned at once. -/
def execWaitm (d a b : Fin 64) (s : State) : Out :=
  issue s (.waitm d a b) <| withOperands s { srcs := [.k a false, .k b false], dstK := [d] } <|
    withAccess s ⟨0, 8, 8, false, false⟩ [(0, (readK s.g a).toNat)] fun l =>
      match l with
      | [] => stall s
      | (_, va, loc) :: _ =>
        let full := decide (64 ≤ monitorsOf s s.g.core)
        let arm (armed woken : Bool) : State :=
          { s with g := { setKEmpty s.g d true with wait := .monitor }
                   monitors := s.monitors ++ [⟨s.g.tid, s.g.core, loc, d.val, readK s.g b, armed, woken, va⟩] }
        match loc with
        | .spad _ _ => opValue s (.waitm d a b) a
        | .hbm pa =>
          if !quiet s s.g.tid || notYetHome s s.g.core loc 8 || !queueRoom s s.g.core then stall s
          else
            let v := homeRead s pa 8
            if BitVec.ofNat 64 v ≠ readK s.g b ∨ full then monitorReturn s d v else .next (arm true false)
        | .peer p off =>
          if !quiet s s.g.tid || !queueRoom s s.g.core then stall s
          else .next (sendLine (arm false full) (packet 0x01 p s.g.ctx (off / 128 * 128)) s.g.core s.g.tid va false)
        | _ => if !quiet s s.g.tid then stall s else monitorReturn s d (placeRead s loc 8)

/-! Arrival records. -/

/-- The record as the issuing block numbers it. -/
def recordAt (s : State) (block idx : Nat) : Arrival := getT {} (blockOf s block).recs idx

/-- Put a block's record. -/
def putArrival (s : State) (block idx : Nat) (r : Arrival) : State :=
  updBlock s block fun b => { b with recs := putT {} b.recs idx r }

/-- An index that the launch assigns to the block (R283, R378). -/
def hasRecord (s : State) (block idx : Nat) : Bool :=
  let b := blockOf s block
  decide (b.recb ≤ idx) && decide (idx < b.recb + b.recn)

/-- Every posted byte has arrived (R204). -/
def recComplete (r : Arrival) : Bool := r.posted && r.exp == r.rcv

/-- A posting of n bytes (R204). -/
def postBytes (r : Arrival) (n : Nat) : Arrival := { r with exp := r.exp + BitVec.ofNat 40 n, posted := true }

/-- ILLEGAL 10, RECORD, naming the index register (Table 23.1). -/
def noRecord (s : State) (i : Instr) (a : Fin 64) : Out :=
  takeTrap s { cause := 0x01, code := 10, value := wordOf i, reg := a.val, rfile := 0 }

/-- The checks that the record instructions share (R378), then their effect on the record index. -/
def withRecord (s : State) (i : Instr) (a : Fin 64) (bad : Option (Fin 64)) (k : Nat → Out) : Out :=
  let x := (readK s.g a).toNat
  if 64 ≤ x then opValue s i a
  else match bad with
    | some b => opValue s i b
    | none => if hasRecord s s.g.block x then k x else noRecord s i a

/-- `XPECT` (R205). -/
def execXpect (a b : Fin 64) (s : State) : Out :=
  issue s (.xpect a b) <| withOperands s { srcs := [.k a false, .k b false] } <|
    let n := (readK s.g b).toNat
    withRecord s (.xpect a b) a (if 2 ^ 40 ≤ n then some b else none) fun x =>
      finish (putArrival s s.g.block x (postBytes (recordAt s s.g.block x) n)) s.g

/-- `WAITC` (R205): the thread stays at it until the chunks, or the record, are complete. Its end is an acquire (Table 12.2), also on a
record that no copy to memory feeds (log 61). -/
def execWaitc (a b : Fin 64) (s : State) : Out :=
  issue s (.waitc a b) <| withOperands s { srcs := [.k a false, .k b false] } <|
    withRecord s (.waitc a b) a none fun x =>
      let r := recordAt s s.g.block x
      let m := readK s.g b
      if (if m = 0 then recComplete r else r.chunks &&& m == m) && quiet s s.g.tid then finish (acquire s s.g.core) s.g else stall s

/-- A valid section-table entry of the thread's cluster names the record (R378). -/
def recBusy (s : State) (g : Group) (idx : Nat) : Bool :=
  s.sections.any fun e => cluOfCore e.core == cluOfCore g.core && e.useRec && e.record == idx
    && ((engineOf s e.op).map EngOp.recBlk == some g.block)

/-- `ARST` (R205). Bytes that copies still have to land stay due in their chunks (R206). -/
def execArst (a : Fin 64) (s : State) : Out :=
  issue s (.arst a) <| withOperands s { srcs := [.k a false] } <|
    withRecord s (.arst a) a none fun x =>
      if recBusy s s.g x then takeTrap s { cause := 0x01, code := 11, value := wordOf (.arst a), reg := a.val, rfile := 0 }
      else finish (putArrival s s.g.block x { due := (recordAt s s.g.block x).due }) s.g

end Sys2Proof.Machine
end

