-- ==== Sys2Proof/Machine/Descriptor.lean ====
section
/-! DEFINITION. The checks of layout records and engine descriptors (R386, Table 24.2, R208 to R211, R216, R221, R225, R226) and of
the scratchpad places an engine operation names (R257, R387). -/
namespace Sys2Proof.Machine

/-- A defect of a descriptor: reserved or range, word index, bit. -/
structure Flaw where
  reserved : Bool
  word     : Nat
  bit      : Nat
  deriving DecidableEq, Repr

/-- The lowest set bit of a number below 2^n. -/
def lowestBit (x n : Nat) : Nat := ((List.range n).find? fun i => x / 2 ^ i % 2 == 1).getD 0

/-- Bits `hi` to `lo` of a word are reserved. -/
def resBits (d : List (BitVec 64)) (w hi lo : Nat) : List Flaw :=
  let x := bits (word d w) hi lo
  if x = 0 then [] else [⟨true, w, lo + lowestBit x (hi - lo + 1)⟩]

/-- A reserved code in the field that starts at a bit. -/
def resCode (bad : Bool) (w b : Nat) : List Flaw := if bad then [⟨true, w, b⟩] else []

/-- A bound on the field that starts at a bit. -/
def rangeFlaw (ok : Bool) (w b : Nat) : List Flaw := if ok then [] else [⟨false, w, b⟩]

/-- A field at a bit that must be a multiple of m: for a power of two the lowest set bit that must be zero, else the lowest bit of the
field. -/
def multiple (x m w b : Nat) : List Flaw :=
  if x % m = 0 then []
  else if m = 2 ∨ m = 4 ∨ m = 8 ∨ m = 16 ∨ m = 32 ∨ m = 64 ∨ m = 128 then [⟨false, w, b + lowestBit (x % m) 7⟩]
  else [⟨false, w, b⟩]

/-- The flaw reported (R386): LAYOUT_RESERVED before LAYOUT_RANGE, then the lowest word, then its lowest bit. -/
def firstFlaw (l : List Flaw) : Option Flaw :=
  l.foldl (fun acc f => match acc with
    | none => some f
    | some g =>
      let key (x : Flaw) : Nat := (if x.reserved then 0 else 2 ^ 20) + x.word * 64 + x.bit
      if key f < key g then some f else some g) none

/-- Go on when a descriptor has no flaw; REG is its first register. -/
def withLayout (s : State) (reg : Fin 64) (l : List Flaw) (k : Out) : Out :=
  match firstFlaw l with
  | none => k
  | some f => takeTrap s { cause := if f.reserved then 0x0B else 0x0C, code := f.bit, value := f.word, reg := reg.val, rfile := 0 }

/-- REC within the launch's assignment, when it is used. -/
def recordOk (s : State) (block : Nat) (use : Bool) (idx : Nat) : Bool := !use || hasRecord s block idx

/-- The checks of the layout record and the origin (Tables 11.9, 24.2). -/
def layoutFlaws (s : State) (d : List (BitVec 64)) : List Flaw :=
  let fmt := recFmt d
  let size := elemSize fmt
  let rank := recRank d
  let q := if isScaled fmt then 64 else if isT6 fmt then 4 else 1
  let dims := [0, 1, 2, 3, 4].flatMap fun j => rangeFlaw (if j < rank then 1 ≤ recDim d j else recDim d j == 0) (2 + j / 2) (32 * (j % 2))
  let strides := [1, 2, 3, 4].flatMap fun j =>
    rangeFlaw (j < rank || recStride d j == 0) (4 + j) 0
      ++ (if isScaled fmt then multiple (recStride d j) (if fmt = 0x12 then 4 else 3) (4 + j) 0 else [])
  let boxes := [0, 1, 2, 3, 4].flatMap fun j => rangeFlaw (if j < rank then 1 ≤ recBox d j else recBox d j == 1) (9 + j / 4) (16 * (j % 4))
  let orgs := [0, 1, 2, 3, 4].flatMap fun j => rangeFlaw (j < rank || recOrg d j == 0) (12 + j / 2) (32 * (j % 2))
  resBits d 0 63 57 ++ multiple (recBase d) 16 0 0
    ++ resBits d 1 31 15 ++ resCode (size == 0) 1 0 ++ resCode (5 ≤ recIlv d) 1 12 ++ rangeFlaw (1 ≤ rank && rank ≤ 5) 1 8
    ++ dims ++ (if isScaled fmt then multiple (recDim d 0) 64 2 0 else []) ++ resBits d 4 63 32
    ++ resBits d 5 63 40 ++ resBits d 6 63 40 ++ resBits d 7 63 40 ++ resBits d 8 63 40 ++ strides
    ++ boxes ++ multiple (recBox d 0) q 9 0
    ++ multiple (recSoff d) (max 1 size) 10 16 ++ rangeFlaw (recSoff d < 2 ^ 22) 10 16
    ++ multiple (recPitch d) (max 1 size) 10 40 ++ (if recIlv d = 0 then [] else multiple (recPitch d) 16 10 40)
    ++ resBits d 11 63 7 ++ rangeFlaw (recordOk s s.g.block (recUse d) (recRec d)) 11 0 ++ rangeFlaw (!recUse d || boxBytes d ≤ 32768) 11 6
    ++ orgs ++ multiple (bits (word d 12) 31 0) q 12 0 ++ resBits d 14 63 32

/-- The block whose scratchpad a 28-bit scratchpad address names, if there is one (R185). -/
def namedBlock (s : State) (g : Group) (a : Nat) : Option Nat :=
  if a / 2 ^ 27 % 2 = 0 then some g.block else (gangOf s g.gang).blocks[a / 2 ^ 22 % 32]?

/-- The checks of a `CPY.RED` descriptor (Table 09.9). -/
def redFlaws (s : State) (d : List (BitVec 64)) : List Flaw :=
  let fmt := bits (word d 2) 39 32
  let dst := bits (word d 0) 56 0
  let n := bits (word d 2) 31 0
  resBits d 0 63 57 ++ multiple dst 128 0 0 ++ rangeFlaw (!inAperture dst) 0 0
    ++ resBits d 1 63 57 ++ multiple (bits (word d 1) 56 0) (max 1 (elemSize fmt)) 1 0
    ++ resBits d 2 63 40 ++ resCode (fmt != 0x01 && fmt != 0x02 && fmt != 0x0A && fmt != 0x0B) 2 32
    ++ multiple n 128 2 0 ++ rangeFlaw (128 ≤ n && n ≤ 2 ^ 24) 2 0
    ++ rangeFlaw (bits (word d 3) 15 0 < bits (word d 3) 31 16) 3 0
    ++ rangeFlaw (1 ≤ bits (word d 3) 31 16 && bits (word d 3) 31 16 ≤ 4096) 3 16
    ++ rangeFlaw (recordOk s s.g.block ((word d 3).getLsbD 38) (bits (word d 3) 37 32)) 3 32

/-- The block whose records a linear copy names (R211): that of an aperture destination, else the issuing block. -/
def remBlock (s : State) (g : Group) (dst : Nat) : Nat :=
  if inAperture dst then (namedBlock s g (dst % 2 ^ 28)).getD g.block else g.block

/-- Two ranges of n bytes share a byte; addresses are taken as the issuing block numbers them (R252). -/
def rangesMeet (idx a b n : Nat) : Bool := decide (normAddr idx a < normAddr idx b + n) && decide (normAddr idx b < normAddr idx a + n)

/-- The checks of a `CPY.REM` descriptor (R211). DESIGN CHOICE (log 61): ranges that overlap are named by the byte count, word 2 bit 0; R386
gives them no bit of their own. -/
def remFlaws (s : State) (d : List (BitVec 64)) : List Flaw :=
  resBits d 0 63 57 ++ multiple (bits (word d 0) 56 0) 16 0 0
    ++ resBits d 1 63 57 ++ multiple (bits (word d 1) 56 0) 16 1 0
    ++ multiple (bits (word d 2) 39 0) 16 2 0 ++ resBits d 2 63 48
    ++ rangeFlaw (!rangesMeet (gangIndex s s.g.block) (bits (word d 0) 56 0) (bits (word d 1) 56 0) (bits (word d 2) 39 0)) 2 0
    ++ rangeFlaw (recordOk s (remBlock s s.g (bits (word d 0) 56 0)) ((word d 2).getLsbD 46) (bits (word d 2) 45 40)) 2 40

/-- A binary format of the quantisation engine, and a tapered one (R225). -/
def qntBinaryOk (f : Nat) : Bool := f == 0x02 || f == 0x03 || f == 0x04
def qntTaperOk (f : Nat) : Bool := decide (0x10 ≤ f) && decide (f ≤ 0x13)

/-- The checks of a quantise descriptor (Table 10.4). -/
def qntFlaws (enc : Bool) (d : List (BitVec 64)) : List Flaw :=
  let src := bits (word d 3) 39 32
  let dst := bits (word d 3) 47 40
  let t := if enc then dst else src
  resBits d 0 63 57 ++ resBits d 1 63 57 ++ resBits d 2 63 57 ++ rangeFlaw (isScaled t || bits (word d 2) 56 0 == 0) 2 0
    ++ multiple (bits (word d 3) 31 0) (if isScaled t then 64 else if isT6 t then 4 else 1) 3 0
    ++ resCode (if enc then !qntBinaryOk src else !qntTaperOk src) 3 32
    ++ resCode (if enc then !qntTaperOk dst else !qntBinaryOk dst) 3 40 ++ resBits d 3 63 48

/-- The limits of K in a panel row (Table 10.2). -/
def panelK (fmt k : Nat) : Bool :=
  if fmt = 0x04 then decide (1 ≤ k) && decide (k ≤ 192)
  else if fmt = 0x10 ∨ fmt = 0x12 then decide (1 ≤ k) && decide (k ≤ 384)
  else decide (4 ≤ k) && decide (k ≤ 512)

/-- Panel formats (Table 10.2). -/
def panelFmt (f : Nat) : Bool := f == 0x04 || f == 0x10 || f == 0x11 || f == 0x12 || f == 0x13

/-- The checks of a `GATH` descriptor, and of nnz as its last offset word gives it (R226). -/
def gathFlaws (d : List (BitVec 64)) (nnz : Nat) : List Flaw :=
  let fmt := bits (word d 3) 31 24
  let k := bits (word d 3) 17 8
  resBits d 0 63 57 ++ rangeFlaw (nnz ≤ 4096) 0 0 ++ resBits d 1 63 57 ++ resBits d 2 63 57
    ++ rangeFlaw (1 ≤ bits (word d 3) 6 0 && bits (word d 3) 6 0 ≤ 64) 3 0 ++ resBits d 3 7 7
    ++ rangeFlaw (panelK fmt k) 3 8 ++ (if fmt = 0x11 then multiple k 4 3 8 else []) ++ resBits d 3 23 18
    ++ resCode (fmt != 0x04 && fmt != 0x10 && fmt != 0x11) 3 24 ++ resBits d 3 63 32

/-- Bytes of a panel row. -/
def panelRow (fmt k : Nat) : Nat := k / unitOf fmt * elemSize fmt

/-- The checks of a panel descriptor (Table 10.2). -/
def panelFlaws (d : List (BitVec 64)) : List Flaw :=
  let fmt := bits (word d 0) 55 48
  let k := bits (word d 1) 17 8
  multiple (bits (word d 0) 27 0) 16 0 0 ++ resBits d 0 31 28
    ++ multiple (bits (word d 0) 47 32) 16 0 32 ++ rangeFlaw (panelRow fmt k ≤ bits (word d 0) 47 32) 0 32
    ++ resCode (!panelFmt fmt) 0 48 ++ resBits d 0 63 56
    ++ rangeFlaw (1 ≤ bits (word d 1) 6 0 && bits (word d 1) 6 0 ≤ 64) 1 0 ++ resBits d 1 7 7
    ++ rangeFlaw (panelK fmt k) 1 8 ++ (if isScaled fmt then multiple k 64 1 8 else if isT6 fmt then multiple k 4 1 8 else [])
    ++ resBits d 1 31 18 ++ rangeFlaw (isScaled fmt || bits (word d 1) 59 32 == 0) 1 32 ++ resBits d 1 63 60

/-- The checks of a tile store descriptor (Table 10.3). -/
def mstFlaws (d : List (BitVec 64)) : List Flaw :=
  let fmt := bits (word d 1) 39 32
  let size := max 1 (elemSize fmt)
  multiple (bits (word d 0) 56 0) size 0 0 ++ resBits d 0 63 57
    ++ rangeFlaw (1 ≤ bits (word d 1) 6 0 && bits (word d 1) 6 0 ≤ 64) 1 0 ++ resBits d 1 7 7
    ++ rangeFlaw (1 ≤ bits (word d 1) 14 8 && bits (word d 1) 14 8 ≤ 64) 1 8 ++ resBits d 1 15 15
    ++ multiple (bits (word d 1) 31 16) size 1 16 ++ resCode (fmt != 0x02 && fmt != 0x04 && fmt != 0x10) 1 32 ++ resBits d 1 63 40

/-! Scratchpad places (R387): all are known at issue. -/

/-- The lowest address of a linear range at which an access of `unit` bytes leaves the scratchpad, with its code: `a` is a 28-bit
address, reported with `base` added. -/
def spadRange (s : State) (g : Group) (base a n unit : Nat) : Option (Nat × Nat) :=
  if n = 0 then none
  else match spadPlace s g (a % 2 ^ 28) (a / 2 ^ 28) (min unit n) with
    | .error c => some (base + a, c)
    | .ok (.spad b off) =>
      let size := spadSize (blockOf s b)
      if off + n ≤ size then none else some (base + a + (size - off) / unit * unit, 1)
    | .ok _ => none

/-- The same for a virtual address that may lie in the aperture. -/
def apRange (s : State) (g : Group) (va n unit : Nat) : Option (Nat × Nat) :=
  if inAperture va then spadRange s g apBase (va - apBase) n unit else none

/-- Go on when no range leaves its scratchpad; SPAD_BOUND with the lowest such address otherwise. -/
def withPlaces (s : State) (l : List (Option (Nat × Nat))) (k : Out) : Out :=
  let bad := l.filterMap fun x => x
  match bad.foldl (fun (acc : Option (Nat × Nat)) x => match acc with
      | none => some x
      | some y => if x.1 < y.1 then some x else some y) none with
  | none => k
  | some x => takeTrap s { cause := 0x07, code := x.2, addrs := [x.1] }

/-- The scratchpad places of a box, and the lowest that lies outside the allocation (R257, R386). -/
def boxPlaces (s : State) (d : List (BitVec 64)) : List (Option (Nat × Nat)) :=
  let size := spadSize (blockOf s s.g.block)
  (List.range (boxUnits d)).map fun i =>
    let p := (boxUnit d i).1
    if p + elemSize (recFmt d) ≤ size then none else some (max p size, 1)

end Sys2Proof.Machine
end

