-- ==== Sys2Proof/Machine/Junction.lean ====
section
/-! DEFINITION. The market's registers and clearing (R228, R290 to R292, R399): bids, floors, leases, physical units. -/
namespace Sys2Proof.Machine

/-- Units of a class (R290). -/
def classUnits : Nat → Nat
  | 0 => 32
  | 1 => 1024
  | 2 => 1536
  | 3 => 2048
  | _ => 72

/-- units(c): less the units withheld at bring-up (R290, R404). -/
def unitsOf (s : State) (c : Nat) : Nat :=
  classUnits c - (if c = 0 then s.withheld.length else if c = 1 then 32 * s.withheld.length else 0)

/-- A physical unit that is withheld. -/
def unitWithheld (s : State) (c u : Nat) : Bool :=
  if c = 0 then s.withheld.contains u else if c = 1 then s.withheld.contains (u / 32) else false

/-- The existing contexts, ascending (Table 21.2), less those that have left by migration (R295). -/
def contexts (s : State) : List Nat :=
  s.csr.filterMap fun e =>
    let x := (e.1 - 0x200000) / 16
    if 0x200000 ≤ e.1 ∧ e.1 < 0x200000 + 16 * 65536 ∧ e.1 % 16 = 1 ∧ ctxExists s x ∧ x ∉ s.departed then some x else none

/-- The contexts that a clearing gives leases to: the leases of one that is leaving end at the next interval (R295). -/
def sharers (s : State) : List Nat := (contexts s).filter fun x => getT 0 s.leaving x == 0

/-- A context's bid register for a class (Table 10.6). -/
def bidOf (s : State) (ctx c : Nat) : BitVec 64 := getT 0 s.bids (ctx * 8 + c)
def bidPrice (b : BitVec 64) : Nat := b.toNat % 2 ^ 32
def bidMax (b : BitVec 64) : Nat := b.toNat / 2 ^ 32 % 2 ^ 16
def bidMin (b : BitVec 64) : Nat := b.toNat / 2 ^ 48 % 2 ^ 16

/-- Write a bid register whole (R229). -/
def putBid (s : State) (ctx c : Nat) (b : BitVec 64) : State := { s with bids := putT 0 s.bids (ctx * 8 + c) b }

def reserveOf (s : State) (c : Nat) : Nat := csrRaw s (csrRes c)
def floorOf (s : State) (t c : Nat) : Nat := csrRaw s (csrFloor t c) % 2 ^ 16
/-- Σ floors(c). -/
def floorSum (s : State) (c : Nat) : Nat := (List.range 64).foldl (fun acc t => acc + floorOf s t c) 0

/-- Rank of a context in an interval (R292). -/
def rankOf (ctx seq : Nat) : Nat := ctx ^^^ (seq % 2 ^ 16)

/-- Insert by rising key, after equal keys. -/
def insertBy {α : Type} (key : α → Nat) (x : α) : List α → List α
  | [] => [x]
  | y :: l => if key x < key y then x :: y :: l else y :: insertBy key x l

/-- Sort by rising key; elements of one key keep their order. -/
def sortBy {α : Type} (key : α → Nat) (l : List α) : List α := l.foldl (fun acc x => insertBy key x acc) []

/-- The floor units of one tenant in a class by context (R292): by rank among those that bid, the rest to the lowest-numbered
existing context. -/
def tenantFloor (s : State) (seq c t : Nat) : List (Nat × Nat) :=
  let mine := (sharers s).filter fun x => tenantOf s x == t
  let bidders := sortBy (fun x => rankOf x seq) (mine.filter fun x => bidMax (bidOf s x c) != 0)
  let r := bidders.foldl (fun (acc : List (Nat × Nat) × Nat) x =>
    let n := min (bidMax (bidOf s x c)) acc.2
    (acc.1 ++ [(x, n)], acc.2 - n)) ([], floorOf s t c)
  match mine with
  | [] => []
  | m :: _ => r.1 ++ [(m, r.2)]

/-- Floor units of every context in a class: (context, units), a context possibly more than once. -/
def floorParts (s : State) (seq c : Nat) : List (Nat × Nat) :=
  ((List.range 64).filter fun t => floorOf s t c != 0).flatMap (tenantFloor s seq c)

/-- The sum of the entries of a context. -/
def sumOf (l : List (Nat × Nat)) (x : Nat) : Nat := l.foldl (fun acc p => if p.1 = x then acc + p.2 else acc) 0

/-- A bid in a clearing: context, price, minimum, and n. -/
structure Bid where
  ctx   : Nat
  price : Nat
  min   : Nat
  n     : Nat
  deriving DecidableEq, Repr

/-- The bids of a class in the order of their service (R292): n is capped by the tenant's budget as it stands before the grants of
the class. -/
def bidsOf (s : State) (seq c : Nat) (budget : Table Nat) : List Bid :=
  let all := (sharers s).filterMap fun x =>
    let b := bidOf s x c
    let p := bidPrice b
    if bidMax b ≠ 0 ∧ reserveOf s c ≤ p then
      some (⟨x, p, bidMin b, if p = 0 then bidMax b else min (bidMax b) (getT 0 budget (tenantOf s x) / p)⟩ : Bid)
    else none
  sortBy (fun b => (2 ^ 32 - b.price) * 2 ^ 16 + rankOf b.ctx seq) all

/-- Progress of the grants of one class. -/
structure Auction where
  avail  : Nat
  budget : Table Nat
  top    : Nat                -- price(c) so far
  grants : List (Nat × Nat × Nat)   -- context, units, its PRICE
  deriving DecidableEq, Repr

/-- One bid's grant (R292). -/
def grantBid (s : State) (a : Auction) (b : Bid) : Auction :=
  let g := if b.min ≤ b.n ∧ 0 < b.n ∧ b.min ≤ a.avail then min b.n a.avail else 0
  let t := tenantOf s b.ctx
  { avail := a.avail - g, budget := putT 0 a.budget t (getT 0 a.budget t - g * b.price)
    top := if g < b.n then max a.top b.price else a.top, grants := a.grants ++ [(b.ctx, g, b.price)] }

/-- The clearing so far: leases, prices, payments, budgets. -/
structure Clearing where
  leases : Table Lease := []
  prices : Table Nat := []
  dues   : Table Nat := []
  budget : Table Nat := []
  deriving DecidableEq, Repr

/-- Add units to a context's lease. -/
def addLease (t : Table Lease) (ctx c units floor : Nat) : Table Lease :=
  let l := getT {} t (ctx * 8 + c)
  putT {} t (ctx * 8 + c) { units := l.units + units, floor := l.floor + floor }

/-- The leases that floors alone give (R292). -/
def floorLeases (s : State) (seq : Nat) : Table Lease :=
  (List.range 5).foldl (fun t c => (floorParts s seq c).foldl (fun t p => addLease t p.1 c p.2 p.2) t) []

/-- The auction of one class, after its floors (R292). -/
def clearClass (s : State) (seq : Nat) (k : Clearing) (c : Nat) : Clearing :=
  let a : Auction := { avail := unitsOf s c - floorSum s c, budget := k.budget, top := reserveOf s c, grants := [] }
  let a := (bidsOf s seq c k.budget).foldl (grantBid s) a
  { leases := a.grants.foldl (fun t g => addLease t g.1 c g.2.1 0) k.leases
    prices := putT 0 k.prices c a.top
    dues := a.grants.foldl (fun t g => putT 0 t (tenantOf s g.1) (getT 0 t (tenantOf s g.1) + min a.top g.2.2 * g.2.1)) k.dues
    budget := a.budget }

/-- The clearing that prices interval `seq` (R292), from the bid registers and purses as they stand. -/
def clearing (s : State) (seq : Nat) : Clearing :=
  (List.range 5).foldl (clearClass s seq) { leases := floorLeases s seq, budget := s.purses }

/-- The purse at the start of an interval (R291): a payment never exceeds it. -/
def nextPurse (s : State) (dues : Table Nat) (t : Nat) : Nat :=
  let p := getT 0 s.purses t
  min (p - min (getT 0 dues t) p + csrRaw s (csrRate t)) (csrRaw s (csrCap t))

/-! Physical units (R292). -/

def unitKey (c u : Nat) : Nat := c * 4096 + u
/-- The context that holds a physical unit, + 1; 0 for none. -/
def holderOf (s : State) (c u : Nat) : Nat := getT 0 s.held (unitKey c u)

/-- The units of a class that a context holds, ascending. -/
def heldUnits (held : Table Nat) (c ctx : Nat) : List Nat :=
  held.filterMap fun e => if e.1 / 4096 = c ∧ e.2 = ctx + 1 then some (e.1 % 4096) else none

/-- Units of a class by context: each keeps the lowest of what it held, then the free units go in ascending order, to the contexts
in ascending number (log 17). -/
def assignUnits (s : State) (leases : Table Lease) : Table Nat :=
  let want (x c : Nat) : Nat := (getT {} leases (x * 8 + c)).units
  let kept := (List.range 5).foldl (fun (t : Table Nat) c => (contexts s).foldl (fun t x =>
    ((heldUnits s.held c x).take (want x c)).foldl (fun t u => putT 0 t (unitKey c u) (x + 1)) t) t) []
  (List.range 5).foldl (fun (t : Table Nat) c => (contexts s).foldl (fun t x =>
    let more := want x c - (heldUnits t c x).length
    let free := (List.range (classUnits c)).filter fun u => getT 0 t (unitKey c u) == 0 && !unitWithheld s c u
    (free.take more).foldl (fun t u => putT 0 t (unitKey c u) (x + 1)) t) t) kept

/-- Put leases into force, with their physical units. The lines in L2 ways that change hands are written back and invalidated (R244, R293). -/
def setLeases (s : State) (leases : Table Lease) : State :=
  let held := assignUnits s leases
  let unit (e : Nat × Nat) : Nat := unitKey 2 ((l2Place e.1).1 * 12 + (e.2 - 1))
  let stays (e : Nat × Nat) : Bool := decide (12 < e.2) || getT 0 s.held (unit e) == getT 0 held (unit e)
  { s with held := held, leases := leases, l2 := s.l2.filter stays }

/-! The loss of a lease (R48, R293). -/

/-- The context leases the cluster (R292). -/
def leasesCluster (s : State) (ctx clu : Nat) : Bool := holderOf s 0 clu == ctx + 1

/-- Blocks of a gang that have not ended. -/
def gangBlocks (s : State) (gang : Nat) : List Block := s.blocks.filter fun b => b.gang == gang

/-- The banks of a gang's blocks that its context no longer leases, by physical number. -/
def lostBanks (s : State) (gang ctx : Nat) : List Nat :=
  (gangBlocks s gang).flatMap fun b => (b.banks.filter fun k => holderOf s 1 (32 * b.clu + k) != ctx + 1).map (32 * b.clu + ·)

/-- The gang has lost a cluster or a bank (Table 13.7). -/
def gangLoses (s : State) (gang ctx : Nat) : Bool :=
  lostBanks s gang ctx != [] || (gangBlocks s gang).any fun b => !leasesCluster s ctx b.clu

/-- Pre-empt a gang whole. -/
def haltGang (s : State) (gang ctx : Nat) : State :=
  let s := haltWhere s fun g => g.gang == gang
  let s := updWhere s (fun g => g.gang == gang) fun g => { g with resident := false }
  updGang s gang fun g => { g with place := .halted, lost := lostBanks s gang ctx }

/-- Leases have changed: gangs that have lost units are halted (Table 13.7), and a halted one loses the banks that go now. -/
def haltLosers (s : State) : State :=
  s.gangs.foldl (fun s g =>
    let ctx := (launchOf s g.launch).ctx
    if g.place = .resident then (if gangLoses s g.id ctx then haltGang s g.id ctx else s)
    else if g.place = .ended then s
    else updGang s g.id fun g => { g with lost := lostBanks s g.id ctx }) s

/-- Until the leases of the first clearing take effect, each context holds the floor units that the floor rule gives it (R292). -/
def divideFloors (s : State) : State := if s.curSeq = 0 then haltLosers (setLeases s (floorLeases s 0)) else s

/-- A context's lease in a class. -/
def leaseOf (s : State) (ctx c : Nat) : Lease := getT {} s.leases (ctx * 8 + c)

/-- The price that `PRICE` returns: each class's reserve price until the first clearing's leases take effect (R292). -/
def priceOf (s : State) (c : Nat) : Nat := if s.curSeq = 0 then reserveOf s c else getT 0 s.prices c

/-- The neighbour list (R294). -/
def neighbours (s : State) : List Nat :=
  (List.range 64).filterMap fun i =>
    let r := csrRaw s (csrNbr i)
    if r / 2 ^ 12 % 2 = 1 then some (r % 2 ^ 12) else none

end Sys2Proof.Machine
end

