-- ==== Sys2Proof/Machine/Registers.lean ====
section
/-! DEFINITION. What a write of a control register does (R358, R275, R292, R309, R396, R399, R411), and the accesses of the
command processor to memory. -/
namespace Sys2Proof.Machine

/-- The number that stands for no core in a packet's bookkeeping. -/
def noCore : Nat := 255

/-- A device's read of this package's memory, in a context; none when it does not translate or its leaf lacks the permission. -/
def devRead (s : State) (ctx va n : Nat) : Option Nat :=
  match translateNow s ctx va 0 with
  | .ok (.peer _ _) => none
  | .ok loc => some (placeRead s loc n)
  | _ => none

/-- A write of memory by a device, performed at the home; none when it does not translate or its leaf lacks W. -/
def devWrite (s : State) (ctx va n x : Nat) : Option State :=
  match translateNow s ctx va 1 with
  | .ok (.peer p off) => some (postStore s { core := noCore, ctx := ctx } p off noLane va n x false)
  | .ok (.mcast g off) => some (multicast s { core := noCore, ctx := ctx } g off noLane va n x)
  | .ok loc => some (placeWrite s noCore loc n x)
  | _ => none

/-! Command queues. -/

def queueOf (s : State) (q : Nat) : Queue := getT {} s.queues q
def putQueue (s : State) (q : Nat) (x : Queue) : State := { s with queues := putT {} s.queues q x }
def queueBits (s : State) (q : Nat) : Nat := csrRaw s (csrQcfg q) % 32
def queueCtx (s : State) (q : Nat) : Nat := csrRaw s (csrQcfg q) / 32 % 2 ^ 16
def queueOn (s : State) (q : Nat) : Bool := csrRaw s (csrQcfg q) / 2 ^ 21 % 2 == 1

/-- The read-index word of a queue (R276, Table 25.1). -/
def ridxWord (x : Queue) : Nat := x.ridx % 2 ^ 32 + x.cause * 2 ^ 32 + bit x.halted * 2 ^ 40 + x.sub * 2 ^ 41

/-- Write the read-index word, as a release. -/
def writeRidx (s : State) (q : Nat) : State :=
  (devWrite s (queueCtx s q) (csrRaw s (csrQridx q)) 8 (ridxWord (queueOf s q))).getD s

/-- Halt a queue (R393). -/
def haltQueue (s : State) (q cause sub : Nat) : State :=
  writeRidx (putQueue s q { queueOf s q with halted := true, cause := cause, sub := sub, look := false, waitSig := none }) q

/-- A write of QC.CFG (R396): enabling a halted queue restarts it at its read index; any other enabling reads the header again. -/
def writeQcfg (s : State) (q v : Nat) : State :=
  let on := queueOn s q
  let s := csrPut s (csrQcfg q) v
  let x := { queueOf s q with moved := none }
  if !queueOn s q then putQueue s q { x with waitSig := none }
  else if on then putQueue s q x
  else if x.halted then writeRidx (putQueue s q { x with halted := false, cause := 0, sub := 0, widx := x.ridx, look := false }) q
  else putQueue s q { x with look := true }

/-! MG.SEMA and the takeover reports. -/

def ownerPort (s : State) : Nat := csrRaw s csrSema % 4

/-- Send takeover reports to the port that holds MG.SEMA, in order (R406). -/
def sendReports (s : State) (rs : List Nat) : State :=
  if ownerPort s = 0 then s
  else { s with reporting := s.reporting ++ rs.map fun r => (ownerPort s, r), host := s.host ++ rs.map fun r => .report (ownerPort s) r }

/-- A write of MG.SEMA (R309): agent 0 is firmware, 1 and 2 the ports. A claim brings the port every kept report (R406). -/
def writeSema (s : State) (agent v : Nat) : State :=
  if v = 0 then (if agent = 0 ∨ agent = ownerPort s then csrPut s csrSema 0 else s)
  else if ownerPort s = 0 then sendReports (csrPut s csrSema v) s.reports
  else s

/-! Registers with effects of their own. -/

/-- Write JS.CMDST (Table 26.4). -/
def putCmdst (s : State) (die value result : Nat) (done : Bool) : State :=
  csrPut s (csrCmdst die) (value % 2 ^ 14 + result * 2 ^ 16 + bit done * 2 ^ 63)

/-- A write of JS.CMD (R411): one that finds no other waiting or under way is the latest command at once, and DONE is 0 from then on. -/
def writeCmd (s : State) (die v tid : Nat) : State :=
  let t := { s with jsCmds := s.jsCmds ++ [⟨die, v, false, 0, tid⟩] }
  if s.jsCmds.any fun c => c.die == die then t else putCmdst t die v 0 false

/-- A write of MK.FLOOR (R399, R292). -/
def writeFloor (s : State) (n v : Nat) : State :=
  let c := n % 16
  if unitsOf s c < floorSum s c - csrRaw s n % 2 ^ 16 + v then s else divideFloors (csrPut s n v)

/-- A write of CX.TENANT (R292, R228): a context that comes to exist has no bids, and the floors are divided again. -/
def writeTenant (s : State) (n v : Nat) : State :=
  let x := (n - 0x200000) / 16
  let new := !ctxExists s x && v / 64 % 2 == 1
  let s := csrPut s n v
  divideFloors (if new then
    { (List.range 5).foldl (fun s c => putBid s x c 0) s with
        ended := s.ended.filter (· != x), departed := s.departed.filter (· != x), causes := s.causes.filter fun r => r.ctx != x }
    else s)

/-- The registers whose write takes effect later: JS.CMD (R411), NOTIFY (R274), and MK.INTV, at the end of the interval (R358). -/
def csrTakesTime (n : Nat) : Bool := (decide (0x800 ≤ n) && decide (n < 0x840) && n % 16 == 1) || decide (0x1000000 ≤ n) || n == csrIntv

/-- An admitted write of a control register (R358) by an agent: 0 firmware, 1 and 2 the ports; `tid` and `core` are the firmware
thread's. DESIGN CHOICE (log 61): MK.INTV reads its old value until the end of the interval, when the write takes effect; the spec does not
say what a read between them returns. -/
def writeReg (s : State) (agent tid core n v : Nat) : State :=
  if n = csrSema then writeSema s agent v
  else if n = csrIntv then { s with intvNext := v }
  else if 0x400 ≤ n ∧ n < 0x800 ∧ n % 16 < 5 then writeFloor s n v
  else if 0x800 ≤ n ∧ n < 0x840 ∧ n % 16 = 1 then writeCmd s ((n - 0x800) / 16) v tid
  else if 0x100000 ≤ n ∧ n < 0x100000 + 4 * 4096 ∧ n % 4 = 2 then writeQcfg s ((n - 0x100000) / 4) v
  else if 0x200000 ≤ n ∧ n < 0x200000 + 16 * 65536 ∧ n % 16 = 1 then writeTenant s n v
  else if 0x1000000 ≤ n then { s with notifies := s.notifies ++ [((n - 0x1000000) / 8192, v % 2 ^ 32, if agent = 0 then core else noCore + agent)] }
  else if n = csrPkgid then flushOut (csrPut s n v)
  else csrPut s n v

end Sys2Proof.Machine
end

