-- ==== Sys2Proof/Machine/Engine.lean ====
section
/-! DEFINITION. Copies, quantise and gather requests, and the registers of the quantiser and gather unit (majors 0x58 to 0x5B,
R206 to R212, R225 to R227, R249 to R252). An instruction checks its descriptor and its places, registers its ranges, posts
its bytes and enters its queue; its elements land by the events of EvEngine.lean. -/
namespace Sys2Proof.Machine

/-! Queues and section tables. -/

/-- Served by the copy request queue of the core (Table 03.4). -/
def inCopyQueue (k : EngKind) : Bool := k == .cpyT || k == .cpyTs || k == .cpyRed || k == .cpyRem || k == .cpyL

/-- Served by the quantiser queue of the cluster (Table 03.4). -/
def inQuantQueue (k : EngKind) : Bool := k == .qntEnc || k == .qntDec || k == .gath

/-- The copy request queue of a core has a free slot (R42). -/
def copyRoom (s : State) (core : Nat) : Bool :=
  decide ((s.engines.filter fun e => e.core == core && inCopyQueue e.kind && !e.accepted && !e.cq).length < 32)

/-- Requests in the quantiser queue of a cluster. -/
def quantWaiting (s : State) (clu : Nat) : Nat :=
  (s.engines.filter fun e => cluOfCore e.core == clu && inQuantQueue e.kind && !e.accepted && !e.cq).length

/-- The quantiser queue of a cluster has a free slot (R42). -/
def quantRoom (s : State) (clu : Nat) : Bool := decide (quantWaiting s clu < 16)

/-- The entries of a core's section table (R251). -/
def sectionsOf (s : State) (core : Nat) : List Section := s.sections.filter fun e => e.core == core

/-- The free indices of a core's section table, ascending. -/
def freeIndices (s : State) (core : Nat) : List Nat :=
  (List.range 64).filter fun i => !(s.sections.any fun e => e.core == core && e.index == i)

/-- The section table of a core has room for n more entries (R206). -/
def sectionRoom (s : State) (core n : Nat) : Bool := decide ((sectionsOf s core).length + n ≤ 64)

/-- Register the ranges of an operation at the lowest free indices (R206, R251). DESIGN CHOICE (log 61): which free index an entry takes;
the spec does not say. -/
def register (s : State) (g : Group) (op : EngOp) (rs : List (Bool × Nat × Nat)) : State :=
  let idx := gangIndex s op.block
  let entry (x : (Bool × Nat × Nat) × Nat) : Section :=
    { core := op.core, index := x.2, lo := normAddr idx x.1.2.1, hi := normAddr idx x.1.2.2, token := op.token, part := g.part
      slot := g.slot, dst := x.1.1, spad := inAperture x.1.2.1, matrix := op.kind == .panel, record := op.recIdx
      useRec := op.useRec, op := op.id, ctx := op.ctx, gang := op.gang }
  { s with sections := s.sections ++ ((rs.zip (freeIndices s op.core)).map entry) }

/-- Add bytes due to the chunks of a record. -/
def addDue (t : Table Nat) (l : List (Nat × Nat)) : Table Nat := l.foldl (fun t x => putT 0 t x.1 (getT 0 t x.1 + x.2)) t

/-- The expected byte count reaches the record the operation names, unless it is receive-only (R206). -/
def postOp (s : State) (op : EngOp) (recvOnly : Bool) : State :=
  if !op.useRec then s
  else
    let r := recordAt s op.recBlk op.recIdx
    let r := if recvOnly then r else postBytes r (opBytes op)
    putArrival s op.recBlk op.recIdx { r with due := addDue r.due (chunkDue op 0) }

/-- A new operation of a group. -/
def makeOp (g : Group) (kind : EngKind) (token : Nat) (desc : List (BitVec 64)) : EngOp :=
  { kind := kind, tid := g.tid, core := g.core, part := g.part, slot := g.slot, ctx := g.ctx, block := g.block, gang := g.gang, token := token, desc := desc }

/-- Issue of an engine operation (R206, R249): it waits for a slot of its queue, for section-table entries, and until the group's earlier
loads have their values (A4 of R263); then its ranges are registered, its record is posted, and its token is empty. -/
def startOp (s : State) (room : Bool) (op : EngOp) (nnz : Nat) (recvOnly : Bool) : Out :=
  let rs := rangesOf op nnz
  if !room || !sectionRoom s op.core rs.length || !readsDone s s.g.tid then stall s
  else
    let (id, s) := fresh s
    let op := { op with id := id }
    let s := postOp (register { s with engines := s.engines ++ [op] } s.g op rs) op recvOnly
    finish s (setKEmpty s.g (kAt op.token) true)

/-- The scalars of a descriptor as sources: none has a trap bit (R36). -/
def regSrcs (a : Fin 64) (n : Nat) : List Src := (List.range n).map fun i => .k (kAt (a.val + i)) false

/-! Copies. -/

/-- `CPY.T` and `CPY.TS` (R208, R209). -/
def tensorCopy (s : State) (i : Instr) (kind : EngKind) (d a b : Fin 64) : Out :=
  issue s i <| withOperands s { srcs := regSrcs a 12 ++ regSrcs b 3, dstK := [d] } <|
    let desc := readRegs s.g a.val 12 ++ readRegs s.g b.val 3
    withLayout s a (layoutFlaws s desc) <| withPlaces s (boxPlaces s desc) <|
      startOp s (copyRoom s s.g.core)
        { makeOp s.g kind d.val desc with useRec := recUse desc, recBlk := s.g.block, recIdx := recRec desc } 0 false

def execCpyT (d a b : Fin 64) (s : State) : Out := tensorCopy s (.cpyT d a b) .cpyT d a b
def execCpyTs (d a b : Fin 64) (s : State) : Out := tensorCopy s (.cpyTs d a b) .cpyTs d a b

/-- `CPY.RED` (R210). -/
def execCpyRed (d a : Fin 64) (s : State) : Out :=
  issue s (.cpyRed d a) <| withOperands s { srcs := regSrcs a 4, dstK := [d] } <|
    let desc := readRegs s.g a.val 4
    withLayout s a (redFlaws s desc) <|
      withPlaces s [apRange s s.g (bits (word desc 1) 56 0) (bits (word desc 2) 31 0) (elemSize (bits (word desc 2) 39 32))] <|
        startOp s (copyRoom s s.g.core)
          { makeOp s.g .cpyRed d.val desc with useRec := (word desc 3).getLsbD 38, recBlk := s.g.block, recIdx := bits (word desc 3) 37 32 }
          0 false

/-- `CPY.REM` (R211). -/
def execCpyRem (d a : Fin 64) (s : State) : Out :=
  issue s (.cpyRem d a) <| withOperands s { srcs := regSrcs a 3, dstK := [d] } <|
    let desc := readRegs s.g a.val 3
    let n := bits (word desc 2) 39 0
    let dst := bits (word desc 0) 56 0
    withLayout s a (remFlaws s desc) <|
      withPlaces s [apRange s s.g (bits (word desc 1) 56 0) n 16, apRange s s.g dst n 16] <|
        startOp s (copyRoom s s.g.core)
          { makeOp s.g .cpyRem d.val desc with
              useRec := (word desc 2).getLsbD 46, recBlk := remBlock s s.g dst, recIdx := bits (word desc 2) 45 40 }
          0 ((word desc 2).getLsbD 47)

/-- Address checks of `CPY.L` (R387): (lane, source, destination), ascending. ALIGN before SPAD_BOUND; MASK holds the lanes
concerned, ADDR their offending addresses. A 16-byte access to a BF16 window is misaligned (R254, R383). -/
def laneCopyFault (s : State) (g : Group) (n : Nat) (l : List (Nat × Nat × Nat)) : Option Record :=
  let sides := l.flatMap fun x => [(x.1, x.2.1), (x.1, apBase + x.2.2)]
  let skew := sides.filter fun x => x.2 % n != 0
  let out := sides.filterMap fun x =>
    if inAperture x.2 ∨ apBase ≤ x.2 ∧ l.any (fun y => y.1 == x.1 && apBase + y.2.2 == x.2) then
      match spadPlace s g ((x.2 - apBase) % 2 ^ 28) ((x.2 - apBase) / 2 ^ 28) n with
      | .error c => some (x.1, x.2, c)
      | .ok _ => none
    else none
  let f : Form := ⟨4, n, n, false, true⟩
  let wins := l.filter fun x => !inAperture x.2.1 && (match translateNow s g.ctx x.2.1 4 with | .ok loc => badWindow f loc | _ => false)
  if skew ≠ [] then some (laneRecord s s.g.ctx f 0x0A 0 (skew.map fun x => (x.1, x.2, 1)))
  else if wins ≠ [] then some (laneRecord s s.g.ctx f 0x0A 0 (wins.map fun x => (x.1, x.2.1, 2)))
  else if out ≠ [] then some (laneRecord s s.g.ctx f 0x07 0 out)
  else none

/-- `CPY.L.n` (R212). -/
def execCpyL (o : ML) (s : State) : Out :=
  let act := activeMask s.g o.q
  issue s (.cpyL o) <|
    withOperands s { bounds := [o.x], preds := [o.q], srcs := [.k o.k o.et, .v o.x o.et], act := act, dstK := [o.t] } <|
      let n := 4 * 2 ^ o.cp.val
      let w := readK s.g o.k
      let dst := bits w 27 0
      let use := w.getLsbD 38
      let lanes := (lanesOf s.g act).map fun i => (i, (readV s.g o.x i).toNat)
      let blk := (namedBlock s s.g dst).getD s.g.block
      if bits w 31 28 ≠ 0 ∨ bits w 63 40 ≠ 0 then opValue s (.cpyL o) o.k
      else if !recordOk s blk use (bits w 37 32) then noRecord s (.cpyL o) o.k
      else match laneCopyFault s s.g n (lanes.map fun x => (x.1, x.2, dst + n * x.1)) with
        | some r => takeTrap s r
        | none =>
          startOp s (copyRoom s s.g.core)
            { makeOp s.g .cpyL o.t.val [w, BitVec.ofNat 64 n] with lanes := lanes, useRec := use, recBlk := blk, recIdx := bits w 37 32 }
            0 (w.getLsbD 39)

/-! Quantise and gather. -/

/-- `QNT.ENC` and `QNT.DEC` (R225). -/
def quantise (s : State) (i : Instr) (kind : EngKind) (d a : Fin 64) : Out :=
  issue s i <| withOperands s { srcs := regSrcs a 4, dstK := [d] } <|
    let desc := readRegs s.g a.val 4
    let op := makeOp s.g kind d.val desc
    withLayout s a (qntFlaws (kind == .qntEnc) desc) <|
      withPlaces s ((rangesOf op 0).map fun r => apRange s s.g r.2.1 (r.2.2 - r.2.1 + 1) 1) <|
        startOp s (quantRoom s (cluOfCore s.g.core)) op 0 false

def execQntEnc (d a : Fin 64) (s : State) : Out := quantise s (.qntEnc d a) .qntEnc d a
def execQntDec (d a : Fin 64) (s : State) : Out := quantise s (.qntDec d a) .qntDec d a

/-- A word that an engine finds at an address when it looks at issue; 0 where it finds none (log 13). -/
def engPeek (s : State) (g : Group) (va n : Nat) : Nat :=
  if inAperture va then
    match spadPlace s g (va % 2 ^ 28) 0 n with
    | .ok loc => placeRead s loc n
    | .error _ => 0
  else (devRead s g.ctx va n).getD 0

/-- `GATH` (R226). The entry count is read at issue, since the ranges need it (log 13). -/
def execGath (d a : Fin 64) (s : State) : Out :=
  issue s (.gath d a) <| withOperands s { srcs := regSrcs a 4, dstK := [d] } <|
    let desc := readRegs s.g a.val 4
    let op := makeOp s.g .gath d.val desc
    let nnz := engPeek s s.g (bits (word desc 0) 56 0 + 4 * bits (word desc 3) 6 0) 4
    withLayout s a (gathFlaws desc nnz) <|
      withPlaces s ((rangesOf op nnz).map fun r => apRange s s.g r.2.1 (r.2.2 - r.2.1 + 1) 1) <|
        startOp s (quantRoom s (cluOfCore s.g.core)) op nnz false

/-- A `MMA.S` of the cluster runs (R226). -/
def sparseRuns (s : State) (clu : Nat) : Bool :=
  (matrixOf s clu).queue.any fun e => e.running && (match e.cmd with | .mmaS _ _ => true | _ => false)

/-- The value of a quantiser or gather unit register (Table 10.5). -/
def gcsrValue (s : State) (clu n : Nat) : BitVec 64 :=
  let m := matrixOf s clu
  match n with
  | 0 => BitVec.ofNat 64 (quantWaiting s clu)
  | 1 => getT 0 s.gqDone clu
  | 2 => BitVec.ofNat 64 m.gN
  | 3 => BitVec.ofNat 64 m.gK
  | 4 => BitVec.ofNat 64 m.gNnz
  | 5 => BitVec.ofNat 64 m.gFmt
  | _ => 0

/-- The gather unit emptied. -/
def emptyGather (m : Matrix) : Matrix := { m with gN := 0, gK := 0, gFmt := 0, gNnz := 0, gEnt := [] }

/-- `GCSR` (R227). DESIGN CHOICE (log 61): a write of GU.CLR while an `MMA.S` runs keeps the thread at the `GCSR` until none does, and the
reserved bits [63:1] of what is written are ignored; the spec says neither. -/
def execGcsr (d a b : Fin 64) (s : State) : Out :=
  issue s (.gcsr d a b) <| withOperands s { srcs := [.k a false, .k b false], dstK := [d] } <|
    let n := (readK s.g a).toNat
    let clu := cluOfCore s.g.core
    if 6 ≤ n ∧ n ≠ 8 then opValue s (.gcsr d a b) a
    else if n = 8 ∧ b ≠ 0 ∧ (readK s.g b).getLsbD 0 then
      if sparseRuns s clu then stall s
      else
        let s := setMatrix s clu (emptyGather (matrixOf s clu))
        finish s (writeK s.g d 0)
    else finish s (writeK s.g d (gcsrValue s clu n))

end Sys2Proof.Machine
end

