-- ==== Sys2Proof/Machine/Signal.lean ====
section
/-! DEFINITION. Completion signals and bundles as the command processor writes them (R279, R285, R365, R428). -/
namespace Sys2Proof.Machine

/-- The die whose command processor serves a queue (log 26). -/
def queueDie (q : Nat) : Nat := q % 4

/-- A trap record of the command processor (R428). -/
def cqRecord (ctx die : Nat) (r : Record) : Record :=
  { r with cq := true, async := true, ctx := ctx, die := die, core := 0, mcc := false, part := 0, slot := 0, pc := 0 }

/-- The combining number of a signal's decrement in an ATOM packet (log 16). -/
def decrementCode : Nat := 9

/-- A signal after one decrement (R285): unchanged when bit 63 is set. -/
def decremented (v : Nat) : Nat := if 2 ^ 63 ≤ v then v else (v + 2 ^ 64 - 1) % 2 ^ 64

/-- Decrement a signal, as one atomic at its home (R285); a signal that cannot be written is reported (R428). -/
def decrementSignal (s : State) (ctx die sig : Nat) : State :=
  if sig = 0 then s
  else match translateNow s ctx sig 1 with
    | .ok (.peer p off) =>
      sendLine s { packet 0x06 p ctx (off / 128 * 128) with len := 1, mask := byteMask off 8, data := decrementCode } noCore die sig false
    | .ok loc => placeWrite s noCore loc 8 (decremented (placeRead s loc 8))
    | .fault c => postRecord s (cqRecord ctx die { cause := 0x09, code := c, value := 2, addrs := [sig % 2 ^ 57] })
    | .miss => s

/-- The completion error word (Table 22.3). -/
def errorWord (old cause : Nat) (primary : Bool) : Nat := old % 2 ^ 48 + cause % 256 * 2 ^ 48 + bit primary * 2 ^ 56 + 2 ^ 63

/-- Write the error word to a signal, unless it holds one or cannot be written (R365). -/
def failSignal (s : State) (ctx sig cause : Nat) (primary : Bool) : State :=
  if sig = 0 then s
  else match translateNow s ctx sig 1 with
    | .ok (.peer p off) =>
      sendLine s { packet 0x06 p ctx (off / 128 * 128) with
                     len := 1, mask := byteMask off 8, data := decrementCode + 1 + 256 * (cause + 256 * bit primary) } noCore 0 sig false
    | .ok loc =>
      let v := placeRead s loc 8
      if 2 ^ 63 ≤ v then s else placeWrite s noCore loc 8 (errorWord v cause primary)
    | _ => s

def bundleOf (s : State) (id : Nat) : Bundle := (s.bundles.find? fun b => b.id == id).getD {}

/-- A sub-packet of a bundle has completed; the last one retires the bundle (R279). -/
def bundleDone (s : State) (id : Nat) : State :=
  let b := bundleOf s id
  if b.id ≠ id ∨ id = 0 ∨ b.retired then s
  else
    let put (f : Bundle → Bundle) (s : State) : State := { s with bundles := mapFirst (fun b => b.id == id) f s.bundles }
    if b.left ≤ 1 then decrementSignal (put (fun b => { b with left := 0, retired := true }) s) b.ctx (queueDie b.queue) b.sig
    else put (fun b => { b with left := b.left - 1 }) s

end Sys2Proof.Machine
end

