-- ==== Sys2Proof/Machine/SignalBox.lean ====
section
/-! DEFINITION. The Signal Box of a sequence (R230 to R233, R311 to R323, R408 to R412): records, their transfer, the phases of an
`EMIT`, truncation, and the end of a sequence. What a JREC and a JACK hold beyond Table 14.1 is the model's (log 23): BYTEMASK
[63:0] the sequence identifier and, for records, [127:64] the serial below which every record has been sent before; OPERAND [3:0] of a JREC
what it is, [63:4] a position or the serial of the first record; OPERAND[0] of a JACK the refusal, [4:1] what it answers, [63:5] the serial or
position, and its BYTEMASK above the identifier PLANE and SEQ of the JREC that it answers. Records fill the data flits from the lowest bits on, two in each, and an unused half is zero. -/
namespace Sys2Proof.Machine

/-! Records. -/

/-- One bit of a CRC-32C, least significant bit first (R316). -/
def crcBit (c b : Nat) : Nat := let x := c ^^^ b; x / 2 ^^^ (if x % 2 = 1 then 0x82F63B78 else 0)

/-- CRC-32C of the low n bytes of a little-endian number (R316). -/
def crc32c (x n : Nat) : Nat := (List.range (8 * n)).foldl (fun c i => crcBit c (x / 2 ^ i % 2)) 0xFFFFFFFF ^^^ 0xFFFFFFFF

/-- The 32 bytes of a record (Table 15.4). -/
def recordImage (seqid : BitVec 64) (pos kind index : Nat) (payload : BitVec 64) : Nat :=
  let body := seqid.toNat + pos % 2 ^ 32 * 2 ^ 64 + kind % 256 * 2 ^ 96 + index % 256 * 2 ^ 104 + payload.toNat * 2 ^ 128
  body + crc32c body 24 * 2 ^ 192

/-- The CRC of a record's image holds. -/
def soundImage (x : Nat) : Bool := x / 2 ^ 192 % 2 ^ 32 == crc32c (x % 2 ^ 192) 24

/-- A position read from a field in which all ones stand for none. -/
def noMark : Nat := 0xFFFFFFFF

/-! Sequences. -/

def seqOf (s : State) (id : Nat) : Option Seq := s.seqs.find? fun q => q.id == id
def updSeq (s : State) (id : Nat) (f : Seq → Seq) : State := { s with seqs := mapFirst (fun q => q.id == id) f s.seqs }

/-- The open sequence of an identifier. -/
def openSeq (s : State) (seqid : BitVec 64) : Option Seq := s.seqs.find? fun q => q.isOpen && q.seqid == seqid

/-- The package that the sequence's JREC packets go to. -/
def seqDest (q : Seq) : Nat := q.target.getD q.partner

/-- Send one JREC packet of a sequence. DESIGN CHOICE (log 23): the journal's packets take the plane of the offset 0 of the package that they
go to, since R299 names no journal traffic. -/
def sendJrec (s : State) (q : Seq) (sort serial flits data : Nat) : State :=
  sendLine s { packet 0x0D (seqDest q) q.ctx 0 with
                 len := flits, mask := BitVec.ofNat 128 q.seqid.toNat, operand := BitVec.ofNat 64 (sort + 16 * serial), data := data }
    noCore 0 0 false

/-- The 128 bits of a signature (R315). -/
def sigImage (x : Signature) : Nat := x.kobj % 2 ^ 57 + x.bucket % 16 * 2 ^ 57 + x.nsplit % 2 ^ 13 * 2 ^ 64 + x.first % 2 ^ 32 * 2 ^ 96

/-- The 512 bytes of a sequence's header at its partner (Table 15.3). -/
def headerImage (s : State) (q : Seq) (intent : Option Nat) : Nat :=
  q.seqid.toNat + pkgNum s * 2 ^ 64 + 2 ^ 80 + bit q.hwmv * 2 ^ 81 + bit intent.isSome * 2 ^ 82 + q.hwm % 2 ^ 32 * 2 ^ 96
    + (intent.getD 0) % 2 ^ 32 * 2 ^ 128 + (q.mark.getD noMark) % 2 ^ 32 * 2 ^ 160 + q.snap.toNat * 2 ^ 192
    + q.sigs.foldr (fun x acc => sigImage x + 2 ^ 128 * acc) 0 * 2 ^ 512

/-- Send the header: sort 1 opens it at the partner (n − 1 is the partner declared failed before, when there is one), 2 writes an
intent, 3 the high-water mark, 4 the signatures. -/
def sendHeader (s : State) (q : Seq) (sort n : Nat) : State :=
  sendJrec s q sort n 8 (headerImage s q (if sort = 1 then none else q.intent))

/-- A record may go out now: the header is acknowledged, and under a reassignment only the tail goes (R322). -/
def mayGo (q : Seq) (r : JRecord) : Bool :=
  !r.sent && q.headerAcked && !q.fenced && (!q.reassign || (q.target.isSome && decide (r.serial < q.tailEnd)))

/-- The records of the first packet of a list: those with consecutive serials, at most 128. -/
def firstRun : Nat → Nat → List JRecord → List JRecord
  | 0, _, _ => []
  | _, _, [] => []
  | n + 1, serial, r :: rs => if r.serial = serial then r :: firstRun n (serial + 1) rs else []

/-- One JREC packet of records, two per data flit (R317). `need` is the serial below which every record has gone before. -/
def sendRecords (s : State) (q : Seq) (need : Nat) (rs : List JRecord) : State :=
  let first := (rs.head?.map JRecord.serial).getD 0
  sendLine s { packet 0x0D (seqDest q) q.ctx 0 with
                 len := (rs.length + 1) / 2, mask := BitVec.ofNat 128 (q.seqid.toNat + need % 2 ^ 64 * 2 ^ 64)
                 operand := BitVec.ofNat 64 (16 * first), data := rs.foldr (fun r acc => r.image + 2 ^ 256 * acc) 0 } noCore 0 0 false

/-- Send records in serial order. -/
def sendRuns : Nat → State → Seq → Nat → List JRecord → State
  | 0, s, _, _, _ => s
  | _, s, _, _, [] => s
  | n + 1, s, q, need, r :: rs =>
    let run := firstRun 128 r.serial (r :: rs)
    sendRuns n (sendRecords s q need run) q (r.serial + run.length) ((r :: rs).drop run.length)

/-- Send every record that may go, in serial order (R317). -/
def pump (s : State) (id : Nat) : State :=
  match seqOf s id with
  | none => s
  | some q =>
    let go := q.records.filter (mayGo q)
    let need := (q.records.filter JRecord.sent).foldl (fun n r => max n (r.serial + 1)) 0
    let s := sendRuns go.length s q need go
    updSeq s id fun q => { q with records := q.records.map fun r => if mayGo q r then { r with sent := true } else r }

/-- Records of a die that the Signal Box still buffers: those not acknowledged (R317). -/
def buffered (s : State) (die : Nat) : Nat :=
  ((s.seqs.filter fun q => q.die == die).flatMap fun q => q.records.filter fun r => r.fresh && !r.acked).length

/-- The lowest free slot of a die's tail area, when the area has one (R317). -/
def tailSlot (s : State) (die : Nat) : Option Nat :=
  let used := (s.seqs.filter fun q => q.die == die).flatMap fun q => q.records.filterMap JRecord.slot
  let n := csrRaw s (csrTailsz die) * 2 ^ 15
  (List.range (min n (used.length + 1))).find? fun i => !used.contains i

/-- The higher of a position and the highest so far. -/
def topOf (t : Option Nat) (p : Nat) : Option Nat := some (match t with | none => p | some x => max x p)

/-- Accept a record: the next serial, a copy in the tail area, and its transfer (R317). -/
def appendRecord (s : State) (q : Seq) (pos kind index : Nat) (payload : BitVec 64) : State :=
  let x := recordImage q.seqid pos kind index payload
  let slot := tailSlot s q.die
  let s := match slot with
    | some i => physWrite s (csrRaw s (csrTail q.die) + 32 * i) 32 x
    | none => s
  let r : JRecord := { serial := q.nextSerial, pos := pos, kind := kind, index := index, payload := payload, image := x, sent := false
                       acked := false, fresh := true, read := false, slot := slot }
  pump (updSeq s q.id fun q => { q with records := q.records ++ [r], nextSerial := q.nextSerial + 1, top := topOf q.top pos }) q.id

/-! Faults. -/

/-- A JOURNAL record (R409): VALUE the position, REG the a field. -/
def journalRecord (code pos reg : Nat) : Record := { cause := 0x10, code := code, value := pos, reg := reg, rfile := 0 }

/-- A thread by number, or as it stood at its end. -/
def threadEver (s : State) (tid : Nat) : Option Group := (thread? s tid).or (s.past.find? fun g => g.tid == tid)

/-- Report an asynchronous JOURNAL fault at the core of a thread, which may have ended (R360, R380). -/
def journalFault (s : State) (tid code pos reg : Nat) : State :=
  match threadEver s tid with
  | some g => asyncFault s g.core { recordOf g (journalRecord code pos reg) with tid := tid }
  | none => s

/-- A journal instruction of a thread completes: its destination is written and it goes on. -/
def fillJournal (s : State) (tid d : Nat) (v : BitVec 64) : State :=
  updThread s tid fun g => advance (writeK (setKEmpty { g with wait := .none } (kAt d) false) (kAt d) v)

/-! `EMIT` (R232). -/

/-- The wait phase of an `EMIT` may end. -/
def emitReady (q : Seq) (e : Emit) : Bool :=
  !q.fenced && !q.reassign && q.headerAcked && q.records.all fun r => decide (e.after ≤ r.serial) || r.acked

/-- The status of an `EMIT` whose send phase has begun is filled; the thread has already gone on (R48). -/
def fillStatus (s : State) (e : Emit) (v : BitVec 64) : State :=
  landThread s e.tid fun g => writeK (setKEmpty g (kAt e.d) false) (kAt e.d) v

/-- The first `EMIT` of a sequence goes as far as it can: a duplicate ends, else its intent is written at the partner. -/
def advanceEmits : Nat → State → Nat → State
  | 0, s, _ => s
  | n + 1, s, id =>
    match seqOf s id with
    | none => s
    | some q =>
      match q.emits with
      | [] => s
      | e :: rest =>
        if e.phase = .wait ∧ emitReady q e then
          if q.hwmv ∧ e.pos ≤ q.hwm then
            advanceEmits n (fillJournal (updSeq s id fun q => { q with emits := rest }) e.tid e.d 1) id
          else
            let q := { q with intent := some e.pos, emits := { e with phase := .intent } :: rest }
            sendHeader (updSeq s id fun _ => q) q 2 e.pos
        else s

/-- Let the `EMIT`s of a sequence go on. -/
def pushEmits (s : State) (id : Nat) : State := advanceEmits (((seqOf s id).map fun q => q.emits.length).getD 0) s id

/-- The egress payload (Table 14.5). -/
def egressPayload (seqid : BitVec 64) (pos : Nat) (token : BitVec 64) : Nat :=
  seqid.toNat + pos % 2 ^ 32 * 2 ^ 64 + token.toNat * 2 ^ 128

/-- The send phase of the first `EMIT` begins: the packet leaves, and the thread goes on with an empty destination. -/
def beginSend (s : State) (q : Seq) (e : Emit) (rest : List Emit) : State :=
  let s := updSeq s q.id fun q => { q with emits := { e with phase := .send } :: rest }
  let s := { s with host := s.host ++ [.egress q.egress (egressPayload q.seqid e.pos e.token)] }
  updThread s e.tid fun g => advance { g with wait := .none }

/-! `JTRUNC` (R233). -/

/-- The last mark among the records accepted before a serial; that of the descriptor when there is none. DESIGN CHOICE (log 61): the last
mark of a `JTRUNC` that acts later is the last one accepted before the `JTRUNC`, not one accepted before it acts; the spec does not say. -/
def markBefore (q : Seq) (n : Nat) : Option Nat :=
  match (q.records.filter fun r => r.kind == 4 && decide (r.serial < n)).getLast? with
  | some r => some r.pos
  | none => q.mark0

/-- A record that a `JTRUNC` discards. -/
def truncated (q : Seq) (n : Nat) (r : JRecord) : Bool :=
  (markBefore q n).any fun m => decide (r.serial < n) && decide (r.pos ≤ m) && !(r.kind == 4 && r.pos == m)

/-- Discard records at the partner and here (R233, R319). -/
def discard (s : State) (q : Seq) (p : JRecord → Bool) : State :=
  let s := if q.reassign ∧ q.target = none then s else
    (q.records.filter fun r => p r && r.sent).foldl (fun s r => sendJrec s q 5 r.serial 1 0) s
  updSeq s q.id fun q => { q with records := q.records.filter fun r => !p r }

/-- Act on the `JTRUNC`s whose earlier records are all acknowledged. -/
def actTruncs (s : State) (id : Nat) : State :=
  match seqOf s id with
  | none => s
  | some q =>
    let ready (t : Nat × Nat × Nat) : Bool := q.records.all fun r => decide (t.1 ≤ r.serial) || r.acked
    let s := (q.truncs.filter ready).foldl (fun s t => match seqOf s id with
      | some q => discard s q (truncated q t.1)
      | none => s) s
    updSeq s id fun q => { q with truncs := q.truncs.filter fun t => !ready t }

/-! Commands. -/

/-- The command under way on a die takes effect: its outcome is recorded, and the thread that wrote it goes on (R139, R411). -/
def finishCmd (s : State) (die result : Nat) : State :=
  match s.jsCmds.find? fun c => c.die == die && c.begun with
  | none => s
  | some c =>
    let s := putCmdst { s with jsCmds := s.jsCmds.filter fun c => !(c.die == die && c.begun) } die c.value result true
    let waits (g : Group) : Bool := match g.wait with | .command n => n == csrCmd die | _ => false
    if c.tid = 0 then s else updThread s c.tid fun g => if waits g then { g with wait := .none } else g

/-- A close goes through once nothing of the sequence is left to do (R313, R411): the partner discards it, and the slot is free. -/
def tryClose (s : State) (id : Nat) : State :=
  match seqOf s id with
  | none => s
  | some q =>
    if q.closing ∧ q.work = [] ∧ q.emits = [] ∧ q.records.all JRecord.acked ∧ ¬ q.reassign then
      finishCmd { sendJrec s q 6 0 1 0 with seqs := s.seqs.filter fun x => x.id != id } q.die 0
    else s

/-! Acceptance (R317). -/

/-- A sequence taken over has its journal at the new partner (R408). -/
def transferred (q : Seq) : Bool := q.headerAcked && q.records.all fun r => r.fresh || r.acked

/-- The position lies at or below the replay horizon (R319). -/
def belowHorizon (q : Seq) (pos : Nat) : Bool := match q.horizon with
  | some h => decide (pos ≤ h)
  | none => false

/-- The position of the last mark accepted. -/
def lastMark (q : Seq) : Option Nat := markBefore q q.nextSerial

/-- What the Signal Box does with the first waiting `JNL.X`, `JMARK`, `JTRUNC` or `EMIT` (R231 to R233, R380, R409). -/
def takeWork (s : State) (id : Nat) : State :=
  match seqOf s id with
  | none => s
  | some q =>
    match q.work with
    | [] => s
    | w :: rest =>
      let off (s : State) : State := updSeq s id fun q => { q with work := rest }
      let room := decide (buffered s q.die < 16384)
      if q.fenced || !q.moved then s
      else match w with
        | .trunc tid reg => actTruncs (updSeq (off s) id fun q => { q with truncs := q.truncs ++ [(q.nextSerial, tid, reg)] }) id
        | .emit tid d reg pos token =>
          let e : Emit := { tid := tid, d := d, reg := reg, pos := pos, token := token, after := q.nextSerial, phase := .wait }
          pushEmits (updSeq (off s) id fun q => { q with emits := q.emits ++ [e] }) id
        | .mark tid reg pos ref =>
          if (lastMark q).any fun m => decide (pos ≤ m) then journalFault (off s) tid 2 pos reg
          else if room then appendRecord (off s) { q with work := rest } pos 4 0 ref else s
        | .record tid d reg pos kind index payload =>
          let key (r : JRecord) : Bool := r.pos == pos && r.kind == kind && r.index == index
          if q.replay then
            match q.records.find? key with
              | some r =>
                if soundImage r.image then
                  let s := updSeq (off s) id fun q => { q with records := mapFirst key (fun r => { r with read := true }) q.records }
                  fillJournal s tid d r.payload
                else trapThread (updThread (off s) tid fun g => setKEmpty g (kAt d) false) tid (journalRecord 5 pos reg)
              | none =>
                if belowHorizon q pos then
                  trapThread (updThread (off s) tid fun g => setKEmpty g (kAt d) false) tid (journalRecord 4 pos reg)
                else if room then
                  let s := discard (off s) q fun r => !r.fresh && !r.read
                  let s := updSeq s id fun q => { q with replay := false, horizon := none }
                  match seqOf s id with
                  | some q => fillJournal (appendRecord s q pos kind index payload) tid d payload
                  | none => s
                else s
          else if q.records.any key then
            journalFault (updThread (off s) tid fun g => advance { g with wait := .none }) tid 3 pos reg
          else if room then
            fillJournal (appendRecord (off s) { q with work := rest } pos kind index payload) tid d payload
          else s

/-- A `JTRUNC` or `EMIT` at the head needs no buffer. -/
def headFree (q : Seq) : Bool := match q.work with
  | .trunc _ _ :: _ => true
  | .emit _ _ _ _ _ :: _ => true
  | _ => false

/-- Let the `JTRUNC`s and `EMIT`s at the head through. -/
def drainWork : Nat → State → Nat → State
  | 0, s, _ => s
  | n + 1, s, id =>
    match seqOf s id with
    | some q => if headFree q ∧ ¬ q.fenced then drainWork n (takeWork s id) id else s
    | none => s

/-- Put an instruction at the end of the sequence's work and let through what needs no buffer. -/
def addWork (s : State) (id : Nat) (w : JWork) : State :=
  let s := updSeq s id fun q => { q with work := q.work ++ [w] }
  drainWork (((seqOf s id).map fun q => q.work.length).getD 0) s id

/-- Everything that the acknowledgement of records or headers may let go on. -/
def settleSeq (s : State) (id : Nat) : State := tryClose (pushEmits (actTruncs (pump s id) id) id) id

end Sys2Proof.Machine
end

