-- ==== Sys2Proof/Machine/EvEngine.lean ====
section
/-! DEFINITION. The events of the copy engines, the quantisation engine and the gather unit (R42, R206 to R212, R225, R226, R249,
R278, R387, R388). An operation lands one element at a time, in ascending order; an event that is not enabled changes
nothing. -/
namespace Sys2Proof.Machine


/-- An operation's gang as the issuer of scratchpad accesses. -/
def opGroup (op : EngOp) : Group := { tid := op.tid, core := op.core, part := op.part, slot := op.slot, ctx := op.ctx, block := op.block, gang := op.gang }

/-- The operation is under way: accepted, not stopped by a fault, its gang resident (R48, R387). -/
def underWay (s : State) (op : EngOp) : Bool :=
  op.accepted && op.fault.isNone && !op.dead && (op.cq || (gangOf s op.gang).place == .resident)

/-- The operation may run. The requests of one cluster's quantiser queue are performed in their order (R255). -/
def opRuns (s : State) (op : EngOp) : Bool :=
  underWay s op && !(inQuantQueue op.kind && !op.cq && s.engines.any fun x =>
    inQuantQueue x.kind && !x.cq && cluOfCore x.core == cluOfCore op.core && decide (x.id < op.id) && underWay s x)

/-- The record of an operation's fault: REG is the token (R387, R388); of a bundle's sub-packet, that of the command processor
(R428). -/
def opRecord (s : State) (op : EngOp) (r : Record) : Record :=
  if op.cq then { cqRecord op.ctx op.die r with launch := op.bundle }
  else
    let g := (threadEver s op.tid).getD (opGroup op)
    { recordOf g { r with reg := op.token, rfile := 0 } with async := true, tid := op.tid }

/-- Stop an operation before its faulting element (R387). -/
def stopOp (s : State) (op : EngOp) (r : Record) : State :=
  let r := opRecord s op r
  asyncFault (updEngine s op.id fun e => { e with fault := some r }) op.core r

/-! Removing an operation. -/

/-- A line's copies in a core's L1 and RDC share are dropped, but for words that it owns (R207). -/
def dropLine (s : State) (core : Nat) (loc : Loc) : State :=
  let line := lineKey loc
  let cut (l : Line) : Line := keepBytes l (keptWords s core line ||| l.fresh)
  match loc with
  | .hbm _ => setRdc (setL1 s core line (cut (l1Line s core line))) core line (cut (rdcLine s core line))
  | .peer _ _ => setRdc (setL1 s core line (cut (l1Line s core line))) core line (cut (rdcLine s core line))
  | _ => s

/-- Where an address leads, whichever access its leaf permits. -/
def anyPlace (s : State) (ctx va : Nat) : Option Loc :=
  [0, 1, 3].findSome? fun kind => match translateNow s ctx va kind with
    | .ok loc => some loc
    | _ => none

/-- Drop the copies of every memory line of a virtual range (R207, R286). -/
def dropVirtual (s : State) (core ctx lo hi : Nat) : State :=
  ((List.range (hi / 128 - lo / 128 + 1)).map fun i => (lo / 128 + i) * 128).foldl (fun s a =>
    match anyPlace s ctx a with
    | some loc => dropLine s core loc
    | none => s) s

/-- The entries of an operation leave the section table (R206). -/
def dropSections (s : State) (id : Nat) : State := { s with sections := s.sections.filter fun e => e.op != id }

/-- Bytes that an operation will not land any more are no longer due (R388). -/
def forgetDue (s : State) (op : EngOp) : State :=
  if !op.useRec then s
  else
    let r := recordAt s op.recBlk op.recIdx
    let t := (chunkDue op op.pos).foldl (fun t x => putT 0 t x.1 (getT 0 t x.1 - x.2)) r.due
    putArrival s op.recBlk op.recIdx { r with due := t }

/-- Take an operation out; the command of an `MST` keeps how many bytes it has written (R224). -/
def dropOp (s : State) (op : EngOp) : State :=
  let note (m : Matrix) : Matrix := { m with queue := mapIf (fun e => e.id == op.id) (fun e => { e with steps := op.landed }) m.queue }
  let s := if op.kind = .mst then { s with matrix := s.matrix.map fun m => (m.1, note m.2) } else s
  dropSections { s with engines := s.engines.filter fun e => e.id != op.id } op.id

/-- End an operation that cannot finish (R388): its entries go, its token stays empty. -/
def failOp (s : State) (op : EngOp) (code : Nat) : State :=
  let r := opRecord s op { cause := 0x0D, code := code, value := op.landed }
  endBlock (reap (asyncFault (dropOp (forgetDue s op) op) op.core r) op.tid) op.block

/-! Engine reads and writes (R207). -/

/-- The pieces of a byte range by 128-byte lines: address and length. -/
def piecesOf (a n : Nat) : List (Nat × Nat) :=
  if n = 0 then []
  else (List.range ((a + n - 1) / 128 - a / 128 + 1)).map fun i =>
    let lo := max a ((a / 128 + i) * 128)
    (lo, min (a + n) ((a / 128 + i + 1) * 128) - lo)

/-- What an engine read finds. -/
inductive EngGot where
  | ok (x : Nat)
  | ask (l : List (Nat × Nat))            -- package and line offset, of lines still to come from a peer
  | fault (cause code : Nat) (addr : Nat)
  deriving DecidableEq, Repr

/-- Stands for a line that the peer's second-stage translation refused; above it by a code of R391, for one that is lost there. -/
def refusedLine : Nat := 2 ^ 1024

/-- One piece of an engine read. -/
def readPiece (s : State) (op : EngOp) (va n : Nat) : EngGot :=
  let place : Except (Nat × Nat) Loc :=
    if inAperture va then
      match spadPlace s (opGroup op) (va % 2 ^ 28) 0 n with
      | .ok l => .ok l
      | .error c => .error (0x07, c)
    else match translateNow s op.ctx va 4 with
      | .ok l => .ok l
      | .fault c => .error (0x09, c)
      | .miss => .error (0x09, 1)
  match place with
  | .error e => .fault e.1 e.2 va
  | .ok (.peer p off) =>
    match op.got.find? fun x => x.1 == lineKey (.peer p off) with
    | some x => if x.2 = refusedLine then .fault 0x09 3 va else if refusedLine < x.2 then .fault 0x0E (x.2 - refusedLine) va
      else .ok (x.2 / 2 ^ (8 * (off % 128)) % 2 ^ (8 * n))
    | none => if unreachable s p ≠ 0 then .fault 0x0F (unreachable s p) va else .ask [(p, off / 128 * 128)]
  | .ok loc =>
    match lostCode s (opGroup op) ⟨4, n, 1, false, false⟩ loc with
    | some c => .fault 0x0E c va
    | none => .ok (placeRead s loc n)

/-- Join two neighbouring pieces, the first of n bytes. -/
def joinGot (n : Nat) : EngGot → EngGot → EngGot
  | .fault c k a, _ => .fault c k a
  | _, .fault c k a => .fault c k a
  | .ask l, .ask m => .ask (l ++ m)
  | .ask l, _ => .ask l
  | _, .ask m => .ask m
  | .ok x, .ok y => .ok (x + y * 2 ^ (8 * n))

/-- An engine read of n bytes. -/
def engRead (s : State) (op : EngOp) (va n : Nat) : EngGot :=
  (piecesOf va n).foldr (fun p acc => joinGot p.2 (readPiece s op p.1 p.2) acc) (.ok 0)

/-- Ask the peers for the lines that an operation waits for, once each. -/
def askLines (s : State) (op : EngOp) (l : List (Nat × Nat)) : State :=
  l.foldl (fun s x =>
    let key := lineKey (.peer x.1 x.2)
    if ((engineOf s op.id).map fun e => e.asked.contains key).getD true then s
    else
      let p := packet 0x01 x.1 op.ctx x.2
      let s := sendOn s p (linePlane x.2 x.1) ⟨p, op.core, op.tid, 0, false, op.id, noLane⟩
      updEngine s op.id fun e => { e with asked := key :: e.asked }) s

/-- The bytes lie in the payload or the scales of an enabled BF16 window (R388 CODE 3). -/
def underWindow (s : State) (pa n : Nat) : Bool :=
  (List.range 16).any fun w =>
    let blocks := csrRaw s (csrLen w) / 128
    let meet (lo len : Nat) : Bool := decide (pa < lo + len) && decide (lo < pa + n)
    csrRaw s (csrAw w) % 2 == 1 && (meet (csrRaw s (csrPay w)) (blocks * (if csrRaw s (csrAwFmt w) % 2 = 0 then 64 else 48))
      || meet (csrRaw s (csrScl w)) blocks)

/-- The outcome of an engine write: performed; sent to a peer; a fault under R387; the end under R388. -/
inductive EngPut where
  | done (s : State)
  | sent (s : State)
  | fault (cause code : Nat) (addr : Nat)
  | stuck
  deriving DecidableEq, Repr

/-- All the bits of n bytes. -/
def allBits (n : Nat) : Nat := 2 ^ (8 * n) - 1

/-- A value with only the bits of a mask replaced. -/
def mergeBits (n bm old x : Nat) : Nat := if bm = allBits n then x else (x &&& bm) ||| (old &&& (allBits n ^^^ bm))

/-- An EWR packet for bytes of one line (Table 14.2). Where it changes only some of their bits, OPERAND says which, under bit 63 (log 16). -/
def ewrPacket (op : EngOp) (pkg off n bm x : Nat) : Packet :=
  { packet 0x0F pkg op.ctx (off / 128 * 128) with
      len := 2, mask := byteMask off n, operand := BitVec.ofNat 64 (if bm = allBits n then 0 else bm + 2 ^ 63)
      data := x % 2 ^ (8 * n) * 2 ^ (8 * (off % 128)) }

/-- One piece of an engine write, of the bits of a mask: one access, which leaves every other bit as it was (R209). -/
def writePiece (s : State) (op : EngOp) (va n bm x : Nat) : EngPut :=
  let put (loc : Loc) : EngPut :=
    .done (placeWrite (enterL2 s op.ctx loc) op.core loc n (if bm = allBits n then x else mergeBits n bm (placeRead s loc n) x))
  if inAperture va then
    match spadPlace s (opGroup op) (va % 2 ^ 28) 0 n with
    | .ok loc => match lostAt s op.core loc with
      | some c => .fault 0x0E c va
      | none => put loc
    | .error c => .fault 0x07 c va
  else match translateNow s op.ctx va 5 with
    | .ok (.peer p off) =>
      if unreachable s p ≠ 0 then .fault 0x0F (unreachable s p) va
      else
        let pk := ewrPacket op p off n bm x
        let s := sendOn s pk (linePlane off p) ⟨pk, op.core, op.tid, va, false, op.id, noLane⟩
        .sent (updEngine s op.id fun e => { e with inFlight := e.inFlight + 1 })
    | .ok (.hbm pa) =>
      if op.kind ≠ .qntEnc ∧ op.kind ≠ .qntDec ∧ underWindow s pa n then .stuck
      else match lostAt s op.core (.hbm pa) with
        | some c => .fault 0x0E c va
        | none => put (.hbm pa)
    | .ok loc => put loc
    | .fault c => .fault 0x09 c va
    | .miss => .fault 0x09 1 va

/-- An engine write of n bytes: its first fault stops it before any piece is written. The number of bytes landed at once comes
with the state. -/
def engWrite (s : State) (op : EngOp) (va n bm x : Nat) : EngPut × Nat :=
  let ps := piecesOf va n
  let part (a n v : Nat) : Nat := v / 2 ^ (8 * (a - va)) % 2 ^ (8 * n)
  let test := ps.findSome? fun p => match writePiece s op p.1 p.2 (allBits p.2) 0 with
    | .fault c k a => some (EngPut.fault c k a)
    | .stuck => some .stuck
    | _ => none
  match test with
  | some e => (e, 0)
  | none =>
    let r := ps.foldl (fun (acc : State × Nat) p =>
      match writePiece acc.1 op p.1 p.2 (part p.1 p.2 bm) (part p.1 p.2 x) with
      | .done s => (s, acc.2 + p.2)
      | .sent s => (s, acc.2)
      | _ => acc) (s, 0)
    (.done r.1, r.2)

/-- Every line of this package's memory in an engine's byte range finds its miss entry at its home (R245). -/
def rangeRoom (s : State) (op : EngOp) (va n kind : Nat) : Bool :=
  (piecesOf va n).all fun p => inAperture p.1 || (match translateNow s op.ctx p.1 kind with
    | .ok loc => homeRoom s loc
    | _ => true)

/-! Landing (R249). -/

/-- Bytes landed in one chunk of a record. -/
def landChunk (r : Arrival) (c k : Nat) : Arrival :=
  let left := getT 0 r.due c - k
  { r with due := putT 0 r.due c left
           chunks := if left = 0 ∧ c < 64 then r.chunks ||| BitVec.ofNat 64 (2 ^ c) else r.chunks }

/-- Bytes of an operation at a tile position have landed: RCV rises, and a chunk whose last byte has landed is set (R206). -/
def landBytes (s : State) (op : EngOp) (pos n : Nat) : State :=
  let s := updEngine s op.id fun e => { e with landed := e.landed + n }
  if !op.useRec ∨ n = 0 then s
  else
    let r := recordAt s op.recBlk op.recIdx
    let cs := (List.range ((pos + n - 1) / 512 - pos / 512 + 1)).map (pos / 512 + ·)
    let r := cs.foldl (fun r c => landChunk r c (chunkPart pos n c)) { r with rcv := r.rcv + BitVec.ofNat 40 n }
    putArrival s op.recBlk op.recIdx r

/-- The address of a fault that an operation reports: the page, but for an address that no page holds (R387). -/
def faultAddr (s : State) (op : EngOp) (cause code va : Nat) : Nat :=
  (if (cause = 0x09 ∧ code ≠ 5) ∨ cause = 0x0E then pageBase s op.ctx va else va) % 2 ^ 57

/-- Report a fault of an operation at its element (R387, R402). VALUE of a bundle's sub-packet is as the cause gives (R428). -/
def engFault (s : State) (op : EngOp) (kind cause code va : Nat) : State :=
  let pkg := match translateNow s op.ctx va kind with
    | .ok (.peer p _) => p
    | _ => 0
  let fails (x : Nat × Nat) : Bool := !inAperture x.2 && (match engRead s op x.2 (word op.desc 1).toNat with
    | .fault c _ _ => c == cause
    | _ => false)
  let bad := if op.kind = .cpyL ∧ kind = 4 then (op.lanes.drop op.pos).filter fails else []
  let pages := if bad = [] then [faultAddr s op cause code va] else sortNat (bad.map fun x => faultAddr s op cause code x.2)
  let value := if cause = 0x0F then pkg else if op.cq ∧ cause ≠ 0x09 then 0 else kind
  let s := updEngine s op.id fun e => { e with got := e.got.filter fun x => decide (x.2 < refusedLine) }
  stopOp s op { cause := cause, code := code, value := value, mask := maskOf (bad.map fun x => x.1), addrs := pages }

/-- Go on to the next element. -/
def nextElem (s : State) (op : EngOp) : State := updEngine s op.id fun e => { e with pos := e.pos + 1 }

/-- Write the bits of a mask of an element, and count what has landed. -/
def putBits (s : State) (op : EngOp) (dst n bm pos x : Nat) (k : State → State) : State :=
  match engWrite s op dst n bm x with
  | (.fault c code a, _) => engFault s op 5 c code a
  | (.stuck, _) => failOp s op 3
  | (.done t, m) => k (landBytes t op pos m)
  | (.sent t, m) => k (landBytes t op pos m)

/-- Write an element. -/
def putElem (s : State) (op : EngOp) (dst n pos x : Nat) (k : State → State) : State := putBits s op dst n (allBits n) pos x k

/-- A write of an element would not be performed. -/
def putFails (s : State) (op : EngOp) (dst n : Nat) : Bool := match (engWrite s op dst n 0 0).1 with
  | .fault _ _ _ => true
  | .stuck => true
  | _ => false

/-- Dirty words of this package's memory reach their home before an engine reads them (R207, R240), and its lines enter L2 (R244). -/
def recallFor (s : State) (op : EngOp) (va n : Nat) : State :=
  (piecesOf va n).foldl (fun s p =>
    if inAperture p.1 then s
    else match translateNow s op.ctx p.1 4 with
      | .ok (.hbm pa) => recallRange (enterL2 s op.ctx (.hbm pa)) pa p.2
      | .ok loc => enterL2 s op.ctx loc
      | _ => s) s

/-- Read, then go on. -/
def getElem (s : State) (op : EngOp) (src n : Nat) (k : State → Nat → State) : State :=
  match engRead s op src n with
  | .ok x => if rangeRoom s op src n 4 then k (recallFor s op src n) x else s
  | .ask l => askLines s op l
  | .fault c code a => engFault s op 4 c code a

/-- The fill pattern of a unit (R208). -/
def fillUnit (d : List (BitVec 64)) : Nat :=
  let c := recFill d % 64
  if isT6 (recFmt d) then c * (1 + 2 ^ 6 + 2 ^ 12 + 2 ^ 18) else recFill d % 2 ^ (8 * elemSize (recFmt d))

/-- A unit whose elements from `keep` on are replaced (R208, R209). -/
def mergeUnit (keep x y : Nat) : Nat := if keep < 4 then x % 2 ^ (6 * keep) + y / 2 ^ (6 * keep) * 2 ^ (6 * keep) else x

/-- An element of a tile in a store format, with its flags (R221). -/
def tileElem (s : State) (op : EngOp) (i : Nat) : Nat × Flags :=
  let cols := max 1 (bits (word op.desc 1) 14 8)
  let x := (getT 0 (matrixOf s (cluOfCore op.core)).tiles ((op.tile * 64 + i / cols) * 64 + i % cols)).toNat
  let fmt := bits (word op.desc 1) 39 32
  if fmt = 0x02 then (x, 0) else elemRound fmt (unpack fmtF x)

/-- OR flags into an operation. -/
def opFlags (s : State) (op : EngOp) (f : Flags) : State := updEngine s op.id fun e => { e with flags := e.flags ||| f }

/-- One step of a quantise request (R225): source codes to destination codes. -/
def qntStepValue (op : EngOp) (x scale : Nat) : Nat × Nat × Flags :=
  let t := qntTaper op
  let b := qntBinary op
  let n := qntStep op
  let bw := 8 * elemSize b
  let tw := if isT6 t then 6 else 8
  if op.kind = .qntEnc then
    let xs := (List.range n).map fun i => unpack (if b = 0x02 then fmtF else if b = 0x03 then fmtH else fmtB) (x / 2 ^ (bw * i) % 2 ^ bw)
    if isScaled t then
      let r := encodeBlock (t == 0x12) xs
      (blockPayload (t == 0x12) r.2.1, r.1, r.2.2)
    else
      let rs := xs.map (elemRound t)
      ((rs.foldr (fun r acc => r.1 % 2 ^ tw + acc * 2 ^ tw) 0), 0, rs.foldl (fun a r => a ||| r.2) 0)
  else
    let rs := (List.range n).map fun i => elemRound b (elemValue t scale (x / 2 ^ (tw * i) % 2 ^ tw))
    (rs.foldr (fun r acc => r.1 % 2 ^ bw + acc * 2 ^ bw) 0, 0, rs.foldl (fun a r => a ||| r.2) 0)

/-- The next step of a quantise request. A block whose scale cannot be written does not land at all (R387). -/
def landQuantise (s : State) (op : EngOp) : State :=
  let i := op.pos
  let d := op.desc
  let enc := op.kind == .qntEnc
  let src := bits (word d 0) 56 0 + i * (if enc then qntBin op else qntPay op)
  let dst := bits (word d 1) 56 0 + i * (if enc then qntPay op else qntBin op)
  let scl := bits (word d 2) 56 0 + i
  let scaled := isScaled (qntTaper op)
  let size := if enc then qntPay op else qntBin op
  let go (s : State) (x scale : Nat) : State :=
    let r := qntStepValue op x scale
    if enc ∧ scaled ∧ ¬ putFails s op dst size ∧ putFails s op scl 1 then putElem s op scl 1 0 r.2.1 id
    else putElem s op dst size 0 r.1 fun s =>
      let s := opFlags s op r.2.2
      if enc ∧ scaled then putElem s op scl 1 0 r.2.1 fun s => nextElem s op else nextElem s op
  getElem s op src (if enc then qntBin op else qntPay op) fun s x =>
    if !enc ∧ scaled then getElem s op scl 1 fun s c => go s x c else go s x 0

/-- The next element of a copy or a tile store. -/
def landElem (s : State) (op : EngOp) : State :=
  let e := elemAt op op.pos
  if !e.live then nextElem s op
  else match op.kind with
    | .mst =>
      let r := tileElem s op op.pos
      putElem s op e.dst e.size e.pos r.1 fun s => nextElem (opFlags s op r.2) op
    | .cpyT =>
      match e.src with
      | none => putElem s op e.dst e.size e.pos (fillUnit op.desc) fun s => nextElem s op
      | some a => getElem s op a e.size fun s x =>
        putElem s op e.dst e.size e.pos (mergeUnit e.keep x (fillUnit op.desc)) fun s => nextElem s op
    | .cpyTs =>
      getElem s op (e.src.getD 0) e.size fun s x =>
        putBits s op e.dst e.size (if e.keep < 4 then 2 ^ (6 * e.keep) - 1 else allBits e.size) e.pos x fun s => nextElem s op
    | _ => getElem s op (e.src.getD 0) e.size fun s x => putElem s op e.dst e.size e.pos x fun s => nextElem s op

/-- The bytes that the next element of an operation is to write find their miss entries (R245). -/
def writeRoom (s : State) (op : EngOp) : Bool :=
  if op.kind = .qntEnc then
    rangeRoom s op (bits (word op.desc 1) 56 0 + op.pos * qntPay op) (qntPay op) 5
      && (!isScaled (qntTaper op) || rangeRoom s op (bits (word op.desc 2) 56 0 + op.pos) 1 5)
  else if op.kind = .qntDec then rangeRoom s op (bits (word op.desc 1) 56 0 + op.pos * qntBin op) (qntBin op) 5
  else let e := elemAt op op.pos; !e.live || rangeRoom s op e.dst e.size 5

/-- `LANDING` (R249): the next element of a running operation lands, or it asks a peer for its source, or it faults. -/
def execLanding (op : Nat) (s : State) : Out :=
  match engineOf s op with
  | none => .next s
  | some e =>
    if !opRuns s e || decide (elemCount e ≤ e.pos) || e.kind == .cpyRed || !writeRoom s e then .next s
    else .next (if e.kind = .qntEnc ∨ e.kind = .qntDec then landQuantise s e else landElem s e)

/-- `ENGINE_REQUEST_ACCEPT` (R42): the oldest request of a queue leaves it, and its slot returns. -/
def execEngineRequestAccept (op : Nat) (s : State) : Out :=
  match engineOf s op with
  | none => .next s
  | some e =>
    let sameQueue (x : EngOp) : Bool :=
      if inCopyQueue e.kind then inCopyQueue x.kind && x.core == e.core else inQuantQueue x.kind && cluOfCore x.core == cluOfCore e.core
    let older := s.engines.any fun x => sameQueue x && !x.accepted && !x.cq && decide (x.id < e.id)
    if e.accepted ∨ e.cq ∨ older ∨ ¬ (inCopyQueue e.kind ∨ inQuantQueue e.kind) then .next s
    else .next (updEngine s op fun e => { e with accepted := true })

/-- `COPY_PACKET` (R278): a bundle's copy sub-packet starts on its engine. -/
def execCopyPacket (op : Nat) (s : State) : Out :=
  .next (updEngine s op fun e => if e.cq && e.kind == .cpyRem then { e with accepted := true } else e)

/-- `QUANTISE_PACKET` (R278). -/
def execQuantisePacket (op : Nat) (s : State) : Out :=
  .next (updEngine s op fun e => if e.cq && inQuantQueue e.kind then { e with accepted := true } else e)

/-! `CPY.RED` (R88, R210, R306, R388, R389). -/

/-- Fold one contribution of 128 bytes into a prefix (R88): no flag, a NaN canonical. -/
def foldLine (fmt acc x : Nat) : Nat :=
  let size := max 1 (elemSize fmt)
  let w := 8 * size
  let one (a b : Nat) : Nat :=
    if fmt = 0x01 then (addReal fmtD 0 (unpack fmtD a) (unpack fmtD b)).1
    else if fmt = 0x02 then (addReal fmtF 0 (unpack fmtF a) (unpack fmtF b)).1
    else (a + b) % 2 ^ w
  (List.range (128 / size)).foldr (fun i r => one (acc / 2 ^ (w * i) % 2 ^ w) (x / 2 ^ (w * i) % 2 ^ w) + r * 2 ^ w) 0

/-- A line of 128 bytes with every NaN canonical (R88, R210). -/
def canonLine (fmt x : Nat) : Nat :=
  let size := max 1 (elemSize fmt)
  let w := 8 * size
  let isNan (f : FloatFmt) (a : Nat) : Bool := match unpack f a with | .nan _ => true | _ => false
  let one (a : Nat) : Nat :=
    if fmt = 0x01 then (if isNan fmtD a then nanBits fmtD else a) else if fmt = 0x02 then (if isNan fmtF a then nanBits fmtF else a) else a
  (List.range (128 / size)).foldr (fun i r => one (x / 2 ^ (w * i) % 2 ^ w) + r * 2 ^ w) 0

/-- The same reduction (R210). -/
def sameSum (k r : Reduction) : Bool := r.base == k.base && r.bytes == k.bytes && r.fmt == k.fmt && r.n == k.n && r.tag == k.tag

/-- The same line of a reduction (R210). -/
def sameRed (k r : Reduction) : Bool := sameSum k r && r.pa == k.pa && r.line == k.line

/-- Some line of the reduction has received an index from another operation (R388). -/
def repeats (s : State) (k : Reduction) (i : Nat) (who : Nat × Nat) : Bool :=
  s.reds.any fun r => sameSum k r && r.idx.any fun x => x.1 == i && x.2 != who

/-- The reduction line at the home, or a fresh one. -/
def redOf (s : State) (k : Reduction) : Reduction := (s.reds.find? (sameRed k)).getD k

/-- Fold every waiting contribution that is next in order. -/
def foldHeld : Nat → Reduction → Reduction
  | 0, r => r
  | n + 1, r =>
    let x := getT 0 r.held r.next
    if x = 0 then r
    else foldHeld n { r with acc := if r.next = 0 then canonLine r.fmt (x - 1) else foldLine r.fmt r.acc (x - 1), next := r.next + 1
                             held := putT 0 r.held r.next 0 }

/-- The contribution of an index has been received. -/
def hasIndex (r : Reduction) (i : Nat) : Bool := decide (i < r.next) || getT 0 r.held i != 0

/-- A contribution, or a prefix of indices 0 to hi (R306), reaches its line. -/
def takeRed (r : Reduction) (lo hi x : Nat) : Reduction :=
  let r := if lo = hi then { r with held := putT 0 r.held lo (x + 1) }
    else { r with acc := x, next := hi + 1, held := r.held.filter fun e => decide (hi < e.1) }
  foldHeld r.n r

/-- Bytes of the line count for every contributor of this package, once the line is written (R210). -/
def landRed (s : State) (r : Reduction) : State :=
  r.ops.foldl (fun s id => match engineOf s id with
    | some op => landBytes s op (128 * r.line) 128
    | none => s) s

/-- A reduction is over once every line of it is written: its lines are forgotten, but for those of which a prefix covered a contribution
that may still come on its own (R401). -/
def forgetSum (s : State) (k : Reduction) : State :=
  let ls := s.reds.filter fun r => sameSum k r && r.next == r.n
  if ls.length * 128 < k.bytes then s
  else { s with reds := s.reds.filter fun r => !sameSum k r
                covered := (s.covered.filter fun r => !sameSum k r) ++ ls.filter fun r => decide (r.idx.length < r.n) }

/-- A contribution that is sent again, of an index that a prefix of the last such reduction has covered (R401). -/
def lateCovered (s : State) (k : Reduction) (i : Nat) : Bool := s.covered.any fun r => sameRed k r && !r.idx.any fun x => x.1 == i

/-- What identifies a reduction line in a packet's BYTEMASK (log 25). -/
def redTag (r : Reduction) : BitVec 128 :=
  BitVec.ofNat 128 (r.tag + r.n * 2 ^ 25 + r.fmt * 2 ^ 38 + r.bytes / 128 * 2 ^ 46 + r.line * 2 ^ 64)

/-- Put a reduction line; one with every contribution is written to memory (R210), and kept as written until the whole reduction is. -/
def settleRed (s : State) (r : Reduction) : State :=
  let others := s.reds.filter fun x => !sameRed r x
  if r.next < r.n then { s with reds := others ++ [r] }
  else
    let s := homeWrite { s with reds := others ++ [{ r with acc := 0, held := [] }] } r.pa 128 r.acc
    let s := landRed s r
    let tell (s : State) (p : Nat × Nat) : State := sendLine s { packet 0x10 p.1 0 p.2 with mask := redTag r, operand := 4 } noCore 0 0 false
    forgetSum (r.pkgs.foldl tell s) r

/-- What identifies a reduction line in a RED packet's BYTEMASK; above it, the line in which the whole destination begins (log 25). -/
def redMask (op : EngOp) (line : Nat) : Nat :=
  let d := op.desc
  bits (word d 3) 63 39 + bits (word d 3) 31 16 * 2 ^ 25 + bits (word d 2) 39 32 * 2 ^ 38 + bits (word d 2) 31 0 / 128 * 2 ^ 46 + line * 2 ^ 64

/-- The reduction line at `pa` that line `line` of an operation's destination is (R210). -/
def redLine (s : State) (op : EngOp) (line pa : Nat) : Reduction :=
  let d := op.desc
  let base := match translateNow s op.ctx (bits (word d 0) 56 0) 5 with | .ok (.hbm b) => b | _ => pa
  { pa := pa, base := base, bytes := bits (word d 2) 31 0, fmt := bits (word d 2) 39 32, n := bits (word d 3) 31 16, tag := bits (word d 3) 63 39
    line := line, next := 0, acc := 0, held := [], idx := [], ctxs := [], ops := [], pkgs := [] }

/-- `REDUCTION_CONTRIBUTION` (R210): the operation's contribution to a line reaches the home; a repeated index ends it (R388). -/
def execReductionContribution (op line : Nat) (s : State) : Out :=
  match engineOf s op with
  | none => .next s
  | some e =>
    let d := e.desc
    let j := bits (word d 3) 15 0
    if !opRuns s e || e.kind != .cpyRed || e.pos != line || decide (elemCount e ≤ line) then .next s
    else
      let dst := bits (word d 0) 56 0 + 128 * line
      let start := bits (word d 0) 56 0
      .next <| getElem s e (bits (word d 1) 56 0 + 128 * line) 128 fun s x =>
        match translateNow s e.ctx dst 5 with
        | .ok (.hbm pa) =>
          let k := redLine s e line pa
          let r := redOf s k
          if underWindow s pa 128 then failOp s e 3
          else if repeats s k j (0, e.id) || hasIndex r j then failOp s e 2
          else
            let r := { r with ctxs := if r.ctxs.contains (0, e.ctx) then r.ctxs else r.ctxs ++ [(0, e.ctx)], ops := r.ops ++ [e.id]
                              idx := r.idx ++ [(j, 0, e.id)] }
            settleRed (nextElem s e) (takeRed r j j x)
        | .ok (.peer p off) =>
          if unreachable s p ≠ 0 then engFault s e 5 0x0F (unreachable s p) dst
          else
            let pk : Packet := { packet 0x0B p e.ctx (off / 128 * 128) with
              len := 2, mask := BitVec.ofNat 128 (redMask e line + (match translateNow s e.ctx start 5 with | .ok (.peer _ b) => b / 128 | _ => off / 128) * 2 ^ 82)
              operand := BitVec.ofNat 64 (j + j * 2 ^ 16 + e.id % 2 ^ 32 * 2 ^ 32), data := x }
            nextElem (sendOn s pk (bits (word d 3) 63 39 % 18) ⟨pk, e.core, e.tid, dst, false, e.id, noLane⟩) e
        | .ok _ => engFault s e 5 0x09 4 dst
        | .fault c => engFault s e 5 0x09 c dst
        | .miss => s

/-! `GATH` (R226). -/

/-- Words of n bytes read from a number. -/
def wordsFrom (x n count : Nat) : List Nat := (List.range count).map fun i => x / 2 ^ (8 * n * i) % 2 ^ (8 * n)

/-- Pairs of neighbours satisfy a relation. -/
def rising (r : Nat → Nat → Bool) : List Nat → Bool
  | a :: b :: l => r a b && rising r (b :: l)
  | _ => true

/-- The data of a sparse operand is well-formed (R226, R379). -/
def gathOk (offs idx : List Nat) (k : Nat) : Bool :=
  offs.headD 1 == 0 && rising (fun a b => decide (a ≤ b)) offs
    && (List.range (offs.length - 1)).all fun c =>
      let col := (idx.drop (offs.getD c 0)).take (offs.getD (c + 1) 0 - offs.getD c 0)
      rising (fun a b => decide (a < b)) col && col.all fun i => decide (i < k)

/-- The entries of the gather unit: column × 512 + index, value + 1. -/
def gathTable (offs idx vals : List Nat) : Table Nat :=
  (List.range (offs.length - 1)).foldl (fun t c =>
    (List.range (offs.getD (c + 1) 0 - offs.getD c 0)).foldl (fun t i =>
      let e := offs.getD c 0 + i
      putT 0 t (c * 512 + idx.getD e 0) (vals.getD e 0 + 1)) t) []

/-- A quantise or gather request of a cluster has completed (Table 10.5). -/
def countQuant (s : State) (clu : Nat) : State := { s with gqDone := putT 0 s.gqDone clu (getT 0 s.gqDone clu + 1) }

/-- A value fills a thread's token (R14, R249). -/
def fillToken (s : State) (op : EngOp) (v : Nat) : State :=
  landThread s op.tid fun g => writeK (setKEmpty g (kAt op.token) false) (kAt op.token) (BitVec.ofNat 64 v)

/-- The last stage of an operation (R249): token, entries, copies of the destination lines, flags; for a bundle's sub-packet, the
bundle's count. -/
def completeOp (s : State) (op : EngOp) (v : Nat) : State :=
  let dsts := (s.sections.filter fun e => e.op == op.id && e.dst && !e.spad).map fun e => (e.lo, e.hi)
  let s := dsts.foldl (fun s r => dropVirtual s op.core op.ctx r.1 r.2) s
  let s := dropOp s op
  if op.cq then bundleDone s op.bundle
  else
    let s := landThread (fillToken s op v) op.tid fun g => raise g op.flags
    endBlock (reap s op.tid) op.block

/-- The gather unit takes a sparse operand, when no `MMA.S` runs. -/
def fillGather (s : State) (op : EngOp) : State :=
  let d := op.desc
  let clu := cluOfCore op.core
  let n := bits (word d 3) 6 0
  let k := bits (word d 3) 17 8
  let fmt := bits (word d 3) 31 24
  let w := if fmt = 0x04 then 2 else 1
  if sparseRuns s clu then s
  else getElem s op (bits (word d 0) 56 0) (4 * (n + 1)) fun s x =>
    let offs := wordsFrom x 4 (n + 1)
    let nnz := offs.getLastD 0
    if 4096 < nnz then failOp s op 1
    else getElem s op (bits (word d 1) 56 0) (2 * nnz) fun s y =>
      getElem s op (bits (word d 2) 56 0) (w * nnz) fun s z =>
        let idx := wordsFrom y 2 nnz
        let vals := (wordsFrom z w nnz).map fun v => if fmt = 0x11 then v % 64 else v
        if !gathOk offs idx k then failOp s op 1
        else
          let m := matrixOf s clu
          let s := setMatrix s clu { m with gN := n, gK := k, gFmt := fmt, gNnz := nnz, gEnt := gathTable offs idx vals }
          countQuant (completeOp s op nnz) clu

/-- `TOKEN_FILL` (R249). -/
def execTokenFill (op : Nat) (s : State) : Out :=
  match engineOf s op with
  | none => .next s
  | some e =>
    if !opRuns s e || e.kind == .panel then .next s
    else if e.kind = .gath then .next (fillGather s e)
    else if decide (e.pos < elemCount e) || e.inFlight != 0 || (e.kind == .cpyRed && e.landed != opBytes e) then .next s
    else
      let t := completeOp s e e.landed
      .next (if inQuantQueue e.kind ∧ ¬ e.cq then countQuant t (cluOfCore e.core) else t)

end Sys2Proof.Machine
end

