-- ==== Sys2Proof/Machine/EvControl.lean ====
section
/-! DEFINITION. Writes of control registers by firmware and by the command ports, host accesses (R308, R309, R357, R358, R396, R399,
R403), and attestation (R310). -/
namespace Sys2Proof.Machine

/-! Register writes. -/

/-- STAGE of MG.STATUS (Table 14.8). -/
def stageOf (s : State) : Nat := csrRaw s csrStatus / 2 % 8

/-- Firmware runs: it has been started, or the part is ready (R310). -/
def firmwareRuns (s : State) : Bool := s.powered && (stageOf s == 4 || stageOf s == 5)

/-- A notify register. -/
def isNotify (n : Nat) : Bool := decide (0x1000000 ≤ n) && csrAccess n == .wo

/-- A command port may write the register (R309, R310, R358). -/
def portMayWrite (s : State) (port n : Nat) : Bool :=
  if n = csrSema then true
  else if isNotify n then isReady s
  else isReady s && (csrAccess n == .rw || csrAccess n == .wo) && ownerPort s == port

/-- A command port may read the register (R309, R310). -/
def portMayRead (s : State) (n : Nat) : Bool := n == csrStatus || n == csrSema || (isReady s && csrAccess n != .none)

/-- A register access by a command port wakes firmware that sleeps in a `HALT` of itself (R141). DESIGN CHOICE (log 61): an event is for the
die whose register it writes, and for every die when the register is none of one die; the spec does not say which is meant. -/
def wakeForPort (s : State) (n : Nat) : State :=
  if 0x800 ≤ n ∧ n < 0x840 then wakeFirmware s ((n - 0x800) / 16) else (List.range 4).foldl wakeFirmware s

/-- A write of a register by a command port: none when it completes with the remote-access error (R403). -/
def portWrite (s : State) (port n v : Nat) : Option State :=
  if portMayWrite s port n && csrValueOk n v then some (wakeForPort (writeReg s port 0 noCore n v) n) else none

/-- A port's writes take effect in the order of their delivery (R308, R357): a write waits while a notify write of the same port that came
before it is under way. -/
def portTurn (s : State) (port : Nat) : Bool := !(s.notifies.any fun n => n.2.2 == noCore + port)

/-- Tell a host how its write ended. -/
def answerWrite (s : State) (eth : Nat) (r : Option State) : State :=
  let t := r.getD s
  { t with host := t.host ++ [.written eth r.isSome] }

/-- A write of a register: agent 0 is firmware, 1 and 2 the command ports, on Ethernet ports 0 and 1 (R308). -/
def regWrite (s : State) (agent n v : Nat) : State :=
  if agent = 0 then
    if firmwareRuns s && (csrAccess n == .rw || csrAccess n == .wo) && csrValueOk n v then writeReg s 0 0 noCore n v else s
  else if s.powered && (agent == 1 || agent == 2) && portTurn s agent then answerWrite s (agent - 1) (portWrite s agent n v)
  else s

def isFloor (n : Nat) : Bool := decide (0x400 ≤ n) && decide (n < 0x800) && decide (n % 16 < 5)
def isCmd (n : Nat) : Bool := decide (0x800 ≤ n) && decide (n < 0x840) && n % 16 == 1
def isQcfg (n : Nat) : Bool := decide (0x100000 ≤ n) && decide (n < 0x100000 + 4 * 4096) && n % 4 == 2
def isTenant (n : Nat) : Bool := decide (0x200000 ≤ n) && decide (n < 0x200000 + 16 * 65536) && n % 16 == 1

/-- `MG_SEMA_WRITE` (R309, R406). -/
def execMgSemaWrite (agent value : Nat) (s : State) : Out := .next (regWrite s agent csrSema value)

/-- `MG_PKGID_WRITE` (R297). -/
def execMgPkgidWrite (agent value : Nat) (s : State) : Out := .next (regWrite s agent csrPkgid value)

/-- `MK_INTV_WRITE` (R358). -/
def execMkIntvWrite (agent value : Nat) (s : State) : Out := .next (regWrite s agent csrIntv value)

/-- `MK_FLOOR_WRITE` (R399, R292). -/
def execMkFloorWrite (agent num value : Nat) (s : State) : Out := .next (if isFloor num then regWrite s agent num value else s)

/-- `CX_TENANT_WRITE` (R292). -/
def execCxTenantWrite (agent num value : Nat) (s : State) : Out := .next (if isTenant num then regWrite s agent num value else s)

/-- `QC_CFG_WRITE` (R396). -/
def execQcCfgWrite (agent num value : Nat) (s : State) : Out := .next (if isQcfg num then regWrite s agent num value else s)

/-- `CSR_WRITE` (R358): a register without an event of its own. -/
def execCsrWrite (agent num value : Nat) (s : State) : Out :=
  let own := num == csrSema || num == csrPkgid || num == csrIntv || isFloor num || isCmd num || isQcfg num || isTenant num || isNotify num
  .next (if own then s else regWrite s agent num value)

/-- `ROD_CONNECTION_FAILURE` (R403). -/
def execRodConnectionFailure (port : Nat) (s : State) : Out :=
  .next (if port ≠ 0 ∧ ownerPort s = port then csrPut s csrSema 0 else s)

/-! RMA (R308). -/

/-- The command port and register of an access to control space (R357). -/
def rmaReg (r : Rma) : Option (Nat × Nat) := if r.command ∧ r.key = 0 ∧ r.port < 2 then some (r.port + 1, r.off / 8) else none

/-- The context and address of an access by a memory key; none outside the key's range, or before READY. -/
def rmaPlace (s : State) (r : Rma) : Option (Nat × Nat) :=
  let k := getT {} s.memKeys r.key
  if r.key ≠ 0 ∧ isReady s ∧ r.port < 4 ∧ (¬ r.command ∨ r.port < 2) ∧ r.off + r.size ≤ k.len then some (k.ctx, k.base + r.off) else none

/-- A piece that a host may write: it translates with W, and its package can be reached. -/
def rmaOk (s : State) (ctx va : Nat) : Bool := match translateNow s ctx va 1 with
  | .ok (.peer p _) => unreachable s p == 0 && fabricUp s
  | .ok _ => true
  | _ => false

/-- `RMA_WRITE` (R308): a register write, or bypass stores of one context. -/
def execRmaWrite (r : Rma) (s : State) : Out :=
  if !s.powered || (r.command && !portTurn s (r.port + 1) && r.key != 0) then .next s
  else match rmaReg r with
    | some (port, n) =>
      let sized := r.off % 8 == 0 && (r.size == 8 || (r.size == 4 && isNotify n))
      if !portTurn s port && !isNotify n then .next s
      else .next (answerWrite s r.port (if sized then portWrite s port n (r.data % 2 ^ (8 * r.size)) else none))
    | none => match rmaPlace s r with
      | none => .next (answerWrite s r.port none)
      | some (ctx, va) =>
        let ps := piecesOf va r.size
        if ps.all fun p => rmaOk s ctx p.1 then
          let put (s : State) (p : Nat × Nat) : State :=
            (devWrite s ctx p.1 p.2 (r.data / 2 ^ (8 * (p.1 - va)) % 2 ^ (8 * p.2))).getD s
          .next (answerWrite s r.port (some (ps.foldl put s)))
        else .next (answerWrite s r.port none)

/-- One piece of a host read: a peer's line comes into a buffer of the port first. -/
def rmaPiece (s : State) (ctx va n : Nat) : EngGot :=
  match translateNow s ctx va 0 with
  | .ok (.peer p off) =>
    let l := rdcLine s noCore (lineKey (.peer p off))
    if l.dirty ≠ 0 then .fault 0x09 3 va
    else if lineHas l (off % 128) n then .ok (lineRead l (off % 128) n)
    else if unreachable s p ≠ 0 ∨ ¬ fabricUp s then .fault 0x0F 0 va
    else .ask [(p, off / 128 * 128)]
  | .ok loc => .ok (placeRead s loc n)
  | .fault c => .fault 0x09 c va
  | .miss => .fault 0x09 1 va

/-- Ask peers for lines on behalf of a host or of the command processor, once each; a package that cannot be reached is not asked. -/
def rmaAsk (s : State) (ctx : Nat) (l : List (Nat × Nat)) : State :=
  l.foldl (fun s x =>
    if unreachable s x.1 ≠ 0 ∨ ¬ fabricUp s then s
    else if s.kept.any fun k => k.core == noCore && k.packet.kind == 0x01 && k.packet.dst == x.1 && k.packet.offset == x.2 then s
    else sendLine s (packet 0x01 x.1 ctx x.2) noCore 0 0 false) s

/-- Tell a host how its read ended; the port's buffer is empty again. -/
def answerRead (s : State) (eth : Nat) (good : Bool) (x : Nat) : State :=
  { s with host := s.host ++ [.read eth good x], rdc := s.rdc.filter fun e => e.1 / 2 ^ 60 != noCore }

/-- `RMA_READ` (R308): a register read, or bypass loads of one context. A read that needs a peer's line asks for it, and is answered
when it is taken again with the line there. -/
def execRmaRead (r : Rma) (s : State) : Out :=
  if !s.powered then .next s
  else match rmaReg r with
    | some (_, n) =>
      if r.off % 8 = 0 ∧ r.size = 8 ∧ portMayRead s n then .next (answerRead s r.port true (csrRead s n))
      else .next (answerRead s r.port false 0)
    | none => match rmaPlace s r with
      | none => .next (answerRead s r.port false 0)
      | some (ctx, va) =>
        match (piecesOf va r.size).foldr (fun p acc => joinGot p.2 (rmaPiece s ctx p.1 p.2) acc) (.ok 0) with
        | .ok x => .next (answerRead s r.port true x)
        | .ask l => .next (rmaAsk s ctx l)
        | .fault _ _ _ => .next (answerRead s r.port false 0)

/-- `ATTESTATION_REQUEST` (R310): the answer covers the nonce, the firmware digest and the configuration; the signature is a free
value (log 22). -/
def execAttestationRequest (nonce : Nat) (s : State) : Out :=
  if isReady s then
    let (n, s) := drawFree s
    .next { s with host := s.host ++ [.attest nonce Config.firmwareDigest Config.firmwareConfig (Config.freeSignature n)] }
  else .next s

/-! Bring-up (R310, R404). -/

/-- Set READY and STAGE, keeping the rest of MG.STATUS. -/
def putStage (s : State) (stage : Nat) (ready : Bool) : State :=
  csrPut s csrStatus (csrRaw s csrStatus / 16 * 16 + stage * 2 + bit ready)

/-- The reserved core of a die: local core 2 of its lowest-numbered cluster that passes self-test (R18). -/
def reservedCore (failed : List Nat) (die : Nat) : Option Nat :=
  (((List.range 8).map (8 * die + ·)).find? fun c => !failed.contains c).map fun c => 3 * c + 2

/-- The FWCORE fields (Table 14.8). -/
def fwFields (failed : List Nat) : Nat :=
  (List.range 4).foldl (fun acc d => acc + ((reservedCore failed d).getD 0) * 2 ^ (8 + 8 * d)) 0

/-- `POWER_GOOD` (R310): bring-up begins at stage 1. -/
def execPowerGood (s : State) : Out := .next (if s.powered then s else { s with powered := true })

/-- `BRINGUP_STAGE_DONE` (R310): the next stage begins; stage 2 has zeroed memory; stage 4 has reserved the firmware cores and
withheld the clusters that failed self-test. A die without a good cluster has no firmware core, and stage 4 fails. -/
def execBringupStageDone (failed : List Nat) (s : State) : Out :=
  if !s.powered || isReady s then .next s
  else match stageOf s with
    | 1 => .next (putStage s 2 false)
    | 2 => .next (putStage { s with mem := [] } 3 false)
    | 3 => .next (putStage s 4 false)
    | 4 =>
      let bad := sortNat (failed.filter fun c => decide (c < 32))
      if (List.range 4).any fun d => (reservedCore bad d).isNone then .next (putStage s 7 false)
      else .next (putStage (csrPut { s with withheld := bad } csrStatus (csrRaw s csrStatus % 256 + fwFields bad)) 5 true)
    | _ => .next s

/-- `BRINGUP_STAGE_TIMEOUT` (R404): a stage fails or exceeds its bound; STAGE becomes 6 for a signature that was rejected, else 7. -/
def execBringupStageTimeout (rejected : Bool) (s : State) : Out :=
  if !s.powered || isReady s || !(1 ≤ stageOf s && stageOf s ≤ 4) then .next s
  else .next (putStage s (if rejected && stageOf s == 3 then 6 else 7) false)

/-- `POWER_LOSS` (R404): all state ends. What has left the part, and what is to come from outside, stay. -/
def execPowerLoss (s : State) : Out :=
  .next { State.reset with tape := s.tape, free := s.free, tick := s.tick, nextId := s.nextId, sent := s.sent, host := s.host }

/-- `TAKEOVER_REPORT_SEND_COMPLETE` (R406): the oldest send under way ends. A report that one send of it has brought to a port is no longer
kept; one that was not delivered is kept for the next claim. -/
def execTakeoverReportSendComplete (good : Bool) (s : State) : Out :=
  match s.reporting with
  | [] => .next s
  | (_, r) :: rest => .next { s with reporting := rest, reports := if good then s.reports.erase r else s.reports }

end Sys2Proof.Machine
end

