-- ==== Sys2Proof/Machine/System.lean ====
section
/-! DEFINITION. Special registers, system instructions, barriers and fences (majors 0x18 to 0x1A, R134 to R146). -/
namespace Sys2Proof.Machine

/-! Special registers (Table 07.6). -/

/-- An earlier instruction of the thread that can raise a flag has not completed (R136). -/
def pendingFlags (s : State) (g : Group) : Bool :=
  (s.flights.any fun f => f.tid == g.tid && f.atoms.any fun a => foldsFirst a.op)
    || (s.engines.any fun e => e.tid == g.tid && !e.cq && (e.kind == .qntEnc || e.kind == .qntDec))
    || (s.matrix.any fun m => m.2.queue.any fun e => e.tid == g.tid)

/-- The value of a special register but `s.clock`. -/
def specialValue (s : State) (g : Group) (n : Nat) : BitVec 64 :=
  let m := onMcc g
  match n with
  | 0x00 => g.fmt.zeroExtend 64
  | 0x01 => g.wv.zeroExtend 64
  | 0x02 => g.fpflags.zeroExtend 64
  | 0x08 => BitVec.ofNat 64 (if m then 0 else g.lane0)
  | 0x09 => BitVec.ofNat 64 (if m then 0 else g.grp)
  | 0x0A => BitVec.ofNat 64 g.blk
  | 0x0B => BitVec.ofNat 64 g.nblk
  | 0x0C => BitVec.ofNat 64 (if m then 0 else g.rows)
  | 0x0D => BitVec.ofNat 64 g.core
  | 0x0E => BitVec.ofNat 64 (cluOfCore g.core)
  | 0x0F => BitVec.ofNat 64 (dieOfCore g.core)
  | 0x10 => BitVec.ofNat 64 (pkgNum s)
  | 0x11 => BitVec.ofNat 64 g.ctx
  | 0x14 => BitVec.ofNat 64 g.shape0
  | 0x15 => BitVec.ofNat 64 g.shape1
  | 0x16 => BitVec.ofNat 64 g.shape2
  | 0x17 => BitVec.ofNat 64 g.shape3
  | 0x18 => BitVec.ofNat 64 (if m then 0 else g.pad)
  | _ => 0

/-- The cycle count of a core's own counter (R24): it has moved on by a free number of cycles since it was last read (log 5). -/
def readClock (s : State) (core : Nat) : Nat × State :=
  let (n, s) := drawFree s
  let c := getT 0 s.clocks core + Config.freeClock n
  (c, { s with clocks := putT 0 s.clocks core c })

/-- `GET` (R134 to R136). -/
def execGet (d num : Fin 64) (s : State) : Out :=
  issue s (.get d num) <| withOperands s { dstK := [d] } <|
    if num.val = 2 ∧ pendingFlags s s.g then stall s
    else if num.val = 0x12 then
      let c := readClock s s.g.core
      finish c.2 (writeK s.g d (BitVec.ofNat 64 c.1))
    else finish s (writeK s.g d (specialValue s s.g num.val))

/-- `SET` (R134, R136). -/
def execSet (num a : Fin 64) (s : State) : Out :=
  issue s (.set num a) <| withOperands s { srcs := [.k a false] } <|
    let x := readK s.g a
    match num.val with
    | 0 => if fmtOk x then finish s { s.g with fmt := x.truncate 16 } else opValue s (.set num a) a
    | 1 => if x.toNat < 256 then finish s { s.g with wv := x.truncate 8 } else opValue s (.set num a) a
    | _ =>
      if 32 ≤ x.toNat then opValue s (.set num a) a
      else if pendingFlags s s.g then stall s
      else finish s { s.g with fpflags := x.truncate 5 }

/-! System instructions. -/

/-- `TRAP` (R137, R359): the record names the word after it, and the thread goes on there. -/
def execTrap (a n : Fin 64) (s : State) : Out :=
  issue s (.trap a n) <| withOperands s { srcs := [.k a false] } <|
    let r := { recordOf s.g { cause := 0x11, code := n.val, value := (readK s.g a).toNat } with pc := wrap64 (s.g.pc + 4) }
    .next (postRecord (stopFor { s with g := advance s.g } s.g) r)

/-- A number that `RETT` and `HALT` admit: a core of the issuing die (R138, R141). -/
def coreHere (g : Group) (x : Nat) : Bool := decide (x < 128) && dieOfCore x == dieOfCore g.core

/-- A record of the core waits at its source, so the core stays stopped (R362). -/
def recordWaits (s : State) (core : Nat) : Bool := s.trapWait.any fun r => r.core + (if r.mcc then 96 else 0) == core && !r.cq

/-- `RETT` (R138, R364). It waits while a halted `LOCK` of the core has no answer to its withdrawal (R48 step 4). -/
def execRett (d a : Fin 64) (s : State) : Out :=
  issue s (.rett d a) <| withOperands s { srcs := [.k a false], dstK := [d] } <|
    let x := (readK s.g a).toNat
    if !coreHere s.g x then finish s (writeK s.g d 2)
    else if !coreStopped s x then finish s (writeK s.g d 1)
    else if recordWaits s x ∨ withdrawing s (fun g => g.core == x) then stall s
    else
      let s := resumeCore s x
      finish s (writeK s.g d 0)

/-- `CSRR` (R139, R376). -/
def execCsrr (d a : Fin 64) (s : State) : Out :=
  issue s (.csrr d a) <| withOperands s { srcs := [.k a false], dstK := [d] } <|
    let n := (readK s.g a).toNat % 2 ^ 32
    if csrAccess n = .none then opValue s (.csrr d a) a
    else finish s (writeK s.g d (BitVec.ofNat 64 (csrRead s n)))

/-- `CSRW` (R139, R358, R376): the thread waits until the write and its side effects have taken place. -/
def execCsrw (a b : Fin 64) (s : State) : Out :=
  issue s (.csrw a b) <| withOperands s { srcs := [.k a false, .k b false] } <|
    let n := (readK s.g a).toNat % 2 ^ 32
    let v := (readK s.g b).toNat
    if csrAccess n = .none ∨ csrAccess n = .ro then opValue s (.csrw a b) a
    else if !csrValueOk n v then opValue s (.csrw a b) b
    else
      let t := writeReg s 0 s.g.tid s.g.core n v
      finish t (if csrTakesTime n then { s.g with wait := .command n } else s.g)

/-- `TLBINV` (R140): the thread waits for every walk in flight, then the entries go, and with them what the page walkers still hold of walks
that found no leaf; mode 3 empties the fabric MMU. -/
def execTlbinv (mode a b : Fin 64) (s : State) : Out :=
  issue s (.tlbinv mode a b) <| withOperands s { srcs := [.k a false, .k b false] } <|
    if s.walks.any fun w => w.code == 0 then stall s
    else
      let va := (readK s.g a).toNat
      let ctx := (readK s.g b).toNat % 2 ^ 16
      let keep (t : Tlb) : Bool :=
        match mode.val with
        | 0 => !(t.ctx == ctx && decide (t.va ≤ va) && decide (va < t.va + t.size))
        | 1 => t.ctx != ctx
        | 2 => false
        | _ => true
      let keepWalk (w : Walk) : Bool :=
        match mode.val with
        | 0 => !(w.ctx == ctx && w.va == pageOf va)
        | 1 => w.ctx != ctx
        | 2 => false
        | _ => true
      finish { s with tlb := s.tlb.filter keep, walks := s.walks.filter keepWalk, fmTlb := if mode.val = 3 then [] else s.fmTlb } s.g

/-- Every thread of a halted core has stopped: no `LOCK` still waits for the answer to its withdrawal, and every load and atomic that was
issued has landed and every window is over (R48 steps 2 to 4). -/
def haltDone (s : State) (core : Nat) : Bool :=
  (threads s).all fun g => g.core != core || (quiet s g.tid && (windowOf s g.tid).isNone && (match g.wait with | .lock _ _ => false | _ => true))

/-- `HALT` (R141). A core that names itself sleeps until it is woken: steps 1 to 4 of R48 stop its other groups. -/
def execHalt (d a : Fin 64) (s : State) : Out :=
  issue s (.halt d a) <| withOperands s { srcs := [.k a false], dstK := [d] } <|
    let x := (readK s.g a).toNat
    if !coreHere s.g x then finish s (writeK s.g d 2)
    else if x = s.g.core then
      let t := haltWhere s fun g => g.core == x && g.tid != s.g.tid
      finish t { writeK t.g d 3 with wait := .sleep }
    else if coreStopped s x then finish s (writeK s.g d 1)
    else
      let t := stopCore s x
      finish t { writeK t.g d 0 with wait := if haltDone t x then .none else .halting x }

/-! Barriers (R44, R45, R142). -/

/-- ILLEGAL 9, NOTMEMBER (R376). -/
def withMember (s : State) (i : Instr) (gang : Bool) (n : Nat) (k : Out) : Out :=
  issue s i <| if isMember s s.g gang n then k else takeTrap s { cause := 0x01, code := 9, value := wordOf i }

/-- The thread waits at a barrier until the phase of its last arrival has completed and its accesses have landed; then an acquire. -/
def waitPhase (s : State) (gang : Bool) (n : Nat) : State :=
  let w := { s.g with wait := .barrier gang n (getT 0 s.g.barP (barKey gang n)) }
  if !awaiting s s.g gang n && quiet s s.g.tid then acquire s s.g.core else { s with g := w }

/-- `BARA`: the release, the wait for an arrival of its own in this phase, then the arrival. -/
def barArrive (s : State) (i : Instr) (gang : Bool) (n : Nat) : Out :=
  withMember s i gang n <|
    if !released s s.g.core || !readsDone s s.g.tid || awaiting s s.g gang n then stall s
    else let t := arrive s gang n; finish t t.g

/-- `BARW`. -/
def barWait (s : State) (i : Instr) (gang : Bool) (n : Nat) : Out :=
  withMember s i gang n <| let t := waitPhase s gang n; finish t t.g

/-- `BAR`: arrive, then wait. -/
def barBoth (s : State) (i : Instr) (gang : Bool) (n : Nat) : Out :=
  withMember s i gang n <|
    if !released s s.g.core || !readsDone s s.g.tid || awaiting s s.g gang n then stall s
    else let t := waitPhase (arrive s gang n) gang n; finish t t.g

def execBarB (n : Fin 64) (s : State) : Out := barBoth s (.barB n) false n.val
def execBaraB (n : Fin 64) (s : State) : Out := barArrive s (.baraB n) false n.val
def execBarwB (n : Fin 64) (s : State) : Out := barWait s (.barwB n) false n.val
def execBarG (n : Fin 64) (s : State) : Out := barBoth s (.barG n) true n.val
def execBaraG (n : Fin 64) (s : State) : Out := barArrive s (.baraG n) true n.val
def execBarwG (n : Fin 64) (s : State) : Out := barWait s (.barwG n) true n.val

/-- What ends a wait of the current thread without an event of its own: a barrier's phase, a halt (R142, R141). -/
def resumeWait (s : State) : State :=
  match s.g.wait with
  | .barrier gang n _ =>
    if !awaiting s s.g gang n && quiet s s.g.tid then { acquire s s.g.core with g := { s.g with wait := .none } } else s
  | .halting core => if haltDone s core then { s with g := { s.g with wait := .none } } else s
  | _ => s

/-! Fences (R143 to R146). -/

/-- `FENCE.ACQ` (R143). -/
def execFenceAcq (s : State) : Out :=
  issue s .fenceAcq <| if quiet s s.g.tid then finish (acquire s s.g.core) s.g else stall s

/-- `FENCE.REL` (R143). -/
def execFenceRel (s : State) : Out :=
  issue s .fenceRel <| if released s s.g.core then finish s s.g else stall s

/-- `FENCE.AR` (R143). -/
def execFenceAr (s : State) : Out :=
  issue s .fenceAr <| if released s s.g.core && quiet s s.g.tid then finish (acquire s s.g.core) s.g else stall s

/-- Nothing that the thread has written is still on its way: to this package, to a peer, to a group of packages, or as a flag. -/
def writesDone (s : State) (g : Group) : Bool :=
  released s g.core && !(s.kept.any fun k => k.tid == g.tid && [0x03, 0x06, 0x0A].contains k.packet.kind) && !(s.flagWrites.any fun w => w.tid == g.tid)

/-- `FENCE.ENG` (R144): every store and atomic of the group has been performed, at a peer as well. -/
def execFenceEng (s : State) : Out :=
  issue s .fenceEng <| if writesDone s s.g then finish s s.g else stall s

/-- `FENCE.FLAG` (R145). -/
def execFenceFlag (a b : Fin 64) (s : State) : Out :=
  issue s (.fenceFlag a b) <| withOperands s { srcs := [.k a false, .k b false] } <|
    withAccess s ⟨1, 8, 8, false, false⟩ [(0, (readK s.g a).toNat)] fun l =>
      let ws := l.map fun x => (⟨s.g.core, s.g.tid, s.g.ctx, x.2.1, x.2.2, readK s.g b⟩ : FlagWrite)
      if !readsDone s s.g.tid then stall s
      else .next (settleFlags (countIssue { s with g := advance s.g, flagWrites := s.flagWrites ++ ws }))

/-- `FLUSHR` (R146): a peer is asked once everything the core sent it has been performed there, flags that still wait included. -/
def execFlushr (a : Fin 64) (s : State) : Out :=
  issue s (.flushr a) <| withOperands s { srcs := [.k a false] } <|
    let va := (readK s.g a).toNat / 8 * 8
    withAccess s ⟨0, 0, 1, false, false⟩ [(0, va)] fun l =>
      match l with
      | (_, _, .peer p off) :: _ =>
        if settledAt s s.g.core (some p) && !(s.flagWrites.any fun w => w.core == s.g.core && peerPkg w.loc == some p) then
          .next { sendLine s (packet 0x08 p s.g.ctx off) s.g.core s.g.tid va false with g := { s.g with wait := .flush p } }
        else stall s
      | _ => if released s s.g.core then finish s s.g else stall s

end Sys2Proof.Machine
end

