-- ==== Sys2Proof/Machine/EvSync.lean ====
section
/-! DEFINITION. The events of barriers, queue-lock units and monitors (R44, R45, R48, R200 to R202, R380). An event that is not
enabled changes nothing. -/
namespace Sys2Proof.Machine


/-! Gang barriers. -/

/-- `BARRIER_MESSAGE` (R44): the home cluster counts the arrival; the thread's phase is that of the home. -/
def execBarrierMessage (gang n tid : Nat) (s : State) : Out :=
  if s.barMsgs.contains (gang, n, tid) then
    let s := { s with barMsgs := s.barMsgs.erase (gang, n, tid) }
    let b := getT {} (gangOf s gang).bars n
    let s := updThread s tid fun g => markArrival g true n b.phase
    .next (putGangBar s gang n (arriveAt b tid))
  else .next s

/-- `BARRIER_RELEASE` (R44): the group learns that its phase has completed. -/
def execBarrierRelease (gang n tid : Nat) (s : State) : Out :=
  .next { s with barRels := s.barRels.erase (gang, n, tid) }

/-! Locks. -/

def lockOf (s : State) (key : Nat) : Lock := getT {} s.locks key
def putLock (s : State) (key : Nat) (l : Lock) : State := { s with locks := putT {} s.locks key l }

/-- The slice that keeps a lock (R200). -/
def lockSlice (key : Nat) : Nat := homeSlice (8 * key)

/-- Entries that a slice holds. -/
def entriesOf (s : State) (slice : Nat) : Nat := (s.locks.filter fun e => e.2.entry && lockSlice e.1 == slice).length

/-- Hand a lock to its oldest waiter, or mark it free and give its entry back (R201). -/
def handOver (s : State) (key : Nat) : State :=
  match (lockOf s key).waiters with
  | t :: ts => { putLock s key { holder := t + 1, waiters := ts, entry := true } with lockMsgs := s.lockMsgs ++ [.grant key t] }
  | [] => putLock s key {}

/-- The core and the slice of a request or an unlock on its way. -/
def msgRoute (s : State) : LockMsg → Option (Nat × Nat)
  | .request key tid => (thread? s tid).map fun g => (g.core, lockSlice key)
  | .unlock key _ r => some (r.core + (if r.mcc then 96 else 0), lockSlice key)
  | _ => none

/-- A message of the same core is on its way to the same slice ahead of this one: a queue is served in order (R42). -/
def sentBefore (s : State) (m : LockMsg) : Bool :=
  (s.lockMsgs.takeWhile fun x => x != m).any fun x => (msgRoute s x).isSome && msgRoute s x == msgRoute s m

/-- The requests that wait at a slice for a free entry, in arrival order: lock and thread. -/
def waitingAt (s : State) (slice : Nat) : List (Nat × Nat) :=
  s.lockMsgs.filterMap fun m => match m with
    | .waiting k t => if lockSlice k = slice then some (k, t) else none
    | _ => none

/-- A request reaches its lock: it is granted when the lock is free, else queued (R200). -/
def takeLock (s : State) (key tid : Nat) : State :=
  let l := lockOf s key
  if l.holder = 0 then { putLock s key { l with holder := tid + 1, entry := true } with lockMsgs := s.lockMsgs ++ [.grant key tid] }
  else putLock s key { l with waiters := l.waiters ++ [tid] }

/-- A request that arrives must wait at its slice: an earlier one for its lock does, or it needs an entry and none is free for it. -/
def mustWait (s : State) (key : Nat) : Bool :=
  let ws := waitingAt s (lockSlice key)
  ws.any (fun w => w.1 == key) || (!(lockOf s key).entry && (ws != [] || decide (256 ≤ entriesOf s (lockSlice key))))

/-- A waiting request may go on: its lock has got an entry, or it is the first for which none has and an entry is free. -/
def mayEnter (s : State) (key tid : Nat) : Bool :=
  let ws := waitingAt s (lockSlice key)
  if (lockOf s key).entry then ws.find? (fun w => w.1 == key) == some (key, tid)
  else ws.find? (fun w => !(lockOf s w.1).entry) == some (key, tid) && decide (entriesOf s (lockSlice key) < 256)

/-- `LOCK_REQUEST` (R200): a request arrives at its slice, or one that waits there for an entry goes on. -/
def execLockRequest (key tid : Nat) (s : State) : Out :=
  if s.lockMsgs.contains (.request key tid) then
    if sentBefore s (.request key tid) then .next s
    else
      let t := { s with lockMsgs := s.lockMsgs.erase (.request key tid) }
      .next (if mustWait t key then { t with lockMsgs := t.lockMsgs ++ [.waiting key tid] } else takeLock t key tid)
  else if s.lockMsgs.contains (.waiting key tid) && mayEnter s key tid then
    .next (takeLock { s with lockMsgs := s.lockMsgs.erase (.waiting key tid) } key tid)
  else .next s

/-- The first unlock message of a thread for a lock. -/
def unlockMsg (key tid : Nat) : LockMsg → Option Record
  | .unlock k t r => if k = key ∧ t = tid then some r else none
  | _ => none

/-- `UNLOCK_REQUEST` (R201): NOTHELD when the group does not hold the lock (R380). -/
def execUnlockRequest (key tid : Nat) (s : State) : Out :=
  match s.lockMsgs.findSome? (unlockMsg key tid) with
  | none => .next s
  | some r =>
    if sentBefore s (.unlock key tid r) then .next s
    else
      let s := { s with lockMsgs := s.lockMsgs.erase (.unlock key tid r) }
      if (lockOf s key).holder = tid + 1 then .next (handOver s key)
      else .next (asyncFault s (r.core + (if r.mcc then 96 else 0)) r)

/-- `LOCK_GRANT` (R200): an acquire; the group goes on after its `LOCK`, also while a halt waits for it (R48). -/
def execLockGrant (key tid : Nat) (s : State) : Out :=
  if s.lockMsgs.contains (.grant key tid) then
    match thread? s tid with
    | none => .next { s with lockMsgs := s.lockMsgs.erase (.grant key tid) }
    | some g => match g.wait with
      | .lock k va =>
        if k = key ∧ quiet s tid then
          let s := acquire { s with lockMsgs := s.lockMsgs.erase (.grant key tid) } g.core
          .next (updThread s tid fun g => advance { g with wait := .none, locks := (key, va) :: g.locks })
        else .next s
      | _ => .next s
  else .next s

/-- The thread waits for a lock. -/
def waitsFor (s : State) (tid key : Nat) : Bool := (thread? s tid).any fun g => match g.wait with
  | .lock k _ => k == key
  | _ => false

/-- `LOCK_WITHDRAWAL` (R48): a request not granted leaves the queue, and the `LOCK` is to be executed again; a granted lock stays
held, and a thread that no longer waits for the lock takes no notice. -/
def execLockWithdrawal (key tid : Nat) (s : State) : Out :=
  if s.lockMsgs.contains (.withdraw key tid) ∧ ¬ s.lockMsgs.contains (.request key tid) then
    let s := { s with lockMsgs := (s.lockMsgs.erase (.withdraw key tid)).erase (.waiting key tid) }
    let l := lockOf s key
    if l.holder = tid + 1 ∨ ¬ waitsFor s tid key then .next s
    else
      let s := if l.waiters.contains tid then putLock s key { l with waiters := l.waiters.filter (· != tid) } else s
      .next (updThread s tid fun g => { rewind g with wait := .none })
  else .next s

/-- Locks of a slice that a thread holds. -/
def heldAt (s : State) (tid slice : Nat) : List Nat :=
  s.locks.filterMap fun e => if e.2.holder = tid + 1 ∧ lockSlice e.1 = slice then some e.1 else none

/-- An `UNLOCK` of a thread is still on its way to a slice. -/
def unlockUnderWay (s : State) (tid slice : Nat) : Bool := s.lockMsgs.any fun m => match m with
  | .unlock k t _ => t == tid && lockSlice k == slice
  | _ => false

/-- `LOCK_RELEASE_NOTICE` (R380): every lock of the slice that the thread holds is handed on, once the `UNLOCK`s that it sent there before
have come (R42). -/
def execLockReleaseNotice (tid slice : Nat) (s : State) : Out :=
  if s.lockMsgs.contains (.notice tid slice) ∧ ¬ unlockUnderWay s tid slice then
    let s := { s with lockMsgs := s.lockMsgs.erase (.notice tid slice) }
    .next ((heldAt s tid slice).foldl handOver s)
  else .next s

/-! Monitors. -/

/-- `WAITM` of a thread returns a value (R202). -/
def monitorDone (s : State) (m : Monitor) (v : Nat) : State :=
  let s := acquire { s with monitors := s.monitors.filter fun x => x.tid != m.tid } m.core
  updThread s m.tid fun g => advance (writeK (setKEmpty { g with wait := .none } (kAt m.d) false) (kAt m.d) (BitVec.ofNat 64 v))

/-- Ask a peer for the monitored double once more. -/
def askAgain (s : State) (m : Monitor) (pkg off : Nat) : State :=
  let ctx := ((thread? s m.tid).map Group.ctx).getD 0
  let s := { s with monitors := mapIf (fun x => x.tid == m.tid) (fun x => { x with woken := true }) s.monitors }
  sendLine s (packet 0x01 pkg ctx (off / 128 * 128)) m.core m.tid m.va false

/-- The monitor returns: at once for a line of this package; a peer's line is read once more first. -/
def endMonitor (s : State) (m : Monitor) : State :=
  match m.loc with
  | .peer p off => if m.armed ∧ ¬ m.woken ∧ unreachable s p = 0 then askAgain s m p off else s
  | loc => monitorDone s m (placeRead s loc 8)

/-- `MONITOR_WAKE` (R202). A write of a peer's line is not seen from here, so that a monitor on one may return at any time. -/
def execMonitorWake (tid : Nat) (s : State) : Out :=
  match s.monitors.find? fun m => m.tid == tid with
  | some m => .next (if m.woken ∨ (peerPkg m.loc).isSome then endMonitor s m else s)
  | none => .next s

/-- `MONITOR_RELEASE` (R202). -/
def execMonitorRelease (tid : Nat) (s : State) : Out :=
  match s.monitors.find? fun m => m.tid == tid with
  | some m => .next (endMonitor s m)
  | none => .next s

end Sys2Proof.Machine
end

