-- ==== Sys2Proof/Machine/Arrive.lean ====
section
/-! DEFINITION. What every arriving packet goes through (R300, R401, R427): streams, duplicates and replies; and what follows when a
peer cannot be reached (R402). A reply names its request by PLANE and SEQ in BYTEMASK[36:0], with bit 100 for a request that the
second-stage translation refused, and bit 101 for one whose data is lost, its code in [104:102] (log 16). -/
namespace Sys2Proof.Machine

/-! Replies. -/

/-- PLANE and SEQ of a packet as one number. -/
def tagOf (p : Packet) : Nat := p.plane % 32 * 2 ^ 32 + p.seq % 2 ^ 32

/-- A reply refuses its request (XLATE 3). -/
def isRefused (p : Packet) : Bool := p.mask.getLsbD 100

/-- The data that a request names is lost at its home: the code of the store (R391). -/
def lostMark (p : Packet) : Nat := if p.mask.getLsbD 101 then p.mask.toNat / 2 ^ 102 % 8 else 0

/-- How a reply is marked: 0 for one that answers, 1 for a refusal, else by the code of the store that lost the data. -/
def markLost (code : Nat) : Nat := 2 + 4 * code

/-- Answer a packet. DESIGN CHOICE (log 61): PRIO of the answer is set as for any packet of the requester's CTX number, from this package's own
tenant and floor registers, and not copied from the request; the spec does not say. -/
def reply (s : State) (p : Packet) (kind len : Nat) (mark : Nat) (operand : BitVec 64) (data : Nat) : State :=
  sendLine s { packet kind p.src p.ctx p.offset with
                 len := len, mask := BitVec.ofNat 128 (tagOf p + mark * 2 ^ 100), operand := operand, data := data } noCore 0 0 false

/-- The request that a reply answers. -/
def requestOf (s : State) (p : Packet) (kind : Nat) : Option Kept :=
  s.kept.find? fun k => k.packet.kind == kind && k.packet.dst == p.src && tagOf k.packet == p.mask.toNat % 2 ^ 37

/-- A packet is no longer kept. -/
def dropKept (s : State) (k : Kept) : State := { s with kept := s.kept.erase k }

/-- Answer a JREC: `bad` refuses it, `sort` and `n` say what is answered, and the mask names the JREC (log 23). -/
def sendJack (s : State) (p : Packet) (bad : Bool) (sort n : Nat) : State :=
  sendLine s { packet 0x0E p.src p.ctx 0 with
                 mask := BitVec.ofNat 128 (p.mask.toNat % 2 ^ 64 + tagOf p * 2 ^ 64), operand := BitVec.ofNat 64 (bit bad + 2 * sort + 32 * n) } noCore 0 0 false

/-- The package that a header's old partner was, from the JREC that offers it. -/
def oldPartner (p : Packet) : Nat := p.operand.toNat / 16 - 1

/-! Resending (R401). -/

/-- An engine's packet that its target has refused waits for `RETT`, and no longer for an answer. -/
def refusedWrite (k : Kept) : Bool := (k.packet.kind == 0x0F || k.packet.kind == 0x0B) && k.flag

/-- Resend a kept packet on the next live plane, under its own number; one of a multicast waits for its plane (R401). One that has not left
yet goes out as it then may. A contribution is sent unfolded, and says so in bit 124 of its BYTEMASK (log 25). -/
def resendOne (s : State) (k : Kept) : State :=
  let q := if k.packet.kind = 0x0B then { k.packet with mask := k.packet.mask ||| BitVec.ofNat 128 (2 ^ 124) } else k.packet
  let p := { q with via := viaPlane s k.packet k.packet.plane }
  if k.packet.kind ≠ 0x0A ∧ deadPlanes s k.packet.dst = BitVec.allOnes 18 then s
  else
    let s := { s with kept := mapFirst (fun x => x == k) (fun x => { x with packet := p }) s.kept }
    if s.outbox.contains k.packet then { s with outbox := mapIf (fun x => x == k.packet) (fun _ => p) s.outbox } else depart s p

/-- Resend the kept packets that satisfy `f`, in their original order; a probe has a plane of its own and a refused write waits. -/
def resendWhere (s : State) (f : Packet → Bool) : State :=
  (s.kept.filter fun k => f k.packet && k.packet.kind != 0x11 && !refusedWrite k).foldl resendOne s

/-! A packet from a peer is a sign of life (R324, R427). -/

/-- A plane is live again for the pair, and suspicion and declaration end. What waited for the link leaves. -/
def markAlive (s : State) (src via : Nat) : State :=
  let s := if via < 18 then { s with links := putT {} s.links via { getT {} s.links via with up := true, errors := 0 } } else s
  let p := peerOf s src
  let b := BitVec.ofNat 18 (2 ^ via)
  flushOut (setPeer s src { p with dead := p.dead &&& ~~~b, back := p.back ||| b, failed := false, unknown := false, probes := 0, probing := false })

/-- While a header offered on a peer's failure waits for an answer, the probe stays under way: only its answer or the verdict decides
(R410). Any packet of the peer cancels what led to the suspicion, so that the silence that follows counts from the next probe on (R324). -/
def keepProbing (s : State) (src : Nat) : State :=
  if s.vetting.any fun v => oldPartner v == src then setPeer s src { peerOf s src with probing := true, probes := 0, void := true } else s

/-- What a sign of life brings. A peer that had no live plane gets the journal packets that it missed. -/
def alive (s : State) (src via : Nat) : State :=
  let t := keepProbing (markAlive s src via) src
  if unreachable s src ≠ 0 then resendWhere t fun x => x.dst == src && x.kind == 0x0D else t

/-- The table key of a stream's next sequence number (R300). -/
def streamKey (p : Packet) : Nat := p.src * 32 + p.plane

/-- The table key that says that a multicast store or a contribution has been performed: they are told apart by (source, plane, SEQ), and by
group (R401). -/
def performedKey (p : Packet) : Nat := 2 ^ 120 + (((p.kind * 2 ^ 12 + p.src) * 2 ^ 12 + p.dst) * 32 + p.plane) * 2 ^ 32 + p.seq

/-- How far a packet is ahead of its turn, modulo 2^32: 0 in its turn, 2^31 or more when it has been performed before (R300). -/
def ahead (s : State) (p : Packet) : Nat := (p.seq + 2 ^ 32 - getT 0 s.recvSeq (streamKey p)) % 2 ^ 32

/-- A packet is performed in its turn, once: `dup` answers one that has been performed before, and one that is ahead of its turn waits in
the reorder buffer (R300, R401). -/
def inOrder (s : State) (p : Packet) (dup k : State → State) : State :=
  if streamed p.kind then
    if ahead s p = 0 then
      k { s with recvSeq := putT 0 s.recvSeq (streamKey p) ((p.seq + 1) % 2 ^ 32), reorder := s.reorder.filter (· != p) }
    else if ahead s p < 2 ^ 31 then { s with reorder := if s.reorder.contains p then s.reorder else s.reorder ++ [p] }
    else dup s
  else if getT 0 s.recvSeq (performedKey p) ≠ 0 then dup s
  else k { s with recvSeq := putT 0 s.recvSeq (performedKey p) 1 }

/-- A packet arrives, or one that waited in the reorder buffer is taken out in its turn. -/
def receive (s : State) (p : Packet) (dup k : State → State) : State :=
  if ¬ fabricUp s ∨ (p.kind ≠ 0x0A ∧ p.dst ≠ pkgNum s) then s
  else inOrder (if s.reorder.contains p then s else alive s p.src p.via) p dup k

/-! A peer that cannot be reached (R402). -/

/-- The record of a synchronous FABRIC. -/
def fabricRecord (code pkg : Nat) (vas : List Nat) (mask : Mask) : Record :=
  { cause := 0x0F, code := code, value := pkg, addrs := sortNat (vas.map (· % 2 ^ 57)), mask := mask }

/-- Lanes of a thread's flight that wait for a peer. -/
def lanesAt (s : State) (tid pkg : Nat) : Mask :=
  maskOf ((s.flights.filter fun f => f.tid == tid && (match f.dest with | .vector _ => true | _ => false)).flatMap fun f =>
    (f.reqs.filterMap fun r => if peerPkg r.loc = some pkg ∧ ¬ r.done then some r.lane else none)
      ++ f.atoms.flatMap fun a => if peerPkg a.loc = some pkg ∧ ¬ a.done then a.lanes.map fun x => x.1 else [])

/-- The thread waits at an instruction for the reply of a peer, or fetches from it. -/
def waitsForPeer (g : Group) (line : Nat) : Bool :=
  match g.wait with
  | .peer _ => true
  | .flush _ => true
  | .monitor => true
  | .none => line == 0
  | _ => false

/-- An early load of a window fails: the window ends before it, and it issues again once the branch has resolved (R67), so that it is no
longer recorded; a replay starts over. -/
def failEarly (s : State) (w : Window) : State :=
  if w.resolved.isSome then restartWindow (updThread s w.saved.tid fun g => { g with wait := .none }) w
  else
    let s := updThread s w.saved.tid fun g => { g with wait := .none }
    let cut (l : List Recorded) : List Recorded :=
      if (l.getLast?.any fun e => (thread? s w.saved.tid).any fun g => g.pc == e.pc) then l.dropLast else l
    { s with windows := mapIf (fun x => x.saved.tid == w.saved.tid) (fun x => { x with buffer := cut x.buffer, ended := true }) s.windows }

/-- A thread's request comes back as a synchronous fault: its flight and monitor are gone, and it traps at its instruction; in a
speculation window it issues again (R67). -/
def failThread (s : State) (tid : Nat) (r : Record) : State :=
  match thread? s tid with
  | none => s
  | some g =>
    let fl := match g.wait with | .peer f => f | _ => 0
    let ds := (s.monitors.filter fun m => m.tid == tid).map Monitor.d
    let early := windowOf s tid
    let s := { s with flights := s.flights.filter fun f => f.id != fl, monitors := s.monitors.filter fun m => m.tid != tid }
    let s := { s with kept := s.kept.filter fun k => !(k.tid == tid && k.core == g.core && k.op == 0
      && (k.packet.kind == 0x01 || k.packet.kind == 0x06 || k.packet.kind == 0x08)) }
    match early with
    | some w => failEarly s w
    | none => trapThread (updThread s tid fun g => ds.foldl (fun g d => setKEmpty g (kAt d) false) g) tid r

/-- A kept read, atomic or flush of a thread: whether the thread waits for it. A fetch is one of the current line. -/
def syncKept (s : State) (k : Kept) : Bool :=
  (k.packet.kind == 0x01 || k.packet.kind == 0x06 || k.packet.kind == 0x08) && k.op == 0 && k.core != noCore
    && match thread? s k.tid with
      | some g => waitsForPeer g (if k.packet.kind = 0x01 ∧ k.va / 128 = g.pc / 128 then 0 else 1)
      | none => false

/-- A packet of an operation that has ended is no longer under way; the last one takes the operation with it. -/
def drainDead (s : State) (id : Nat) : State :=
  let s := updEngine s id fun e => { e with inFlight := e.inFlight - 1 }
  { s with engines := s.engines.filter fun e => !(e.dead && e.id == id && e.inFlight == 0) }

/-- An operation stops and reports its fault (R387, R402); other packets of it that meet the same fault before `RETT` add no record. -/
def reportOp (s : State) (op : EngOp) (r : Record) : State :=
  if (op.fault.map Record.cause) == some r.cause then s else stopOp s op r

/-- A packet of an engine operation does not reach its place: the operation stops (R387), and one that has ended only reports it (R360). -/
def opLost (s : State) (k : Kept) (r : Record) : State :=
  match engineOf s k.op with
  | some op => if op.dead then drainDead (reportOp s op r) op.id else reportOp s op r
  | none => asyncFault s k.core { recordOf ((threadEver s k.tid).getD { core := k.core, ctx := k.packet.ctx }) r with tid := k.tid }

/-- What is lost with one packet that is discarded (R402). -/
def loseKept (code pkg : Nat) (s : State) (k : Kept) : State :=
  let r : Record := { cause := 0x0F, code := code, value := pkg, mask := maskOf [k.lane], addrs := [k.va % 2 ^ 57] }
  if k.packet.kind = 0x03 then
    if k.core = noCore then s
    else asyncFault s k.core { recordOf ((threadEver s k.tid).getD { core := k.core, ctx := k.packet.ctx }) r with tid := k.tid }
  else if k.packet.kind = 0x0F ∨ k.packet.kind = 0x0B then opLost s k r
  else if k.packet.kind = 0x06 ∧ k.core = noCore then postRecord s (cqRecord k.packet.ctx k.tid r)
  else if k.packet.kind = 0x01 ∧ k.op ≠ 0 then
    updEngine s k.op fun e => { e with asked := e.asked.filter (· != lineKey (.peer pkg k.packet.offset)) }
  else s

/-- Threads that wait for a peer at a load or a monitor, with the addresses they wait for. -/
def waitersAt (s : State) (pkg : Nat) : List (Nat × Nat) :=
  (threads s).flatMap fun g =>
    let vas : List Nat := match g.wait with
      | .peer id => (s.flights.filter fun f => f.id == id).flatMap fun f =>
        (f.reqs.filter fun r => peerPkg r.loc == some pkg && !r.done).map Req.va
      | .monitor => (s.monitors.filter fun m => m.tid == g.tid && peerPkg m.loc == some pkg).map Monitor.va
      | _ => []
    vas.map fun va => (g.tid, va)

/-- A number in a rising list of keyed things, after those of an equal key. -/
def insertKey {α : Type} (n : Nat) (x : α) : List (Nat × α) → List (Nat × α)
  | [] => [(n, x)]
  | (m, y) :: l => if n < m then (n, x) :: (m, y) :: l else (m, y) :: insertKey n x l

/-- Things in ascending order of their keys; those of one key stay in their order. -/
def inKeyOrder {α : Type} (l : List (Nat × α)) : List α := (l.foldl (fun acc x => insertKey x.1 x.2 acc) []).map fun x => x.2

/-- The place of a thread among the groups of its core: 8 × PART + SLOT. -/
def slotNumber (s : State) (tid : Nat) : Nat := ((threadEver s tid).map fun g => 8 * g.part + g.slot).getD 0

/-- Everything that is under way to a peer found unreachable: threads that wait trap, posted packets are discarded and reported, all in
ascending order of partition and slot, since they fault at one moment (R362). Journal packets and probes stay kept. -/
def peerLost (s : State) (pkg : Nat) : State :=
  let code := unreachable s pkg
  if code = 0 then s
  else
    let mine (k : Kept) : Bool := k.packet.dst == pkg && k.packet.kind != 0x0A && k.packet.kind != 0x0D && k.packet.kind != 0x11
    let sync := s.kept.filter fun k => mine k && syncKept s k
    let hit := sync.map (fun k => (k.tid, k.va)) ++ waitersAt s pkg
    let fail (t : Nat) (s : State) : State :=
      failThread s t (fabricRecord code pkg ((hit.filter fun x => x.1 == t).map fun x => x.2) (lanesAt s t pkg))
    let lose (k : Kept) (s : State) : State := loseKept code pkg s k
    let flag (w : FlagWrite) (s : State) : State := asyncFault s w.core
      { recordOf ((threadEver s w.tid).getD { core := w.core, ctx := w.ctx }) (fabricRecord code pkg [w.va] 0) with tid := w.tid }
    let lost := s.kept.filter fun k => mine k && !(syncKept s k)
    let flags := s.flagWrites.filter fun w => peerPkg w.loc == some pkg
    let all := (sortNat (hit.map fun x => x.1)).map (fun t => (slotNumber s t, fail t)) ++ lost.map (fun k => (slotNumber s k.tid, lose k))
      ++ flags.map fun w => (slotNumber s w.tid, flag w)
    (inKeyOrder all).foldl (fun s f => f s)
      { s with kept := s.kept.filter (fun k => !mine k), flagWrites := s.flagWrites.filter fun w => peerPkg w.loc != some pkg }

/-! Probes (R324). -/

/-- Send a PROBE on a plane: about this package's own sequences, or, `about` - 1 being its number, about those of another (log 23). It takes
the landing buffer of an earlier one like it that has no answer (R303). -/
def sendProbeAbout (s : State) (pkg plane about : Nat) : State :=
  let p := { packet 0x11 pkg 0 0 with operand := BitVec.ofNat 64 about }
  let like (k : Kept) : Bool := k.packet.kind == 0x11 && k.packet.dst == pkg && k.packet.plane == plane && k.packet.operand == p.operand
  sendOn { s with kept := s.kept.filter fun k => !like k } p plane ⟨p, noCore, 0, 0, false, 0, noLane⟩

def sendProbe (s : State) (pkg plane : Nat) : State := sendProbeAbout s pkg plane 0

/-- Ask a peer about the source of every header that was offered on its failure (R410). -/
def askVetting (s : State) (pkg plane : Nat) : State :=
  (sortNat ((s.vetting.filter fun v => oldPartner v == pkg).map Packet.src)).foldl (fun s a => sendProbeAbout s pkg plane (a + 1)) s

/-- Suspect a peer: the first probe goes on plane (target mod 18). -/
def startProbe (s : State) (pkg : Nat) : State :=
  let p := peerOf s pkg
  if p.probing ∨ p.failed ∨ ¬ fabricUp s then s
  else sendProbe (setPeer s pkg { p with probing := true, probes := 0, void := false, plane := pkg % 18 }) pkg (pkg % 18)

end Sys2Proof.Machine
end

