-- ==== Sys2Proof/Machine/Journal.lean ====
section
/-! DEFINITION. The journal instructions (major 0x6D, R230 to R234, R314, R379). -/
namespace Sys2Proof.Machine


/-- The fields of a position word (R230). -/
def posOf (x : BitVec 64) : Nat := x.toNat % 2 ^ 32
def kindOf (x : BitVec 64) : Nat := x.toNat / 2 ^ 32 % 2 ^ 8
def indexOf (x : BitVec 64) : Nat := x.toNat / 2 ^ 40 % 2 ^ 8

/-- The scalar after a. -/
def nextK (a : Fin 64) : Fin 64 := kAt (a.val + 1)

/-- JOURNAL 1 (R379): the sequence is not open, is closing, or belongs to another context. -/
def withSeq (s : State) (a : Fin 64) (pos : Nat) (k : Seq → Out) : Out :=
  match openSeq s (readK s.g a) with
  | some q => if q.ctx = s.g.ctx ∧ ¬ q.closing then k q else takeTrap s (journalRecord 1 pos a.val)
  | none => takeTrap s (journalRecord 1 pos a.val)

/-- The launch signature of the first `JNL.X` of a launch for a sequence (R314); a seventeenth is not held. -/
def formSignature (s : State) (q : Seq) (pos : Nat) : State :=
  if q.sigFor.contains s.g.launch then s
  else
    let l := launchOf s s.g.launch
    let x : Signature := { kobj := l.kobj, bucket := l.bucket, nsplit := l.nsplit, first := pos }
    let same : Bool := match q.sigs.getLast? with
      | some y => y.kobj == x.kobj && y.bucket == x.bucket && y.nsplit == x.nsplit
      | none => false
    let q' := { q with sigFor := s.g.launch :: q.sigFor, sigs := if same ∨ 16 ≤ q.sigs.length then q.sigs else q.sigs ++ [x] }
    let s := updSeq s q.id fun _ => q'
    if q'.sigs ≠ q.sigs ∧ q.headerAcked ∧ ¬ q.fenced then sendHeader s q' 4 0 else s

/-- `JNL.X` (R231): the thread stays at it until the Signal Box has accepted its record or read its payload. -/
def execJnlX (d a b : Fin 64) (s : State) : Out :=
  issue s (.jnlX d a b) <|
    withOperands s { srcs := [.k a false, .k (nextK a) false, .k b false], dstK := [d] } <|
      let w := readK s.g (nextK a)
      if kindOf w = 0 ∨ 4 ≤ kindOf w ∨ 2 ^ 48 ≤ w.toNat then opValue s (.jnlX d a b) a
      else withSeq s a (posOf w) fun q =>
        let s := formSignature s q (posOf w)
        let s := { s with g := { setKEmpty s.g d true with wait := .journal q.id } }
        .next (addWork s q.id (.record s.g.tid d.val a.val (posOf w) (kindOf w) (indexOf w) (readK s.g b)))

/-- `JMARK` (R233). -/
def execJmark (a b : Fin 64) (s : State) : Out :=
  issue s (.jmark a b) <| withOperands s { srcs := [.k a false, .k (nextK a) false, .k b false] } <|
    let w := readK s.g (nextK a)
    if 2 ^ 32 ≤ w.toNat then opValue s (.jmark a b) a
    else withSeq s a (posOf w) fun q =>
      let s := addWork s q.id (.mark s.g.tid a.val (posOf w) (readK s.g b))
      finish s s.g

/-- `JTRUNC` (R233). -/
def execJtrunc (a : Fin 64) (s : State) : Out :=
  issue s (.jtrunc a) <| withOperands s { srcs := [.k a false] } <|
    withSeq s a 0 fun q =>
      let s := addWork s q.id (.trunc s.g.tid a.val)
      finish s s.g

/-- `EMIT` (R232): the thread stays at it through its wait phase. -/
def execEmit (d a b : Fin 64) (s : State) : Out :=
  issue s (.emit d a b) <|
    withOperands s { srcs := [.k a false, .k (nextK a) false, .k b false], dstK := [d] } <|
      let w := readK s.g (nextK a)
      if 2 ^ 32 ≤ w.toNat then opValue s (.emit d a b) a
      else withSeq s a (posOf w) fun q =>
        let s := { s with g := { setKEmpty s.g d true with wait := .emit q.id } }
        .next (addWork s q.id (.emit s.g.tid d.val a.val (posOf w) (readK s.g b)))

/-- A position that may not exist yet (R234). -/
def maybePos (p : Option Nat) : BitVec 64 := match p with
  | some x => BitVec.ofNat 64 x
  | none => BitVec.allOnes 64

/-- The value that a selector names (R234). -/
def jstatValue (q : Seq) (n : Nat) : BitVec 64 :=
  match n with
  | 0 => BitVec.ofNat 64 (bit q.replay + 2 * bit q.reassign + 4 * bit q.isOpen)
  | 1 => maybePos (if q.hwmv then some q.hwm else none)
  | 2 => maybePos q.top
  | 3 => maybePos q.topAck
  | 4 => maybePos q.mark
  | _ => BitVec.ofNat 64 q.partner

/-! The journal region (R315). -/

/-- Base of this package's journal region; none when it is not enabled, or does not lie in memory (R355). -/
def regionBase (s : State) : Option Nat :=
  let r := csrRaw s csrRegion
  let base := r / 2 ^ 32 % 2 ^ 20 * 2 ^ 32
  if r % 2 = 1 ∧ isHbm base then some base else none

def headerAt (base i : Nat) : Nat := base + 512 * i
def recordSlotAt (base i : Nat) : Nat := base + 2 ^ 25 + 32 * i

/-- Records that a region holds (R315). -/
def regionRecords : Nat := 133169152

/-- The kept records of a sequence that this package partnered, above a mark, as records of the sequence that takes it over
(R408), with the signatures of its header. -/
def keptRecords (s : State) (seqid : BitVec 64) (mark : Option Nat) : List JRecord × List Signature :=
  match regionBase s, s.partners.find? fun h => h.seqid == seqid && h.stopped with
  | some base, some h =>
    let xs := (h.recs.map fun r => physRead s (recordSlotAt base r.2) 32).filter fun x => mark.all fun m => decide (m < x / 2 ^ 64 % 2 ^ 32)
    let recs := xs.zipIdx.map fun x =>
      ({ serial := x.2, pos := x.1 / 2 ^ 64 % 2 ^ 32, kind := x.1 / 2 ^ 96 % 2 ^ 8, index := x.1 / 2 ^ 104 % 2 ^ 8
         payload := BitVec.ofNat 64 (x.1 / 2 ^ 128), image := x.1, sent := false, acked := false, fresh := false, read := false
         slot := none } : JRecord)
    let hd := physRead s (headerAt base h.index) 512
    let sigs := ((List.range 16).map fun i => hd / 2 ^ (512 + 128 * i) % 2 ^ 128).filter fun x => x != 0
    (recs, sigs.map fun x => ⟨x % 2 ^ 57, x / 2 ^ 57 % 16, x / 2 ^ 64 % 2 ^ 13, x / 2 ^ 96⟩)
  | _, _ => ([], [])

/-- A sequence built from its descriptor (Table 15.1). DESIGN CHOICE (log 61): the highest position appended (R234) of a sequence opened in
replay mode counts the records taken over, and goes on counting them once they are discarded; the spec does not say. -/
def newSeq (s : State) (id die slot : Nat) (d : Nat) : Seq :=
  let seqid : BitVec 64 := BitVec.ofNat 64 d
  let hwmv := d / 2 ^ 113 % 2 == 1
  let replay := d / 2 ^ 112 % 2 == 1
  let mark := if d / 2 ^ 160 % 2 ^ 32 = noMark then none else some (d / 2 ^ 160 % 2 ^ 32)
  let k := if replay then keptRecords s seqid mark else ([], [])
  { id := id, die := die, slot := slot, seqid := seqid, partner := d / 2 ^ 64 % 2 ^ 12, ctx := d / 2 ^ 80 % 2 ^ 16
    egress := d / 2 ^ 96 % 2 ^ 16, replay := replay, hwmv := hwmv, hwm := d / 2 ^ 128 % 2 ^ 32
    horizon := if replay && hwmv then some (d / 2 ^ 128 % 2 ^ 32) else none
    mark := mark, snap := BitVec.ofNat 64 (d / 2 ^ 192), mark0 := mark, isOpen := true, moved := !replay, records := k.1, nextSerial := k.1.length
    top := k.1.foldl (fun t r => topOf t r.pos) none, sigs := k.2 }

/-- The descriptor has a reserved bit set (Table 15.1). -/
def badDescriptor (d : Nat) : Bool := d / 2 ^ 76 % 2 ^ 4 != 0 || d / 2 ^ 114 % 2 ^ 14 != 0 || d / 2 ^ 256 != 0

/-- The descriptor of a slot of a die's sequence table (R312). -/
def descriptorAt (s : State) (die slot : Nat) : Nat := csrRaw s (csrTbase die) + 64 * slot
def descriptorOf (s : State) (die slot : Nat) : Nat := physRead s (descriptorAt s die slot) 64

/-- The RESULT of an open that is not admitted (Table 26.5), 0 for one that is. -/
def openResult (s : State) (die slot d : Nat) : Nat :=
  if s.seqs.any fun q => q.isOpen && q.die == die && q.slot == slot then 2
  else if s.seqs.any fun q => q.isOpen && q.seqid.toNat == d % 2 ^ 64 then 3
  else if d / 2 ^ 64 % 2 ^ 12 = pkgNum s ∨ ¬ ctxExists s (d / 2 ^ 80 % 2 ^ 16) ∨ badDescriptor d then 4
  else 0

/-- A sequence that will have been closed when a JS.CMD write still waiting takes effect: a close of it is under way, or waits before the
write on its die. -/
def closesBefore (s : State) (c : JsCmd) (q : Seq) : Bool :=
  q.closing || (s.jsCmds.takeWhile fun x => x != c).any fun x =>
    x.die == c.die && q.die == c.die && x.value / 2 ^ 12 % 4 == 2 && x.value % 2 ^ 12 == q.slot

/-- The sequence that a JS.CMD write still waiting at its register is to open (R313). -/
def openingSeq (s : State) (seqid : BitVec 64) : Option Seq :=
  (s.jsCmds.filter fun c => !c.begun && c.value / 2 ^ 12 % 4 == 1).findSome? fun c =>
    let d := descriptorOf s c.die (c.value % 2 ^ 12)
    let t := { s with seqs := s.seqs.filter fun q => !closesBefore s c q }
    if d % 2 ^ 64 = seqid.toNat ∧ openResult t c.die (c.value % 2 ^ 12) d = 0 then some (newSeq t 0 c.die (c.value % 2 ^ 12) d) else none

/-- `JSTAT` (R234). A sequence is open from the write of JS.CMD onward (R313). -/
def execJstat (d a n : Fin 64) (s : State) : Out :=
  issue s (.jstat d a n) <| withOperands s { srcs := [.k a false], dstK := [d] } <|
    match openingSeq s (readK s.g a) with
    | some q => if q.ctx = s.g.ctx then finish s (writeK s.g d (jstatValue q n.val)) else takeTrap s (journalRecord 1 0 a.val)
    | none => withSeq s a 0 fun q => finish s (writeK s.g d (jstatValue q n.val))

end Sys2Proof.Machine
end

