-- ==== Sys2Proof/Machine/EvJournal.lean ====
section
/-! DEFINITION. The events of the journal: sequence commands, records and headers at source and partner, reassignment, and the
verdict on a failed package (R311 to R324, R406 to R412). -/
namespace Sys2Proof.Machine

/-- The partner's bookkeeping of a header. -/
def partnerHdr (s : State) (src : Nat) (seqid : BitVec 64) : Option PartnerHdr :=
  s.partners.find? fun h => h.src == src && h.seqid == seqid

def updHdr (s : State) (i : Nat) (f : PartnerHdr → PartnerHdr) : State :=
  { s with partners := mapFirst (fun h => h.index == i) f s.partners }

/-- Write bits `lo` to `lo + n - 1` of a header at the home. -/
def putHeaderBits (s : State) (base i lo n v : Nat) : State :=
  let a := headerAt base i + lo / 8
  let len := (lo % 8 + n + 7) / 8
  let old := physRead s a len
  let cleared := old - old / 2 ^ (lo % 8) % 2 ^ n * 2 ^ (lo % 8)
  physWrite s a len (cleared + v % 2 ^ n * 2 ^ (lo % 8))

/-- Discard a header and its records. -/
def freeHeader (s : State) (h : PartnerHdr) : State :=
  let s := { s with partners := s.partners.filter fun x => x.index != h.index }
  match regionBase s with
  | some base => physWrite s (headerAt base h.index) 512 0
  | none => s

/-- The lowest number below `n` that is not used. -/
def lowestFree (used : List Nat) (n : Nat) : Option Nat := (List.range (min n (used.length + 1))).find? fun i => !used.contains i

/-! The partner (R317, R318, R406, R412). -/

/-- The sequence that a JREC or a JACK is about. -/
def seqidOf (p : Packet) : BitVec 64 := BitVec.ofNat 64 (p.mask.toNat % 2 ^ 64)

/-- Take a header that a source offers: refused when the region is not enabled or every header is in use. One that is held from an earlier
partnership of the sequence takes the place of what was held (R322). -/
def takeHeader (s : State) (p : Packet) : State :=
  let n := p.operand.toNat / 16
  match regionBase s, partnerHdr s p.src (seqidOf p) with
  | none, _ => sendJack s p true 1 n
  | some base, some h =>
    if h.stopped then s
    else
      let s := physWrite s (headerAt base h.index) 512 p.data
      sendJack (updHdr s h.index fun h => { h with next := 0, recs := [], early := [], closed := false }) p false 1 n
  | some base, none =>
    match lowestFree (s.partners.map PartnerHdr.index) 65536 with
    | none => sendJack s p true 1 n
    | some i =>
      let s := physWrite s (headerAt base i) 512 p.data
      sendJack { s with partners := s.partners ++ [⟨i, seqidOf p, p.src, 0, [], false, [], false⟩] } p false 1 n

/-- A header offered after the failure of an old partner is taken only when that package answers no probe about the header's source (R410). -/
def offerHeader (s : State) (p : Packet) : State :=
  if p.operand.toNat / 16 = 0 then takeHeader s p
  else
    let s := { s with vetting := if s.vetting.contains p then s.vetting else s.vetting ++ [p] }
    let old := oldPartner p
    if (peerOf s old).probing then sendProbeAbout s old (peerOf s old).plane (p.src + 1)
    else sendProbeAbout (setPeer s old { peerOf s old with probing := true, probes := 0, void := false, plane := old % 18 }) old (old % 18) (p.src + 1)

/-- The records that a JREC holds, with their serials. -/
def recordsIn (p : Packet) : List (Nat × Nat) :=
  ((List.range (2 * p.len)).map fun i => (p.operand.toNat / 16 + i, p.data / 2 ^ (256 * i) % 2 ^ 256)).filter fun x => x.2 != 0

/-- The serial below which every record has been sent before those of a JREC. -/
def neededBy (p : Packet) : Nat := p.mask.toNat / 2 ^ 64 % 2 ^ 64

/-- A header by its index. -/
def hdrAt (s : State) (i : Nat) : Option PartnerHdr := s.partners.find? fun h => h.index == i

/-- Write one record of a sequence; none when the region has no free record (R412). A mark moves the header's mark. -/
def writeJournal (s : State) (i n x : Nat) : Option State :=
  match regionBase s, lowestFree (s.partners.flatMap fun x => x.recs.map fun r => r.2) regionRecords with
  | some base, some slot =>
    let s := physWrite s (recordSlotAt base slot) 32 x
    let s := updHdr s i fun h => { h with next := n + 1, recs := h.recs ++ [(n, slot)] }
    some (if x / 2 ^ 96 % 2 ^ 8 = 4 then
        putHeaderBits (putHeaderBits s base i 160 32 (x / 2 ^ 64 % 2 ^ 32)) base i 192 64 (x / 2 ^ 128 % 2 ^ 64)
      else s)
  | _, _ => none

/-- Write the records of a JREC that are not written yet, in serial order, and answer with the serial below which every record is
written (R315, R317); refused at the first that finds no room. From then on the header is closed to takeover (R410, R412). -/
def takeRecords (s : State) (p : Packet) (i : Nat) : List (Nat × Nat) → State
  | [] => sendJack s p false 0 (((hdrAt s i).map PartnerHdr.next).getD 0)
  | (n, x) :: rest =>
    if n < ((hdrAt s i).map PartnerHdr.next).getD 0 then takeRecords s p i rest
    else match writeJournal s i n x with
      | some t => takeRecords t p i rest
      | none => sendJack (updHdr s i fun h => { h with closed := true }) p true 0 n

/-- The JRECs of a header whose turn has come are taken (R315). -/
def takeEarly : Nat → State → Nat → State
  | 0, s, _ => s
  | k + 1, s, i =>
    match hdrAt s i with
    | none => s
    | some h => match h.early.find? fun p => decide (neededBy p ≤ h.next) with
      | none => s
      | some p => takeEarly k (takeRecords (updHdr s i fun h => { h with early := h.early.filter (· != p) }) p i (recordsIn p)) i

/-- A JREC of records: taken in the order of serials (R315, R317). -/
def takeRecord (s : State) (h : PartnerHdr) (p : Packet) : State :=
  if h.next < neededBy p then updHdr s h.index fun h => { h with early := if h.early.contains p then h.early else h.early ++ [p] }
  else takeEarly h.early.length (takeRecords s p h.index (recordsIn p)) h.index

/-- What a partner does with a JREC for a header that it holds. Of one that it has taken over it takes none (R406), and the source that asks
to have it held closed is fenced (R410). DEDUCED (log 65): the header's INTENT reads 0 once no intent is open, as Table 28.3 has it. -/
def partnerTake (s : State) (h : PartnerHdr) (p : Packet) : State :=
  let sort := p.operand.toNat % 16
  let n := p.operand.toNat / 16
  match regionBase s with
  | none => s
  | some base =>
    if h.stopped then (if sort = 7 ∧ ¬ h.closed then sendJack s p true 15 n else s)
    else match sort with
      | 0 => takeRecord s h p
      | 2 =>
        sendJack (putHeaderBits (putHeaderBits s base h.index 128 32 (p.data / 2 ^ 128 % 2 ^ 32)) base h.index 82 1 1) p false 2 n
      | 3 =>
        let s := putHeaderBits s base h.index 96 64 (p.data / 2 ^ 96 % 2 ^ 32)
        sendJack (putHeaderBits s base h.index 81 2 1) p false 3 n
      | 4 => sendJack (putHeaderBits s base h.index 512 2048 (p.data / 2 ^ 512 % 2 ^ 2048)) p false 4 n
      | 5 => sendJack (updHdr s h.index fun h => { h with recs := h.recs.filter fun r => r.1 != n }) p false 5 n
      | 6 => sendJack (freeHeader s h) p false 6 n
      | 7 => sendJack (updHdr s h.index fun h => { h with closed := true }) p false 7 n
      | 8 => sendJack s p false 8 n
      | _ => s

/-- A header follows its source to another package (R323): the JREC names the package that the context has left. A header that has been taken
over does not, and is none of the source's any more. -/
def followSource (s : State) (p : Packet) : State :=
  let n := p.operand.toNat / 16
  match regionBase s, partnerHdr s n (seqidOf p) with
  | some base, some h =>
    if h.stopped then sendJack s p true 8 n
    else sendJack (updHdr (putHeaderBits s base h.index 64 12 p.src) h.index fun h => { h with src := p.src }) p false 8 n
  | _, _ => sendJack s p true 8 n

/-- A JREC for a header that this package does not hold: there is nothing to discard, and none that could be taken over, unless the source's
sequences have been (R410). -/
def withoutHeader (s : State) (p : Packet) : State :=
  let sort := p.operand.toNat % 16
  if sort = 8 then followSource s p
  else if sort = 7 ∧ (peerOf s p.src).taken then sendJack s p true 15 (p.operand.toNat / 16)
  else if sort = 6 ∨ sort = 7 then sendJack s p false sort (p.operand.toNat / 16)
  else s

/-- Perform a JREC. -/
def performJrec (p : Packet) (s : State) : State :=
  if p.operand.toNat % 16 = 1 then offerHeader s p
  else match partnerHdr s p.src (seqidOf p) with
    | some h => partnerTake s h p
    | none => withoutHeader s p

/-- Records that have come before are only answered again: refused where they were, and else by what is written. -/
def repeatRecords (s : State) (h : PartnerHdr) (p : Packet) : State :=
  if h.early.contains p then s
  else sendJack s p (h.closed && (recordsIn p).any fun x => decide (h.next ≤ x.1)) 0 h.next

/-- A JREC that has been performed before changes nothing and is only answered again (R401); a header that is not held any more, as it was
then: its source has that answer, or the header was refused. -/
def repeatJrec (p : Packet) (s : State) : State :=
  let sort := p.operand.toNat % 16
  let n := p.operand.toNat / 16
  match partnerHdr s p.src (seqidOf p) with
  | some h => if h.stopped then s else if sort = 0 then repeatRecords s h p else if s.vetting.contains p then s else sendJack s p false sort n
  | none => if sort = 1 then (if s.vetting.contains p then s else sendJack s p true 1 n) else if sort = 8 then s else withoutHeader s p

/-- `JREC` (R317). -/
def execJrec (p : Packet) (s : State) : Out := .next (receive s p (repeatJrec p) (performJrec p))

/-! Takeover (R406). -/

/-- Records above the mark of a header, and those of them whose CRC fails. -/
def aboveMark (s : State) (base : Nat) (h : PartnerHdr) (mark : Nat) : Nat × Nat :=
  let xs := (h.recs.map fun r => physRead s (recordSlotAt base r.2) 32).filter fun x =>
    mark == noMark || decide (mark < x / 2 ^ 64 % 2 ^ 32)
  (xs.length, (xs.filter fun x => !soundImage x).length)

/-- The payload of a takeover report (Table 26.1). -/
def reportPayload (s : State) (base : Nat) (h : PartnerHdr) : Nat :=
  let x := physRead s (headerAt base h.index) 512
  let n := aboveMark s base h (x / 2 ^ 160 % 2 ^ 32)
  x % 2 ^ 64 + h.src % 2 ^ 12 * 2 ^ 64 + (x / 2 ^ 81 % 2 + 2 * (x / 2 ^ 82 % 2)) * 2 ^ 80 + x / 2 ^ 96 % 2 ^ 32 * 2 ^ 96
    + x / 2 ^ 128 % 2 ^ 32 * 2 ^ 128 + x / 2 ^ 160 % 2 ^ 32 * 2 ^ 160 + x / 2 ^ 192 % 2 ^ 64 * 2 ^ 192
    + n.1 % 2 ^ 32 * 2 ^ 256 + n.2 % 2 ^ 32 * 2 ^ 288

/-- The lines of a header and its records pass through L2 when they are read (R315). -/
def touchHeader (base : Nat) (s : State) (h : PartnerHdr) : State :=
  h.recs.foldl (fun s r => physTouch s (recordSlotAt base r.2) 32) (physTouch s (headerAt base h.index) 512)

/-- Stop the headers of a failed source: they take no further JREC (R324). -/
def stopHeaders (s : State) (src : Nat) : State := { s with partners := mapIf (fun h => h.src == src) (fun h => { h with stopped := true }) s.partners }

/-- Take over every header of a failed source that is not closed to takeover (R406, R410): it goes into a report, which is kept until a send of
it completes, and the package is one whose sequences have been taken over from then on. DEDUCED (log 65): a package whose headers are all
closed to takeover is not, since nothing of it has been taken over. -/
def takeOver (s : State) (src : Nat) : State :=
  match regionBase s with
  | none => s
  | some base =>
    let hs := s.partners.filter fun h => h.src == src && !h.stopped && !h.closed
    let s := stopHeaders (hs.foldl (touchHeader base) s) src
    let s := if hs = [] then s else setPeer s src { peerOf s src with taken := true }
    let rs := hs.map (reportPayload s base)
    sendReports { s with reports := s.reports ++ rs } rs

/-! The source: reassignment (R322). -/

/-- A sequence loses its partner: nothing is sent until a package is chosen; an `EMIT` whose intent is not acknowledged waits
again. A package that has been offered the header is to discard it. -/
def beginReassign (s : State) (id : Nat) : State :=
  match seqOf s id with
  | none => s
  | some q =>
    let back (e : Emit) : Emit := if e.phase = .intent then { e with phase := .wait } else e
    let waits := q.emits.any fun e => e.phase == .intent
    let s := { s with kept := s.kept.filter fun k => !(k.packet.kind == 0x0D && k.packet.dst == seqDest q
      && k.packet.mask.toNat % 2 ^ 64 == q.seqid.toNat) }
    updSeq s id fun q => { q with reassign := true, target := none, headerAcked := false, ackSerial := 0, tailEnd := q.nextSerial
                                  left := q.target.toList.foldl (fun l t => insertNat t l) q.left
                                  intent := if waits then none else q.intent, emits := q.emits.map back
                                  records := q.records.map fun r => { r with sent := false } }

/-- At the request of system software: a partner that is alive is told to hold the header closed to takeover (R410). -/
def holdPartner (s : State) (id : Nat) : State :=
  match seqOf s id with
  | some q => if (peerOf s q.partner).failed then s else sendJrec (updSeq s id fun q => { q with hold := true }) { q with target := none } 7 0 1 0
  | none => s

/-- `PARTNER_REASSIGN` (R322, R410): firmware offers the header and the tail to a package, after a loss or at the request of system
software. A package that does not accept changes nothing but that the reassignment is pending. -/
def execPartnerReassign (seq pkg : Nat) (accepts : Bool) (s : State) : Out :=
  match seqOf s seq with
  | none => .next s
  | some q =>
    if !q.isOpen || q.fenced || !q.headerAcked && !q.reassign then .next s
    else
      let s := if !q.reassign then holdPartner (beginReassign s seq) seq else if q.target.isNone then s else beginReassign s seq
      if !accepts || pkg == pkgNum s || pkg == q.partner || unreachable s pkg != 0 || !fabricUp s then .next s
      else
        let s := updSeq s seq fun q => { q with target := some pkg, tailEnd := q.nextSerial, headerAcked := false, ackSerial := 0 }
        match seqOf s seq with
        | some q => .next (sendHeader s q 1 (if q.afterLoss then q.partner + 1 else 0))
        | none => .next s

/-- An `EMIT` whose token is delivered has its high-water mark written at the partner, again when the partner is another. -/
def settleAgain (s : State) (id : Nat) : State :=
  match seqOf s id with
  | some q => match q.emits.find? fun e => e.phase == .settle with
    | some e => sendHeader s { q with hwm := e.pos, hwmv := true, intent := none } 3 e.pos
    | none => s
  | none => s

/-- The new partner holds the header and the whole tail, and no takeover of the old header can exist: the old partner discards it, as does
every package that took it and was not kept to, and waiting work goes on (R322, R410, R412). What cannot be reached is told later. -/
def endReassign (s : State) (id : Nat) : State :=
  match seqOf s id with
  | none => s
  | some q =>
    match q.target with
    | none => s
    | some t =>
      if q.reassign && !q.hold && q.headerAcked && q.records.all (fun r => decide (q.tailEnd ≤ r.serial) || decide (r.serial < q.ackSerial)) then
        let s := ((insertNat q.partner q.left).filter (· != t)).foldl (fun s p => sendJrec s { q with target := some p } 6 0 1 0) s
        settleAgain (updSeq s id fun q => { q with partner := t, target := none, reassign := false, afterLoss := false, left := [] }) id
      else s

/-- The threads that wait in `EMIT` for a sequence. -/
def emitters (s : State) (id : Nat) : List Nat := ((threads s).filter fun g => g.wait == .emit id).map Group.tid

/-- The journal instructions of a sequence in flight: thread, position, and the a field; a `JTRUNC` has no position. -/
def inFlight (q : Seq) : List (Nat × Nat × Nat) :=
  (q.work.filterMap fun w => match w with
    | .record t _ reg pos _ _ _ => some (t, pos, reg)
    | .mark t reg pos _ => some (t, pos, reg)
    | .emit t _ reg pos _ => some (t, pos, reg)
    | .trunc t reg => some (t, 0, reg)) ++ q.truncs.map (fun t => (t.2.1, 0, t.2.2)) ++ q.emits.map fun e => (e.tid, e.pos, e.reg)

/-- The threads with a journal instruction of a sequence in flight. -/
def journalists (s : State) (id : Nat) : List Nat :=
  ((seqOf s id).map fun q => (inFlight q).map fun x => x.1).getD []
    ++ ((threads s).filter fun g => g.wait == .emit id || g.wait == .journal id).map Group.tid

/-- Report a JOURNAL sub-cause once at each core among the threads, with the position and the a field of the last instruction of the
sequence that the thread has in flight (R409): that is the one it waits at. -/
def reportCores (s : State) (code id : Nat) (ts : List Nat) : State :=
  let fly := (((seqOf s id).map inFlight).getD []).reverse
  let gs := ts.filterMap (threadEver s)
  (sortNat (gs.map Group.core)).foldl (fun s c =>
    match gs.find? fun g => g.core == c with
    | some g =>
      let x := (fly.find? fun x => x.1 == g.tid).map fun x => x.2
      asyncFault s c { recordOf g (journalRecord code ((x.map fun x => x.1).getD 0) ((x.map fun x => x.2).getD 0)) with tid := g.tid }
    | none => s) s

/-- `NOPARTNER_TIMEOUT` (R409): no package has accepted the header; JOURNAL 6 at each core with a group waiting in `EMIT`. -/
def execNopartnerTimeout (seq : Nat) (s : State) : Out :=
  match seqOf s seq with
  | some q => .next (if q.reassign ∧ ¬ q.headerAcked then reportCores s 6 seq (emitters s seq) else s)
  | none => .next s

/-- The JS.CMD write that opens a sequence is under way. -/
def isOpening (s : State) (q : Seq) : Bool := s.jsCmds.any fun c => c.begun && c.seq == q.id && c.value / 2 ^ 12 % 4 == 1

/-- Fence sequences (R410): the Signal Box accepts nothing further for them. DEDUCED (log 65): an open that a fence meets ends as one whose
partner refuses. -/
def fence (s : State) (ids : List Nat) : State :=
  let s := { s with seqs := mapIf (fun q => ids.contains q.id) (fun q => { q with fenced := true }) s.seqs }
  let s := ids.foldl (fun s id => reportCores s 7 id (journalists s id)) s
  (s.seqs.filter fun q => ids.contains q.id && isOpening s q).foldl (fun s q => finishCmd (beginReassign s q.id) q.die 6) s

/-- Fence the sequences partnered at a package that has taken them over (R410). -/
def fenceFrom (s : State) (pkg : Nat) : State :=
  fence s ((s.seqs.filter fun q => q.isOpen && q.partner == pkg && !q.fenced).map Seq.id)

/-- The partner, or the package asked, refuses: RESULT 6 of an open, and a reassignment (R411, R412). -/
def refusedBy (s : State) (q : Seq) : State :=
  let t := beginReassign s q.id
  if isOpening s q then finishCmd t q.die 6 else t

/-- Opens under way whose partner is lost end with RESULT 6 (R312, R411). -/
def openLost (s : State) (pkg : Nat) : State :=
  let opens := s.seqs.filter fun q => q.isOpen && !q.headerAcked && q.target.isNone && !q.reassign && q.partner == pkg
    && isOpening s q
  opens.foldl refusedBy s

/-- A package is declared failed (R324): its sequences here are taken over, sequences partnered there look for a new partner, what is
under way to it is lost, and headers offered on its failure are taken. -/
def declareFailed (s : State) (pkg : Nat) : State :=
  let s := setPeer s pkg { peerOf s pkg with failed := true, probing := false, probes := 0 }
  let s := openLost (takeOver s pkg) pkg
  let mine := (s.seqs.filter fun q => q.isOpen && !q.fenced && (seqDest q == pkg || q.reassign && q.partner == pkg)).map Seq.id
  let s := mine.foldl beginReassign s
  let lost (q : Seq) : Bool := q.isOpen && !q.fenced && q.reassign && q.partner == pkg
  let s := { s with seqs := mapIf lost (fun q => { q with afterLoss := true, hold := false }) s.seqs }
  let (yes, no) := s.vetting.partition fun v => oldPartner v == pkg
  let s := yes.foldl takeHeader { s with vetting := no }
  peerLost s pkg

/-- Everything that follows when a peer is found unreachable (R402, R411). -/
def lostPeer (s : State) (pkg : Nat) : State := peerLost (if unreachable s pkg = 0 then s else openLost s pkg) pkg

/-! The source: acknowledgements (R317, R318, R411, R412). -/

/-- A kept JREC to the package of a JACK, about the same sequence. -/
def jackedBy (p : Packet) (k : Kept) : Bool :=
  k.packet.kind == 0x0D && k.packet.dst == p.src && k.packet.mask.toNat % 2 ^ 64 == p.mask.toNat % 2 ^ 64

/-- The kept JREC that a JACK names. -/
def namedBy (p : Packet) (k : Kept) : Bool := jackedBy p k && tagOf k.packet == p.mask.toNat / 2 ^ 64 % 2 ^ 37

/-- Remove the kept JRECs that a JACK answers: of records, all that hold nothing but acknowledged ones. -/
def answerKept (s : State) (p : Packet) (sort n : Nat) : State :=
  let hit (k : Kept) : Bool :=
    if sort = 0 then jackedBy p k && k.packet.operand.toNat % 16 == 0 && (recordsIn k.packet).all fun x => decide (x.1 < n) else namedBy p k
  { s with kept := s.kept.filter fun k => !hit k }

/-- Records below serial n are acknowledged; an acknowledged mark is the header's mark. -/
def ackRecords (q : Seq) (n : Nat) : Seq :=
  let new := q.records.filter fun r => !r.acked && decide (r.serial < n)
  let m := (new.filter fun r => r.kind == 4).getLast?
  { q with
    ackSerial := max q.ackSerial n
    records := q.records.map fun r => if r.serial < n then { r with acked := true } else r
    topAck := new.foldl (fun t r => topOf t r.pos) q.topAck
    mark := (m.map JRecord.pos).or q.mark
    snap := (m.map JRecord.payload).getD q.snap }

/-- A sequence taken over has reached its new partner: this package frees its own copy, and work that waited goes on (R408). -/
def freeOwnCopy (s : State) (id : Nat) : State :=
  match seqOf s id with
  | none => s
  | some q =>
    if !q.moved ∧ transferred q then
      let s := (s.partners.filter fun h => h.seqid == q.seqid && h.stopped).foldl freeHeader (updSeq s id fun q => { q with moved := true })
      drainWork q.work.length s id
    else s

/-- What an acknowledgement of the sort does at the Signal Box. -/
def takeAck (s : State) (q : Seq) (sort n : Nat) : State :=
  match sort with
  | 0 => updSeq s q.id fun q => ackRecords q n
  | 1 =>
    let t := updSeq s q.id fun q => { q with headerAcked := true }
    let t := if q.sigFor = [] then t else sendHeader t q 4 0
    if isOpening s q then finishCmd t q.die 0 else t
  | 2 => match q.emits with
    | e :: rest => if e.phase = .intent ∧ e.pos = n then beginSend s q e rest else s
    | [] => s
  | 3 => match q.emits with
    | e :: rest =>
      if e.phase = .settle ∧ e.pos = n then
        fillStatus (updSeq s q.id fun q => { q with hwm := n, hwmv := true, intent := none, emits := rest }) e 0
      else s
    | [] => s
  | 8 => settleAgain (updSeq s q.id fun q => { q with headerAcked := true }) q.id
  | _ => s

/-- The old partner holds its header closed to takeover (R410): that may end the reassignment. -/
def unhold (s : State) (p : Packet) (sort : Nat) : State :=
  match s.seqs.find? fun q => q.isOpen && q.seqid == seqidOf p && q.partner == p.src && q.hold with
  | some q => if sort = 7 then settleSeq (endReassign (updSeq s q.id fun q => { q with hold := false }) q.id) q.id else s
  | none => s

/-- An open sequence that a JACK is about, and that satisfies `f`. -/
def jackSeq (s : State) (p : Packet) (f : Seq → Bool) : Option Seq := s.seqs.find? fun q => q.isOpen && q.seqid == seqidOf p && f q

/-- A partner has taken this package's sequences over: those partnered there are fenced (R410). -/
def takenOver (s : State) (p : Packet) : State :=
  match jackSeq s p fun q => q.partner == p.src || q.target == some p.src with
  | some q => fenceFrom s q.partner
  | none => s

/-- Perform a JACK. One that refuses by sort 15 tells of a takeover; any other answers a JREC that is still kept, or records, or comes late. -/
def performJack (p : Packet) (s : State) : State :=
  let sort := p.operand.toNat / 2 % 16
  let n := p.operand.toNat / 32
  let bad := p.operand.getLsbD 0
  if bad ∧ sort = 15 then takenOver (answerKept s p sort n) p
  else if sort ≠ 0 ∧ ¬ s.kept.any (namedBy p) then s
  else
    let s := unhold (answerKept s p sort n) p sort
    match jackSeq s p fun q => seqDest q == p.src with
    | none => s
    | some q =>
      if q.fenced || (q.reassign && q.target.isNone) then s
      else if bad then (if sort = 8 then fence s [q.id] else refusedBy s q)
      else settleSeq (endReassign (freeOwnCopy (takeAck s q sort n) q.id) q.id) q.id

/-- `JACK` (R317). -/
def execJack (p : Packet) (s : State) : Out := .next (receive s p id (performJack p))

/-! Acceptance and delivery. -/

/-- `JOURNAL_RECORD_ACCEPT` (R317): the first work of a sequence goes through when it can. -/
def execJournalRecordAccept (seq : Nat) (s : State) : Out :=
  let s := takeWork s seq
  .next (settleSeq (drainWork (((seqOf s seq).map fun q => q.work.length).getD 0) s seq) seq)

/-- `EMIT_DELIVERY_ACK` (R232, R318): the high-water mark goes to the partner. -/
def execEmitDeliveryAck (seq : Nat) (s : State) : Out :=
  match seqOf s seq with
  | none => .next s
  | some q => match q.emits with
    | e :: rest =>
      if e.phase = .send then
        let q := { q with emits := { e with phase := .settle } :: rest }
        let s := updSeq s seq fun _ => q
        .next (if q.reassign || q.fenced then s else sendHeader s { q with hwm := e.pos, hwmv := true, intent := none } 3 e.pos)
      else .next s
    | [] => .next s

/-- `EMIT_DELIVERY_TIMEOUT` (R232): status 2; the intent stays open. -/
def execEmitDeliveryTimeout (seq : Nat) (s : State) : Out :=
  match seqOf s seq with
  | none => .next s
  | some q => match q.emits with
    | e :: rest =>
      if e.phase = .send then .next (settleSeq (fillStatus (updSeq s seq fun q => { q with emits := rest }) e 2) seq) else .next s
    | [] => .next s

/-! Sequence commands (R311 to R313, R408, R411). -/

/-- The first JS.CMD write that waits on a die, while none is under way (R411). -/
def nextCmd (s : State) (die : Nat) : Option JsCmd :=
  if s.jsCmds.any fun c => c.die == die && c.begun then none else s.jsCmds.find? fun c => c.die == die

/-- Begin a command. -/
def beginCmd (s : State) (c : JsCmd) (seq : Nat) : State :=
  putCmdst { s with jsCmds := mapFirst (fun x => x == c) (fun x => { x with begun := true, seq := seq }) s.jsCmds } c.die c.value 0 false

/-- Carry out a command that is not a close. The header of a valid open waits at this package until it may send fabric traffic (R297). -/
def runOpen (s : State) (c : JsCmd) : State :=
  let slot := c.value % 2 ^ 12
  if c.value / 2 ^ 12 % 4 ≠ 1 then finishCmd (beginCmd s c 0) c.die 1
  else
    let s := physTouch s (descriptorAt s c.die slot) 64
    let d := descriptorOf s c.die slot
    let r := openResult s c.die slot d
    if r ≠ 0 then finishCmd (beginCmd s c 0) c.die r
    else
      let (id, s) := fresh s
      let q := newSeq s id c.die slot d
      let s := beginCmd { s with seqs := s.seqs ++ [q] } c id
      if unreachable s q.partner ≠ 0 then finishCmd (beginReassign s id) c.die 6 else sendHeader s q 1 0

/-- Carry out a close (R313, R411). -/
def runClose (s : State) (c : JsCmd) : State :=
  match s.seqs.find? fun q => q.isOpen && q.die == c.die && q.slot == c.value % 2 ^ 12 with
  | none => finishCmd (beginCmd s c 0) c.die 5
  | some q => tryClose (updSeq (beginCmd s c q.id) q.id fun q => { q with closing := true }) q.id

/-- A JS.CMD write by an agent reaches the register, where it waits its turn; no agent has any other number, by which the model's own order
of steps takes up a write that waits already. -/
def arriveCmd (s : State) (agent die value : Nat) : State := if die < 4 then regWrite s agent (csrCmd die) value else s

/-- Take the next command of a die when it is of the kind wanted. -/
def takeCmd (s : State) (die : Nat) (close : Bool) : State :=
  match nextCmd s die with
  | none => s
  | some c => if (c.value / 2 ^ 12 % 4 == 2) != close then s else if close then runClose s c else runOpen s c

/-- `JS_CMD_OPEN` (R312, R411): also an OP that is neither open nor close. -/
def execJsCmdOpen (agent die value : Nat) (s : State) : Out :=
  .next (if value / 2 ^ 12 % 4 = 2 then s else takeCmd (arriveCmd s agent die value) die false)

/-- `JS_CMD_CLOSE` (R313, R411). -/
def execJsCmdClose (agent die value : Nat) (s : State) : Out :=
  .next (if value / 2 ^ 12 % 4 = 2 then takeCmd (arriveCmd s agent die value) die true else s)

/-! Timers and verdicts (R324). -/

/-- `PARTNER_SILENCE_TIMER`. -/
def execPartnerSilenceTimer (pkg : Nat) (s : State) : Out :=
  .next (if s.partners.any fun h => h.src == pkg && !h.stopped then startProbe s pkg else s)

/-- `SOURCE_ACK_TIMER`. DEDUCED (log 65): an old partner that has still to answer that it holds the header closed is probed as well, since
nothing else would find that it has failed. -/
def execSourceAckTimer (seq : Nat) (s : State) : Out :=
  match seqOf s seq with
  | some q =>
    let t := if (q.records.any fun r => !r.acked) && !(q.reassign && q.target.isNone) then startProbe s (seqDest q) else s
    .next (if q.hold then startProbe t q.partner else t)
  | none => .next s

/-- `PROBE_TIMEOUT`: its plane is dead for the pair (R427), so that what waits on it is sent again (R401), and the probe is sent again on the
next plane; the third one unanswered in a row is the verdict. A probe on whose way another packet came is none of the three (R324). -/
def execProbeTimeout (pkg : Nat) (s : State) : Out :=
  let p := peerOf s pkg
  if !p.probing then .next s
  else
    let s := { s with kept := s.kept.filter fun k => !(k.packet.kind == 0x11 && k.packet.dst == pkg && k.packet.via == p.plane) }
    let q := { p with dead := p.dead ||| BitVec.ofNat 18 (2 ^ p.plane) }
    let n := if p.void then 0 else p.probes + 1
    if 3 ≤ n then .next (declareFailed (setPeer s pkg q) pkg)
    else
      let plane := (p.plane + 1) % 18
      let s := setPeer s pkg { q with probes := n, void := false, plane := plane }
      let s := resendWhere s fun x => x.kind != 0x0A && x.dst == pkg && x.via == p.plane
      .next (lostPeer (askVetting (sendProbe s pkg plane) pkg plane) pkg)

/-- `PROBE` (R324, R410): answered on the plane it came by; OPERAND[0] tells whether the sequences of the source that is asked about have been
taken over, also when the headers are gone since, and the other bits repeat which source that is (log 23). -/
def execProbe (p : Packet) (s : State) : Out :=
  let about := p.operand.toNat
  let answer (s : State) : State :=
    let q := { packet 0x12 p.src 0 0 with
      mask := BitVec.ofNat 128 (tagOf p)
      operand := BitVec.ofNat 64 (2 * about + bit (peerOf s (if about = 0 then p.src else about - 1)).taken) }
    sendOn s q p.via ⟨q, noCore, 0, 0, false, 0, noLane⟩
  .next (receive s p answer answer)

/-- A peer that is alive has answered about a source: headers that this source offered on the peer's failure are refused, and the source is
fenced when its sequences have been taken over (R410). Any PRSP ends the suspicion, but for headers that wait for another answer. -/
def refuseVetting (p : Packet) (s : State) : State :=
  let mine (v : Packet) : Bool := oldPartner v == p.src && v.src + 1 == p.operand.toNat / 2
  let t := (s.vetting.filter mine).foldl (fun s v => sendJack s v true (if p.operand.getLsbD 0 then 15 else 1) (oldPartner v + 1))
    { s with vetting := s.vetting.filter fun v => !mine v }
  setPeer t p.src { peerOf t p.src with probing := t.vetting.any fun v => oldPartner v == p.src }

/-- `PRSP` (R324, R410). -/
def execPrsp (p : Packet) (s : State) : Out :=
  .next (receive s p id fun s =>
    let s := ((requestOf s p 0x11).map (dropKept s)).getD s
    if p.operand.toNat / 2 = 0 then (if p.operand.getLsbD 0 then fenceFrom s p.src else s) else refuseVetting p s)

end Sys2Proof.Machine
end

