-- ==== Sys2Proof/Machine/EvMemory.lean ====
section
/-! DEFINITION. The events of caches, home slices, page walkers and trap rings (R35, R66, R199, R239 to R245, R254, R362, R384).
An event that is not enabled changes nothing. -/
namespace Sys2Proof.Machine


/-! Results. -/

/-- The thread waits for a peer's replies. -/
def asksNow (s : State) (tid : Nat) : Bool := (thread? s tid).any fun g => match g.wait with | .peer _ => true | _ => false

/-- `BRANCH_RESOLVE` (R66): the predicate of a thread's window is complete; or a resolved one performs its next held store. -/
def execBranchResolve (tid : Nat) (s : State) : Out :=
  match windowOf s tid with
  | some w =>
    if w.saved.qBusy.getLsbD w.pred.val || asksNow s tid then .next s
    else match w.resolved with
      | none => .next (resolveWindow s w)
      | some r => .next (if w.todo = [] then onThread s tid fun s => settleStores s w r else s)
  | none => .next s

/-- The lanes of a flight that lie in a row; a scalar or a predicate is one row of its own. -/
def inRow (f : Flight) (row lane : Nat) : Bool := match f.dest with
  | .vector _ => lane / 32 == row
  | _ => true

/-- Nothing of a row is still to be performed. -/
def rowReady (f : Flight) (row : Nat) : Bool :=
  !(f.reqs.any fun r => !r.done && inRow f row r.lane)
    && !(f.atoms.any fun a => !a.done && a.lanes.any fun x => inRow f row x.1)

/-- The values of a row by lane. -/
def rowValues (f : Flight) (row : Nat) : List (Nat × Nat) :=
  (f.lanes ++ f.reqs.map (fun r => (r.lane, r.val)) ++ f.atoms.flatMap AtomReq.olds).filter fun x => inRow f row x.1

/-- A value as the destination takes it: a signed word is sign-extended (R192, R196). -/
def landed (f : Flight) (v : Nat) : BitVec 64 :=
  if f.signed then (BitVec.ofNat 32 v).signExtend 64 else BitVec.ofNat 64 v

/-- A row of a flight's destination is written and full (R35, R38). -/
def landRow (f : Flight) (row : Nat) (g : Group) : Group :=
  match f.dest with
  | .none => g
  | .scalar d => (rowValues f row).foldl (fun g x => writeK g d (landed f x.2)) (setKEmpty g d false)
  | .vector phys =>
    setRows (writeLanes g phys ((rowValues f row).map fun x => (x.1, landed f x.2))) phys (BitVec.ofNat 16 (2 ^ row)) false
  | .pred p => if f.rows = BitVec.ofNat 16 (2 ^ row) then { g with qBusy := g.qBusy &&& ~~~(BitVec.ofNat 8 (2 ^ p.val)) } else g

/-- An acquire load's thread goes on once everything it waits for has landed (R143, R193). -/
def acquireDone (s : State) (tid : Nat) : State :=
  match thread? s tid with
  | some g => match g.wait with
    | .acquire _ => if quiet s tid then updThread (acquire s g.core) tid fun g => { g with wait := .none } else s
    | _ => s
  | none => s

/-- A flight with nothing left is gone; its flags enter `fpflags` (R83). -/
def retireFlight (s : State) (id : Nat) : State :=
  match s.flights.find? fun f => f.id == id with
  | some f =>
    if f.rows = 0 ∧ f.reqs.all Req.done ∧ f.atoms.all AtomReq.done then
      let s := landThread { s with flights := s.flights.filter fun x => x.id != id } f.tid fun g => raise g f.flags
      reap (acquireDone s f.tid) f.tid
    else s
  | none => s

/-- Change a flight. -/
def updFlight (s : State) (id : Nat) (f : Flight → Flight) : State := { s with flights := mapFirst (fun x => x.id == id) f s.flights }

/-- The thread of a flight waits for its peer's replies (R383), so nothing of it lands yet. -/
def heldBack (s : State) (f : Flight) : Bool := match thread? s f.tid with
  | some g => g.wait == .peer f.id
  | none => false

/-- `RESULT_LANDS` (R35, R38). What an early load brings stays staged: the checkpoint of its window does not take it (R65, R67). -/
def execResultLands (flight row : Nat) (s : State) : Out :=
  match s.flights.find? fun f => f.id == flight with
  | some f =>
    if f.rows.getLsbD row ∧ rowReady f row ∧ ¬ heldBack s f then
      let s := if f.spec then updThread s f.tid (landRow f row) else landThread s f.tid (landRow f row)
      let s := updFlight s flight fun f => { f with rows := f.rows &&& ~~~(BitVec.ofNat 16 (2 ^ row)) }
      .next (retireFlight s flight)
    else .next s
  | none => .next s

/-! Ownership (R240). -/

/-- The owner holds accepted dirty bytes of a word. -/
def ownerDirty (s : State) (word : Nat) : Bool :=
  let o := ownerOf s word
  o != 0 && (heldBytes (l1Line s (o - 1) (word / 32)) &&& span (word % 32 * 4) 4) != 0

/-- Send a revocation to the owner of a word, unless one is on its way. -/
def revoke (s : State) (word : Nat) : State :=
  let x := (ownerOf s word - 1, word)
  if ownerOf s word = 0 ∨ s.revoking.contains x then s else { s with revoking := s.revoking ++ [x] }

/-- Send a recall to the owner of a word, unless one is on its way. -/
def askBack (s : State) (word : Nat) : State :=
  let x := (ownerOf s word - 1, word)
  if ownerOf s word = 0 ∨ s.recalls.contains x then s else { s with recalls := s.recalls ++ [x] }

/-- The words that a home accepts in one step: both of an aligned 8-byte store, which is single-copy atomic (R186). -/
def acceptedWith (s : State) (core word : Nat) : List Nat :=
  let sent (w : Nat) (pair : Bool) : Bool := s.pending.any fun p => p.core == core && p.word == w && !p.atHome && (p.pair || !pair)
  if ¬ sent word false then [] else if sent word true ∧ sent (word ^^^ 1) true then [word, word ^^^ 1] else [word]

/-- The home records the owner of a word, and the bytes of its store are accepted. What the core's RDC share holds of the word may have come
while the store was on its way, and goes. -/
def acceptWord (core : Nat) (s : State) (word : Nat) : State :=
  let l := l1Line s core (word / 32)
  let s := dropShare (setL1 s core (word / 32) { l with fresh := l.fresh &&& ~~~(span (word % 32 * 4) 4) }) core word
  { s with owners := putT 0 s.owners word (core + 1)
           pending := mapIf (fun p => p.core == core && p.word == word) (fun p => { p with atHome := true }) s.pending }

/-- `OWNERSHIP_REGISTRATION`: former owners are revoked first. -/
def execOwnershipRegistration (core word : Nat) (s : State) : Out :=
  let ws := acceptedWith s core word
  let others := ws.filter fun w => ownerOf s w != 0 && ownerOf s w != core + 1
  if ws = [] then .next s
  else if others ≠ [] then .next (others.foldl revoke s)
  else .next (wakeLine (ws.foldl (acceptWord core) s) (word / 32))

/-- `REGISTRATION_ACK`. -/
def execRegistrationAck (core word : Nat) (s : State) : Out :=
  if s.pending.any fun p => p.core == core && p.word == word && p.atHome then
    .next (settleFlags { s with pending := s.pending.filter fun p => !(p.core == core && p.word == word && p.atHome) })
  else .next s

/-- `REVOCATION`. -/
def execRevocation (core word : Nat) (s : State) : Out :=
  if s.revoking.contains (core, word) then
    let s := { s with revoking := s.revoking.filter (· != (core, word)) }
    .next (if ownerOf s word = core + 1 then revokeWord s word else s)
  else .next s

/-- `RECALL`. -/
def execRecall (core word : Nat) (s : State) : Out :=
  if s.recalls.contains (core, word) then
    let s := { s with recalls := s.recalls.filter (· != (core, word)) }
    .next (if ownerOf s word = core + 1 then recallWord s word else s)
  else .next s

/-- `WRITE_BACK` (R245): a line leaves L1; its accepted dirty bytes reach the home, and bytes of stores on their way stay. -/
def execWriteBack (core line : Nat) (s : State) : Out :=
  if (l1Line s core line).valid = 0 then .next s else .next (leaveL1 s core line)

/-! Accesses at the home. -/

/-- A request of a flight by index. -/
def reqAt (f : Flight) (idx : Nat) : Option Req := f.reqs[idx]?

/-- An earlier request of the flight to the same bytes is still to be performed (R187). -/
def earlierReq (f : Flight) (idx : Nat) (r : Req) : Bool := (f.reqs.take idx).any fun x => !x.done && overlap x.loc x.size r.loc r.size

/-- The core's own stores to the bytes reach the home first (R187). -/
def ownFirst (s : State) (core : Nat) (loc : Loc) (n : Nat) : Bool := notYetHome s core loc n

/-- Words of a place in memory. -/
def placeWords (loc : Loc) (n : Nat) : List Nat := match loc with
  | .hbm pa => wordsOf pa n
  | _ => []

/-- A request is done with a value. -/
def doneReq (s : State) (id idx v : Nat) : State :=
  let put (r : Req) : Req := { r with done := true, val := v }
  updFlight s id fun f => { f with reqs := match f.reqs[idx]? with
    | some r => f.reqs.set idx (put r)
    | none => f.reqs }

/-- What follows an access performed at its home. -/
def afterHome (s : State) (id : Nat) : State := retireFlight (settleFlags s) id

/-- A request waits for a line that a miss is to bring. -/
def awaits (line : Nat) (r : Req) : Bool := !r.done && r.kind == .fill && lineKey r.loc == line

/-- The loads of a core that wait for a line have its bytes. -/
def giveLine (s : State) (core line : Nat) : State :=
  let l := l1Line s core line
  let fill (r : Req) : Req := if awaits line r then { r with done := true, val := lineRead l (lineOff r.loc) r.size } else r
  { s with flights := mapIf (fun f => f.core == core) (fun f => { f with reqs := f.reqs.map fill }) s.flights }

/-- A peer's line: from the RDC share when that holds it; else it is asked for when no request for it is under way (R239, R302). -/
def fillPeerLine (s : State) (core line : Nat) (f : Flight) : State :=
  let pkg := linePkg line
  if (rdcLine s core line).valid = BitVec.allOnes 128 then
    let t := fillLine (makeRoomL1 s core line) core line (rdcLine s core line).data.toNat
    giveLine (if f.low then lowerLine t core line else t) core line
  else if s.kept.any (fun k => lineAsked core k && k.packet.dst == pkg && k.packet.offset == lineOffset line && !k.flag) ∨ ¬ rdcMissRoom s core
      ∨ unreachable s pkg ≠ 0 then s
  else match thread? s f.tid with
    | some g => sendLine s (packet 0x01 pkg g.ctx (lineOffset line)) core g.tid 0 false
    | none => s

/-- `LINE_FILL` (R239): every load of the core that waits for the line has its bytes. -/
def execLineFill (core line : Nat) (s : State) : Out :=
  match s.flights.find? fun f => f.core == core && f.reqs.any (awaits line) with
  | none => .next s
  | some f =>
    if ¬ hasEntry s core line ∨ ¬ l1Room s core 1 then .next s
    else if 2 ^ 58 ≤ line then .next (fillPeerLine (healLine s core line) core line f)
    else .next (giveLine (bringBy (healLine s core line) core ((thread? s f.tid).map Group.ctx) f.low line) core line)

/-- The lines of a place in memory enter L2 for the context of a flight's thread (R244). -/
def throughL2 (s : State) (f : Flight) (loc : Loc) : State :=
  enterL2 s (((thread? s f.tid).map Group.ctx).getD 0) loc

/-- `ACCESS_AT_HOME` (R238, R243, R357): a bypass or acquire load, a bypass store, or a lane's read of a bank. Owned words are recalled or
revoked first. The core keeps no copy that is older than what it has read (A1 of R263). -/
def execAccessAtHome (flight idx : Nat) (s : State) : Out :=
  match s.flights.find? fun f => f.id == flight with
  | none => .next s
  | some f => match reqAt f idx with
    | none => .next s
    | some r =>
      let mayGo := !r.done && (r.kind == .home || r.kind == .store) && (peerPkg r.loc).isNone && !earlierReq f idx r
      if !mayGo || ownFirst s f.core r.loc r.size || !homeRoom s r.loc then .next s
      else
        let ws := placeWords r.loc r.size
        if r.kind = .store then
          let owned := ws.filter fun w => ownerOf s w != 0
          if owned ≠ [] then .next (owned.foldl revoke s)
          else
            let s := updateCopies (placeWrite (throughL2 s f r.loc) f.core r.loc r.size r.val) f.core r.loc r.size r.val
            .next (afterHome (doneReq s flight idx r.val) flight)
        else
          let dirty := ws.filter (ownerDirty s)
          if dirty ≠ [] then .next (dirty.foldl askBack s)
          else .next (afterHome (dropCopies (doneReq (throughL2 s f r.loc) flight idx (placeRead s r.loc r.size)) f.core r.loc r.size) flight)

/-- `ALIAS_ACCESS` (R254): a load or a store through a BF16 window, as one step at the memory controller. -/
def execAliasAccess (flight idx : Nat) (s : State) : Out :=
  match s.flights.find? fun f => f.id == flight with
  | none => .next s
  | some f => match reqAt f idx with
    | none => .next s
    | some r =>
      if r.done ∨ (r.kind ≠ .windowLd ∧ r.kind ≠ .windowSt) ∨ earlierReq f idx r ∨ ¬ homeRoom s r.loc then .next s
      else if r.kind = .windowSt then
        .next (afterHome (doneReq (placeWrite (throughL2 s f r.loc) f.core r.loc r.size r.val) flight idx r.val) flight)
      else .next (afterHome (doneReq (throughL2 s f r.loc) flight idx (placeRead s r.loc r.size)) flight)

/-- An atomic request is done. -/
def doneAtom (s : State) (id idx : Nat) (olds : List (Nat × Nat)) (fl : Flags) : State :=
  updFlight s id fun f => { f with flags := f.flags ||| fl, atoms := match f.atoms[idx]? with
    | some a => f.atoms.set idx { a with olds := olds, done := true }
    | none => f.atoms }

/-- `ATOMIC_AT_HOME` (R199). No lane is performed while a reply may still bring a fault to its instruction (R359 step 1). -/
def execAtomicAtHome (flight idx : Nat) (s : State) : Out :=
  match s.flights.find? fun f => f.id == flight with
  | none => .next s
  | some f => match f.atoms[idx]? with
    | none => .next s
    | some a =>
      if a.done || (peerPkg a.loc).isSome || heldBack s f || ownFirst s f.core a.loc a.size || !homeRoom s a.loc then .next s
      else
        let owned := (placeWords a.loc a.size).filter fun w => ownerOf s w != 0
        if owned ≠ [] then .next (owned.foldl revoke s)
        else
          let r := performAtom (throughL2 s f a.loc) f.core a.loc a.size a.op a.lanes
          .next (afterHome (doneAtom r.1 flight idx r.2.1 r.2.2) flight)

/-! Page walks and trap rings. -/

/-- The walks that the 64 walkers of each die have taken up (R247). -/
def walking (s : State) : List Walk := [0, 1, 2, 3].flatMap fun d => (missesOf s d).take 64

/-- Cores whose threads miss a page. -/
def missingCores (s : State) (w : Walk) : List Nat := sortNat (w.who.filterMap fun t => (thread? s t).map Group.core)

/-- `PAGE_WALK_DONE` (R246, R247, R384): a leaf enters the TLBs; a walk without one is kept until its threads take the fault. -/
def execPageWalkDone (ctx va : Nat) (s : State) : Out :=
  let ws := (walking s).filter fun w => w.ctx == ctx && w.va == va
  if ws = [] then .next s
  else match walk s ctx va with
    | some t => .next (ws.foldl (fun s w => fillTlbs { s with walks := s.walks.erase w } w.die (missingCores s w) t) (walkThrough s ctx va))
    | none =>
      let kept (w : Walk) : Option Walk := if ws.contains w then (if w.who = [] then none else some { w with code := 1 }) else some w
      .next { walkThrough s ctx va with walks := s.walks.filterMap kept }

/-- Take out the first element that satisfies `p`. -/
def takeFirst {α : Type} (p : α → Bool) : List α → Option α × List α
  | [] => (none, [])
  | x :: xs => if p x then (some x, xs) else let r := takeFirst p xs; (r.1, x :: r.2)

/-- The core of a record that a cache or a home slice has noted stops (R391); the record names its thread's program counter from then on. -/
def stopLate (s : State) (r : Record) : State :=
  let s := if ctxEnded s r.ctx then s else stopCore s (r.core + if r.mcc then 96 else 0)
  let pc := ((thread? s r.tid).map unitPc).getD 0
  { s with trapWait := mapFirst (fun x => x == r) (fun x => { x with late := false, pc := pc }) s.trapWait }

/-- `TRAP_RECORD_WRITE` (R362): the first record that waits for a die's ring is written once the ring has room. -/
def execTrapRecordWrite (die : Nat) (s : State) : Out :=
  match s.trapWait.find? fun r => r.die == die && r.late with
  | some r => .next (stopLate s r)
  | none => match takeFirst (fun r => r.die == die) s.trapWait with
    | (some r, rest) => .next (if ringRoom s die then writeRecord { s with trapWait := rest } r else s)
    | (none, _) => .next s

end Sys2Proof.Machine
end

