-- ==== Sys2Proof/Machine/EvFabric.lean ====
section
/-! DEFINITION. The events of links and planes, and of the packets of memory traffic (R199, R241, R242, R300 to R307, R383, R400, R401,
R427). The layouts that Tables 14.1 and 14.2 leave open are those of log 16 and log 25. -/
namespace Sys2Proof.Machine

/-! Bytes that a packet touches. -/

/-- The lowest byte of a mask, and how many there are. -/
def firstByte (m : BitVec 128) : Nat := ((List.range 128).find? fun i => m.getLsbD i).getD 0
def byteCount (m : BitVec 128) : Nat := ((List.range 128).filter fun i => m.getLsbD i).length

/-- What a packet's offset leads to is held by the fabric MMU from then on, and the line enters L2 (R244, R248). -/
def atHomeOf (s : State) (p : Packet) (r w : Bool) : State × Option Nat :=
  let s := holdEntry s p.offset
  match fabricPlace s p.ctx p.offset r w with
  | some pa => (fillL2 s none (pa / 128), some pa)
  | none => (s, none)

/-- Write the bytes of a packet's line (R241, R305); one that the second stage refuses is discarded (R383). -/
def putBytes (s : State) (p : Packet) : State :=
  match atHomeOf s p false true with
  | (s, some pa) => maskedWrite s (pa / 128) p.mask p.data
  | (s, none) => s

/-- Lines that an engine write covers: index and mask. BYTEMASK is that of the first line; a longer packet fills the lines after it
(log 16). -/
def packetLines (p : Packet) : List (Nat × BitVec 128) :=
  (List.range (max 1 ((p.len + 1) / 2))).map fun j =>
    (j, if j = 0 then p.mask else if p.len = 2 * j + 1 then span 0 64 else BitVec.allOnes 128)

/-- Where the lines of a packet lie here; none when the second stage refuses one of them. -/
def placesOf (s : State) (p : Packet) : Option (List (Nat × Nat × BitVec 128)) :=
  (packetLines p).foldr (fun x acc => match acc, fabricPlace s p.ctx (p.offset + 128 * x.1) false true with
    | some l, some pa => some ((x.1, pa, x.2) :: l)
    | _, _ => none) (some [])

/-! Requests for lines (R302). -/

/-- The key of a line and of a package that holds it (R242). -/
def holderKey (pa pkg : Nat) : Nat := pa / 128 * 2 ^ 12 + pkg % 2 ^ 12

/-- Answer a RDREQ: the line is read at its home after any recall. -/
def answerRdreq (p : Packet) (s : State) : State :=
  match atHomeOf s p true false with
  | (s, none) => reply s p 0x02 2 1 0 0
  | (s, some pa) => match lostHome s (pa / 128) with
    | some c => reply s p 0x02 2 (markLost c) 0 0
    | none => let s := recallLine s (pa / 128); reply s p 0x02 2 0 0 (readN s.mem (pa / 128 * 128) 128)

/-- Perform a RDREQ: the requesting package holds the line once more (R242). Each request may fill a share of its own, so each counts. -/
def performRdreq (p : Packet) (s : State) : State :=
  let s := answerRdreq p s
  match fabricPlace s p.ctx p.offset true false with
  | some pa => { s with holders := putT 0 s.holders (holderKey pa p.src) (getT 0 s.holders (holderKey pa p.src) + 1) }
  | none => s

/-- `RDREQ` (R302). -/
def execRdreq (p : Packet) (s : State) : Out := .next (receive s p (answerRdreq p) (performRdreq p))

/-- Count an instruction of a thread in its window (R65). -/
def countIssueOf (s : State) (tid : Nat) : State :=
  { s with windows := mapIf (fun w => w.saved.tid == tid) (fun w => { w with issued := w.issued + 1 }) s.windows }

/-- A request of one lane or one address that a peer does not grant: it is done, and its value names the address and why, 0 for a refusal,
else the code of the store that lost the data. -/
def refusedVa (why va : Nat) : Nat := (why + 1) * 2 ^ 64 + va % 2 ^ 64
def refusedWhy (v : Nat) : Nat := v / 2 ^ 64 - 1
def reqRefused (r : Req) : Bool := decide (2 ^ 64 ≤ r.val)
def atomRefused (a : AtomReq) : Option Nat := (a.olds.find? fun x => x.1 == 512).map fun x => x.2

/-- Why a reply grants nothing (R383, R391): 0 a refusal, else the code of lost data. -/
def deniedBy (p : Packet) : Option Nat := if isRefused p then some 0 else if lostMark p ≠ 0 then some (lostMark p) else none

/-- The record of one access that a peer does not grant. -/
def deniedRecord (s : State) (ctx why kind va : Nat) : Record :=
  if why = 0 then { cause := 0x09, code := 3, value := kind, addrs := [listed s ctx 0x09 3 va] }
  else { cause := 0x0E, code := why, addrs := [listed s ctx 0x0E why va] }

/-- The flight still waits for a peer. -/
def waitsPeer (f : Flight) : Bool :=
  f.reqs.any (fun r => (peerPkg r.loc).isSome && !r.done) || f.atoms.any fun a => (peerPkg a.loc).isSome && !a.done

/-- The lanes and the values of the requests of a flight that a peer does not grant. -/
def denied (f : Flight) : List (List Nat × Nat) :=
  ((f.reqs.filter reqRefused).map fun r => ([r.lane], r.val))
    ++ f.atoms.filterMap fun a => (atomRefused a).map fun v => (a.lanes.map fun x => x.1, v)

/-- The record of the lanes that a peer does not grant: those that its second stage has refused, or else those whose data is lost, by the
lowest lane's code (R383, R391, Table 24.1). -/
def refusal (s : State) (f : Flight) : Option Record :=
  let (no, lost) := (denied f).partition fun x => refusedWhy x.2 == 0
  let xs := if no = [] then lost else no
  let code := if no = [] then (sortNat (xs.map fun x => x.1.headD 0 * 16 + refusedWhy x.2)).headD 0 % 16 else 3
  let cause := if no = [] then 0x0E else 0x09
  let ctx := ((thread? s f.tid).map Group.ctx).getD 0
  let lanes := match f.dest with
    | .vector _ => maskOf (xs.flatMap fun x => x.1)
    | _ => 0
  if xs = [] then none
  else some { cause := cause, code := code, value := if no = [] ∨ f.atoms = [] then 0 else 2, mask := lanes
              addrs := sortNat (xs.map fun x => listed s ctx cause code (x.2 % 2 ^ 64)) }

/-- A thread whose requests to peers have all been answered goes on, or traps (R383). One that replays stands where its window ended. -/
def peerProgress (s : State) (tid : Nat) : State :=
  match (thread? s tid).map Group.wait with
  | some (.peer id) =>
    match s.flights.find? fun f => f.id == id with
    | none => updThread s tid fun g => { g with wait := .none }
    | some f =>
      if waitsPeer f then s
      else match refusal s f with
        | some r => failThread s tid r
        | none =>
          if (windowOf s tid).any fun w => w.resolved.isSome then updThread s tid fun g => { emptyDest g f.dest f.rows with wait := .none }
          else countIssueOf (updThread s tid fun g => goOn { g with wait := .none } f) tid
  | _ => s

/-- The requests of a thread for a line are answered. -/
def answerReqs (s : State) (tid key : Nat) (v : Req → Nat) : State :=
  let mine (r : Req) : Bool := !r.done && (peerPkg r.loc).isSome && lineKey r.loc == key
  let put (r : Req) : Req := if mine r then { r with done := true, val := v r } else r
  { s with flights := mapIf (fun f => f.tid == tid) (fun f => { f with reqs := f.reqs.map put }) s.flights }

/-- The thread's kept request was a fetch (R383): it waits for no reply, and the line is that of its program counter, or that of the word
before it (R375). -/
def isFetch (s : State) (k : Kept) : Bool := match thread? s k.tid with
  | some g => g.wait == .none && (k.va / 128 == g.pc / 128 || (g.landed && k.va + 4 == g.pc))
  | none => false

/-- A fetch is not granted: PC names the word that could not be fetched (R383). The word before a place where control landed is then none. -/
def failFetch (s : State) (why tid va : Nat) : State :=
  match thread? s tid with
  | none => s
  | some g =>
    if va / 128 ≠ g.pc / 128 then updThread s tid fun g => { g with landed := false }
    else match windowOf s tid with
      | some w =>
        if w.resolved.isSome then restartWindow s w
        else { s with windows := mapIf (fun x => x.saved.tid == tid) (fun x => { x with ended := true }) s.windows }
      | none =>
        let r := { recordOf g (deniedRecord s g.ctx why 3 va) with pc := g.pc }
        postRecord (stopFor (updThread s tid rewind) g) r

/-- A peer refuses a line, or has lost it. -/
def lineRefused (s : State) (k : Kept) (why key : Nat) : State :=
  if k.op ≠ 0 then updEngine s k.op fun e => { e with got := e.got ++ [(key, refusedLine + why)], asked := e.asked.filter (· != key) }
  else if k.core = noCore then setRdc s noCore key { dirty := BitVec.allOnes 128 }
  else if s.monitors.any fun m => m.tid == k.tid && lineKey m.loc == key then
    failThread s k.tid (deniedRecord s k.packet.ctx why 0 k.va)
  else if isFetch s k then failFetch s why k.tid k.va
  else peerProgress (answerReqs s k.tid key fun r => refusedVa why r.va) k.tid

/-- A line of a peer enters the RDC share of a compute core; a matrix control core has none (R236). Its home is told of its eviction by a
packet of the context that asked for it (R301, R302). -/
def fillShare (s : State) (k : Kept) (key data : Nat) : State :=
  if 96 ≤ k.core then s
  else let t := fillRdc s k.core key data; setRdc t k.core key { rdcLine t k.core key with ctx := k.packet.ctx }

/-- A line of a peer reaches the core that asked for it: its RDC share, and its L1 for a cached load or a prefetch of level 0 (R194, R239).
What a matrix control core fetches is kept in its L1. A stream load's line is the first to be evicted (R243). -/
def cacheLine (s : State) (k : Kept) (key data : Nat) : State :=
  let near (s : State) : State := if l1Room s k.core 1 then fillLine (makeRoomL1 s k.core key) k.core key data else s
  let waits (f : Flight) : Bool := f.tid == k.tid && f.reqs.any (awaits key)
  if k.flag then s
  else if s.flights.any waits then
    let t := near (fillShare (healLine s k.core key) k key data)
    if (s.flights.find? waits).any Flight.low then lowerLine t k.core key else t
  else if k.tid = 0 then (if k.va = 0 then near (fillShare s k key data) else fillShare s k key data)
  else if isFetch s k then (if 96 ≤ k.core then near s else fillShare s k key data)
  else s

/-- The monitored double has come (R202): the monitor returns, or is armed now. -/
def monitorLine (s : State) (m : Monitor) (data : Nat) : State :=
  let v := data / 2 ^ (8 * lineOff m.loc) % 2 ^ 64
  if m.armed ∨ m.woken ∨ BitVec.ofNat 64 v ≠ m.old then monitorDone s m v
  else { s with monitors := mapIf (fun x => x.tid == m.tid) (fun x => { x with armed := true }) s.monitors }

/-- A line of a peer has come. -/
def lineComes (s : State) (k : Kept) (key data : Nat) : State :=
  if k.op ≠ 0 then updEngine s k.op fun e => { e with got := e.got ++ [(key, data)], asked := e.asked.filter (· != key) }
  else if k.core = noCore then setRdc s noCore key { data := BitVec.ofNat 1024 data, valid := BitVec.allOnes 128 }
  else match s.monitors.find? fun m => m.tid == k.tid && lineKey m.loc == key with
    | some m => monitorLine s m data
    | none =>
      let s := cacheLine s k key data
      peerProgress (answerReqs s k.tid key fun r => data / 2 ^ (8 * lineOff r.loc) % 2 ^ (8 * r.size)) k.tid

/-- `RDRSP` (R302). -/
def execRdrsp (p : Packet) (s : State) : Out :=
  .next <| receive s p id fun s =>
    match requestOf s p 0x01 with
    | none => s
    | some k =>
      let key := lineKey (.peer p.src k.packet.offset)
      match deniedBy p with
      | some why => lineRefused (dropKept s k) k why key
      | none => lineComes (dropKept s k) k key (p.data % 2 ^ 1024)

/-! Posted stores, evictions, invalidations. -/

/-- `PWR` (R241): the store is performed at the home; one that the second stage refuses is discarded (R383). -/
def execPwr (p : Packet) (s : State) : Out :=
  .next <| receive s p id fun s => putBytes s p

/-- `EVICT` (R302): a share of the package has dropped the line; the package holds it no longer once every request for it has been answered
so (R242). -/
def execEvict (p : Packet) (s : State) : Out :=
  .next <| receive s p id fun s =>
    match fabricPlace (holdEntry s p.offset) p.ctx p.offset true false with
    | some pa => { holdEntry s p.offset with holders := putT 0 s.holders (holderKey pa p.src) (getT 0 s.holders (holderKey pa p.src) - 1) }
    | none => holdEntry s p.offset

/-- `INV` (R302): every RDC share of the package drops the line. -/
def execInv (p : Packet) (s : State) : Out :=
  .next <| receive s p id fun s => { s with rdc := s.rdc.filter fun e => e.1 % 2 ^ 60 != lineKey (.peer p.src p.offset) }

/-! Atomics (R199). -/

/-- Operands and expected values of the packets of one request, as lanes in order. -/
def atomLanes (ps : List Packet) : List (Nat × Nat × Nat) :=
  let pairs (p : Packet) : List (Nat × Nat) := (List.range (p.data / 2 ^ 8 % 4)).map fun i =>
    let x := p.data / 2 ^ (128 + 128 * i)
    (x % 2 ^ 64, x / 2 ^ 64 % 2 ^ 64)
  (ps.flatMap pairs).zipIdx.map fun x => (x.2, x.1)

/-- More packets of the same request follow this one (log 16). -/
def hasMore (p : Packet) : Bool := p.data / 2 ^ 10 % 2 == 1

/-- An earlier packet of the same request. -/
def sameRequest (p q : Packet) : Bool := q.src == p.src && q.plane == p.plane && q.ctx == p.ctx && q.offset == p.offset && q.mask == p.mask

/-- Perform an ATOM packet. One request whose operands need more than one packet is performed when the last of them comes (R196). -/
def performAtomPacket (p : Packet) (s : State) : State :=
  let b := firstByte p.mask
  let n := byteCount p.mask
  let parts := s.atomParts.filter (sameRequest p) ++ [p]
  if hasMore p then reply { s with atomParts := s.atomParts ++ [p] } p 0x07 0 0 0 0
  else match atHomeOf { s with atomParts := s.atomParts.filter fun q => !sameRequest p q } { p with offset := p.offset + b } true true with
  | (s, none) => reply s p 0x07 0 1 0 0
  | (s, some pa) =>
    if (lostHome s (pa / 128)).isSome then reply s p 0x07 0 (markLost ((lostHome s (pa / 128)).getD 0)) 0 0 else
    let v := homeRead s pa n
    let c := p.data % 256
    let t := if c = decrementCode then homeWrite s pa 8 (decremented v)
      else if c = decrementCode + 1 then
        (if 2 ^ 63 ≤ v then s else homeWrite s pa 8 (errorWord v (p.data / 256 % 256) (p.data / 2 ^ 16 % 2 == 1)))
      else (performAtom s noCore (.hbm pa) n (opFromCode c) (atomLanes parts)).1
    reply t p 0x07 0 0 (BitVec.ofNat 64 v) 0

/-- Answer a repeated ATOM as it was answered before: it is not performed again (R401). -/
def repeatAtom (p : Packet) (s : State) : State :=
  match s.sent.find? fun q => q.kind == 0x07 && q.dst == p.src && q.mask.toNat % 2 ^ 37 == tagOf p with
  | some q => reply s p 0x07 0 (q.mask.toNat / 2 ^ 100 % 2 ^ 5) q.operand 0
  | none => s

/-- `ATOM` (R199). -/
def execAtom (p : Packet) (s : State) : Out := .next (receive s p (repeatAtom p) (performAtomPacket p))

/-- A signal of this package's command processor on a peer is refused, or lost there (R428). -/
def signalRefused (s : State) (k : Kept) (why : Nat) : State :=
  if k.packet.data % 256 = decrementCode then
    let r := deniedRecord s k.packet.ctx why 2 k.va
    postRecord s (cqRecord k.packet.ctx k.tid (if why = 0 then { r with addrs := [k.va % 2 ^ 57] } else r))
  else s

/-- The old value of an atomic comes back to its flight (R196, R199), or why there is none. -/
def atomAnswer (s : State) (k : Kept) (why : Option Nat) (old : Nat) : State :=
  let loc : Loc := .peer k.packet.dst (k.packet.offset + firstByte k.packet.mask)
  match s.flights.find? fun f => f.tid == k.tid && f.atoms.any fun a => a.loc == loc && !a.done with
  | none => s
  | some f => match f.atoms.zipIdx.find? fun x => x.1.loc == loc && !x.1.done with
    | none => s
    | some (a, i) => match why with
      | some c => peerProgress (doneAtom s f.id i [(512, refusedVa c k.va)] 0) k.tid
      | none =>
        let r := runAtom a.op a.size old a.lanes
        let s := doneAtom (dropCopies s k.core loc a.size) f.id i r.1 r.2.2
        afterHome (peerProgress s k.tid) f.id

/-- `ATRSP` (R199). -/
def execAtrsp (p : Packet) (s : State) : Out :=
  .next <| receive s p id fun s =>
    match requestOf s p 0x06 with
    | none => s
    | some k =>
      let s := dropKept s k
      let s := if k.core = noCore then ((deniedBy p).map (signalRefused s k)).getD s
        else if hasMore k.packet then s
        else atomAnswer s k (deniedBy p) p.operand.toNat
      settleFlags s

/-! Flushing reads (R146). -/

/-- Answer a FLUSH: every store before it on its stream has been performed. -/
def performFlush (p : Packet) (s : State) : State :=
  reply (holdEntry s p.offset) p 0x09 0 (bit (fabricPlace s p.ctx p.offset true false).isNone) 0 0

/-- `FLUSH` (R146). -/
def execFlush (p : Packet) (s : State) : Out := .next (receive s p (performFlush p) (performFlush p))

/-- The thread waits in a `FLUSHR` to the package. -/
def inFlush (s : State) (tid pkg : Nat) : Bool := match thread? s tid with
  | some g => g.wait == .flush pkg
  | none => false

/-- `FLRSP` (R146, R383). -/
def execFlrsp (p : Packet) (s : State) : Out :=
  .next <| receive s p id fun s =>
    match requestOf s p 0x08 with
    | none => s
    | some k =>
      let s := dropKept s k
      if !inFlush s k.tid p.src then s
      else if isRefused p then failThread s k.tid { cause := 0x09, code := 3, value := 0, addrs := [listed s k.packet.ctx 0x09 3 k.va] }
      else countIssueOf (updThread s k.tid fun g => advance { g with wait := .none }) k.tid

/-! Multicast (R305). -/

/-- `MCAST` (R305): a member performs it at its own mapping of the offset. -/
def execMcast (p : Packet) (s : State) : Out :=
  .next <| receive s p id fun s => putBytes s p

/-! Reductions (R210, R306, R389, R401). -/

/-- The reduction line that a RED packet's line belongs to. -/
def redKey (p : Packet) (j pa base : Nat) : Reduction :=
  let m := p.mask.toNat
  { pa := pa, base := base, bytes := m / 2 ^ 46 % 2 ^ 18 * 128, fmt := m / 2 ^ 38 % 2 ^ 8, n := m / 2 ^ 25 % 2 ^ 13, tag := m % 2 ^ 25
    line := m / 2 ^ 64 % 2 ^ 18 + j, next := 0, acc := 0, held := [], idx := [], ctxs := [], ops := [], pkgs := [] }

/-- Tell a contributor that its contribution ends it (R388): 2 a repeated index, 3 a destination under a window. The operation is named as the
contribution names it (log 25). -/
def refuseRed (s : State) (p : Packet) (r : Reduction) (code idx : Nat) : State :=
  sendLine s { packet 0x10 p.src p.ctx p.offset with
                 mask := redTag r, operand := BitVec.ofNat 64 (code + idx * 2 ^ 16 + p.operand.toNat / 2 ^ 32 * 2 ^ 32) } noCore 0 0 false

/-- A contribution that has come late: its reduction is over, and a prefix has covered it (R401). It is taken so once. -/
def takeLate (s : State) (k : Reduction) (i : Nat) (who : Nat × Nat) : State :=
  { s with covered := mapIf (sameRed k) (fun r => { r with idx := r.idx ++ [(i, who)] }) s.covered }

/-- One line of a RED packet. A contribution of an index that another operation has brought is refused (R388); one that is received
already, or that a received prefix covers, is discarded (R401). DESIGN CHOICE (log 25): the home slice has room for every contribution that
comes out of order (R210), and none waits in its engine; the spec gives no size. -/
def takeRedLine (p : Packet) (s : State) (j : Nat) : State :=
  let x := p.data / 2 ^ (1024 * j) % 2 ^ 1024
  let lo := p.operand.toNat % 2 ^ 16
  let hi := p.operand.toNat / 2 ^ 16 % 2 ^ 16
  let who := (p.src + 1, p.operand.toNat / 2 ^ 32)
  match atHomeOf s { p with offset := p.offset + 128 * j } false true with
  | (s, none) => s
  | (s, some pa) =>
    let k := redKey p j pa ((fabricPlace s p.ctx (p.mask.toNat / 2 ^ 82 % 2 ^ 41 * 128) false true).getD pa)
    let r := redOf s k
    let also (l : List (Nat × Nat)) (x : Nat × Nat) : List (Nat × Nat) := if l.contains x then l else l ++ [x]
    if underWindow s pa 128 then refuseRed s p r 3 lo
    else if lo = hi ∧ p.mask.getLsbD 124 ∧ lateCovered s k lo then takeLate s k lo who
    else if lo = hi ∧ repeats s k lo who then refuseRed s p r 2 lo
    else if hi < r.next ∨ (lo = hi ∧ hasIndex r lo) then s
    else
      settleRed s (takeRed { r with ctxs := also r.ctxs (p.src + 1, p.ctx), pkgs := also r.pkgs (p.src, p.offset + 128 * j)
                                    idx := if lo = hi then r.idx ++ [(lo, who)] else r.idx } lo hi x)

/-- `RED` (R306). -/
def execRed (p : Packet) (s : State) : Out :=
  .next <| receive s p id fun s => (List.range (p.len / 2)).foldl (takeRedLine p) s

/-- The operations of this package that contribute to a reduction line on a package; of one whose context has ended, the tables are no
longer asked. -/
def redOps (s : State) (p : Packet) : List EngOp :=
  let line := p.mask.toNat / 2 ^ 64 % 2 ^ 18
  s.engines.filter fun e => e.kind == .cpyRed && redMask e line == p.mask.toNat % 2 ^ 82
    && (e.dead || match translateNow s e.ctx (bits (word e.desc 0) 56 0 + 128 * line) 5 with
      | .ok (.peer q off) => q == p.src && off / 128 == p.offset / 128
      | _ => false)

/-! Engine writes (R211). -/

/-- A destination of an engine write lies under a window (R388). -/
def underAny (s : State) (l : List (Nat × Nat × BitVec 128)) : Bool := l.any fun x => underWindow s x.2.1 128

/-- Answer an EWR that has been performed before: bit 0 of OPERAND tells of a destination under a window (R388). -/
def answerEwr (p : Packet) (s : State) : State :=
  match placesOf s p with
  | none => reply s p 0x10 0 1 0 0
  | some l => reply s p 0x10 0 0 (BitVec.ofNat 64 (bit (underAny s l))) 0

/-- The data of an engine write as it is written: where OPERAND names the bits that change, the other bits of the bytes are those that the
place holds (R209). -/
def ewrData (s : State) (p : Packet) (pa : Nat) : Nat :=
  let b := firstByte p.mask
  let n := byteCount p.mask
  let bm := if p.operand.getLsbD 63 then p.operand.toNat % 2 ^ 24 else allBits n
  if bm = allBits n then p.data
  else mergeBits n bm (homeRead s (pa / 128 * 128 + b) n) (p.data / 2 ^ (8 * b) % 2 ^ (8 * n)) * 2 ^ (8 * b)

/-- Perform an EWR and answer it. -/
def performEwr (p : Packet) (s : State) : State :=
  let s := (packetLines p).foldl (fun s x => holdEntry s (p.offset + 128 * x.1)) s
  match placesOf s p with
  | none => reply s p 0x10 0 1 0 0
  | some l =>
    if underAny s l then reply s p 0x10 0 0 1 0
    else match l.findSome? fun x => lostHome s (x.2.1 / 128) with
    | some c => reply s p 0x10 0 (markLost c) 0 0
    | none =>
      let put (s : State) (x : Nat × Nat × BitVec 128) : State :=
        maskedWrite (fillL2 s none (x.2.1 / 128)) (x.2.1 / 128) x.2.2 (if x.1 = 0 then ewrData s p x.2.1 else p.data / 2 ^ (1024 * x.1) % 2 ^ 1024)
      reply (l.foldl put s) p 0x10 0 0 0 0

/-- `EWR` (R211). -/
def execEwr (p : Packet) (s : State) : Out := .next (receive s p (answerEwr p) (performEwr p))

/-- A peer does not perform an engine's packet: the operation stops (R387), and `RETT` sends the packet again. -/
def engineRefused (s : State) (k : Kept) (why : Nat) : State :=
  let r : Record := { deniedRecord s k.packet.ctx why 5 k.va with value := 5, addrs := [pageBase s k.packet.ctx k.va % 2 ^ 57] }
  match engineOf s k.op with
  | some op =>
    if op.dead then opLost (dropKept s k) k r
    else reportOp { s with kept := mapFirst (fun x => x == k) (fun x => { x with flag := true }) s.kept } op r
  | none => opLost (dropKept s k) k r

/-- An engine write has landed at the peer. -/
def ewrLanded (s : State) (k : Kept) : State :=
  match engineOf s k.op with
  | none => s
  | some op =>
    if op.dead then drainDead s op.id
    else
      let pos := (tilePos op 0 k.va).getD 0
      let s := updEngine s op.id fun e => { e with inFlight := e.inFlight - 1 }
      landBytes s op pos (byteCount k.packet.mask)

/-- An operation cannot finish (R388); one whose context has ended only reports it (R360). -/
def endOp (s : State) (op : EngOp) (code : Nat) : State :=
  if op.dead then drainDead (asyncFault s op.core (opRecord s op { cause := 0x0D, code := code, value := op.landed })) op.id
  else failOp s op code

/-- What an EACK about a reduction line says: 4 it is written, 2 and 3 the contribution ends its operation. -/
def redAnswer (s : State) (p : Packet) : State :=
  let code := p.operand.toNat % 2 ^ 16
  let ops := redOps s p
  if code = 4 then
    ops.foldl (fun s e => if e.dead then drainDead s e.id else landBytes s e (128 * (p.mask.toNat / 2 ^ 64 % 2 ^ 18)) 128) s
  else (ops.filter fun e => e.id % 2 ^ 32 == p.operand.toNat / 2 ^ 32).foldl (fun s e => endOp s e code) s

/-- `EACK` (R211, R210). -/
def execEack (p : Packet) (s : State) : Out :=
  .next <| receive s p id fun s =>
    if 2 ≤ p.operand.toNat then redAnswer s p
    else match requestOf s p 0x0F with
      | none => s
      | some k =>
        match deniedBy p with
        | some why => engineRefused s k why
        | none =>
          if p.operand = 1 then ((engineOf s k.op).map fun op => endOp (dropKept s k) op 3).getD (dropKept s k)
          else settleFlags (ewrLanded (dropKept s k) k)

/-! End-to-end acknowledgement (R401). -/

/-- The kept packet that an acknowledgement names: bit 33 of the number says a multicast, bit 34 a contribution. -/
def ackedBy (pkg plane seq : Nat) (k : Kept) : Bool :=
  let kind := if seq / 2 ^ 33 % 2 = 1 then 0x0A else if seq / 2 ^ 34 % 2 = 1 then 0x0B else 0x03
  k.packet.kind == kind && k.packet.dst == pkg && k.packet.plane == plane && k.packet.seq == seq % 2 ^ 32 && !k.flag

/-- A posted store, or one to a group, that the second stage of a target refused (R383): asynchronous, kind 1, with the lane of a vector
store. -/
def storeRefused (s : State) (k : Kept) : State :=
  if k.core = noCore then s
  else
    let r : Record := { cause := 0x09, code := 3, value := 1, mask := maskOf [k.lane], addrs := [listed s k.packet.ctx 0x09 3 k.va] }
    asyncFault s k.core { recordOf ((threadEver s k.tid).getD { core := k.core, ctx := k.packet.ctx }) r with tid := k.tid }

/-- `END_TO_END_ACKNOWLEDGEMENT` (R401): bit 32 of the number says that the second stage refused the packet (log 16). -/
def execEndToEndAcknowledgement (pkg plane seq : Nat) (s : State) : Out :=
  let flagged (k : Kept) : Kept := if k.packet.kind = 0x03 then { k with flag := false } else k
  match s.kept.find? fun k => ackedBy pkg plane seq (flagged k) with
  | none => .next s
  | some k =>
    let bad := seq / 2 ^ 32 % 2 == 1
    let s := if !bad then dropKept s k
      else if k.packet.kind = 0x0B then engineRefused s k 0
      else storeRefused (dropKept s k) k
    .next (settleFlags s)

/-! Links (R307, R400). -/

def linkOf (s : State) (l : Nat) : Link := getT {} s.links l
def putLink (s : State) (l : Nat) (x : Link) : State := { s with links := putT {} s.links l x }

/-- The peers that something is under way to: kept packets, flags, and monitors armed there. -/
def busyPeers (s : State) : List Nat :=
  sortNat (((s.kept.filter fun k => k.packet.kind != 0x0A && k.packet.kind != 0x11).map fun k => k.packet.dst)
    ++ s.monitors.filterMap (fun m => peerPkg m.loc) ++ s.flagWrites.filterMap fun w => peerPkg w.loc)

/-- A plane falls for every pair of this package, until a packet of the peer comes on it (R401, R427). -/
def planeFalls (s : State) (l : Nat) : State :=
  let b := BitVec.ofNat 18 (2 ^ l)
  let cut (e : Nat × Peer) : Option (Nat × Peer) :=
    let p := { e.2 with back := e.2.back &&& ~~~b }
    if p = {} then none else some (e.1, p)
  { s with fell := s.fell ||| b, peers := s.peers.filterMap cut }

/-- A link is down: its plane is dead for every pair of this package, and what it carried takes the next one (R401). -/
def linkDown (s : State) (l : Nat) : State :=
  let s := planeFalls (putLink s l { linkOf s l with up := false, training := false, fails := 0 }) l
  let s := { s with outbox := mapIf (fun p => p.via == l) (fun p => { p with via := viaPlane s p p.plane }) s.outbox }
  let s := flushOut (resendWhere s fun p => p.via == l)
  (busyPeers s).foldl lostPeer s

/-- `LIVE_TIMER` (R307): a liveness flit leaves on a link. -/
def execLiveTimer (link : Nat) (s : State) : Out :=
  if ¬ s.powered ∨ 18 ≤ link then .next s
  else
    let p := packet 0x00 0 0 0
    .next (sendOn s p link ⟨p, noCore, 0, 0, false, 0, noLane⟩)

/-- `LINK_SILENCE_TIMEOUT` (R307): a link without a flit is down; training flits count. -/
def execLinkSilenceTimeout (link : Nat) (s : State) : Out :=
  if 18 ≤ link ∨ ¬ (linkOf s link).up ∨ (linkOf s link).training then .next s else .next (linkDown s link)

/-- `FLIT_CRC_ERROR` (R400): the sixteenth in a row makes the link retrain. -/
def execFlitCrcError (link : Nat) (s : State) : Out :=
  let x := linkOf s link
  if 18 ≤ link ∨ ¬ x.up ∨ x.training then .next s
  else if 15 ≤ x.errors then .next (putLink s link { x with errors := 0, training := true })
  else .next (putLink s link { x with errors := x.errors + 1 })

/-- `LINK_LOCK_LOSS` (R400). -/
def execLinkLockLoss (link : Nat) (s : State) : Out :=
  let x := linkOf s link
  if 18 ≤ link ∨ ¬ x.up then .next s else .next (putLink s link { x with errors := 0, training := true })

/-- `LINK_RETRAIN_DONE` (R400): the third failure in a row marks the link down. -/
def execLinkRetrainDone (link : Nat) (good : Bool) (s : State) : Out :=
  let x := linkOf s link
  if 18 ≤ link ∨ ¬ x.training then .next s
  else if good then .next (flushOut (putLink s link { x with training := false, fails := 0, errors := 0 }))
  else if 2 ≤ x.fails then .next (linkDown s link)
  else .next (putLink s link { x with fails := x.fails + 1 })

/-- `LIVE` (R307): a flit has come on the link. The plane stays dead for a pair until a packet of the peer comes on it (R427). -/
def execLive (link : Nat) (s : State) : Out :=
  if 18 ≤ link then .next s else .next (flushOut (putLink s link { linkOf s link with up := true, errors := 0 }))

/-! Planes (R427). -/

/-- `PLANE_ACK_TIMEOUT`: a packet has waited too long; the plane is dead for the pair, and what waits on it is sent again. A write that the
peer has refused has its answer. -/
def execPlaneAckTimeout (pkg plane : Nat) (s : State) : Out :=
  let waits := s.kept.any fun k => k.packet.kind != 0x0A && k.packet.dst == pkg && k.packet.via == plane && !refusedWrite k
    && !s.outbox.contains k.packet
  if ¬ waits ∨ 18 ≤ plane then .next s
  else
    let s := setPeer s pkg { peerOf s pkg with dead := (peerOf s pkg).dead ||| BitVec.ofNat 18 (2 ^ plane) }
    .next (lostPeer (resendWhere s fun p => p.kind != 0x0A && p.dst == pkg && p.via == plane) pkg)

/-- `PLANE_PROBE_TIMER`: a dead plane whose own link is up is probed. -/
def execPlaneProbeTimer (pkg plane : Nat) (s : State) : Out :=
  .next (if (deadPlanes s pkg).getLsbD plane ∧ (linkOf s plane).up ∧ fabricUp s then sendProbe s pkg plane else s)

/-- `ROUTE_RETURN`: no package holds the number. -/
def execRouteReturn (pkg : Nat) (s : State) : Out :=
  if s.sent.any fun p => p.dst == pkg && p.kind != 0x00 && p.kind != 0x0A then
    .next (lostPeer (setPeer s pkg { peerOf s pkg with unknown := true }) pkg)
  else .next s

end Sys2Proof.Machine
end

