-- ==== Sys2Proof/Machine/Market.lean ====
section
/-! DEFINITION. The market instructions (major 0x6C, R228, R229). A `BID` reaches the Junction at its issue (log 19). -/
namespace Sys2Proof.Machine


/-- A bid register may hold the value (Table 10.6, R379). -/
def bidOk (s : State) (c : Nat) (b : BitVec 64) : Bool :=
  bidPrice b != 0xFFFFFFFF && decide (bidMax b ≤ unitsOf s c) && decide (bidMin b ≤ bidMax b)

/-- `BID` (R229). -/
def execBid (a c : Fin 64) (s : State) : Out :=
  issue s (.bid a c) <| withOperands s { srcs := [.k a false] } <|
    let b := readK s.g a
    if !bidOk s c.val b then opValue s (.bid a c) a else finish (putBid s s.g.ctx c.val b) s.g

/-- `BIDR` (R229). -/
def execBidr (d c : Fin 64) (s : State) : Out :=
  issue s (.bidr d c) <| withOperands s { dstK := [d] } <| finish s (writeK s.g d (bidOf s s.g.ctx c.val))

/-- `PRICE` (R229, R292): the price and the sequence number of one clearing. -/
def execPrice (d c : Fin 64) (s : State) : Out :=
  issue s (.price d c) <| withOperands s { dstK := [d] } <|
    finish s (writeK s.g d (BitVec.ofNat 64 (priceOf s c.val % 2 ^ 32 + s.priceSeq % 2 ^ 32 * 2 ^ 32)))

/-- `LEASE` (R229, R292). -/
def execLease (d c : Fin 64) (s : State) : Out :=
  issue s (.lease d c) <| withOperands s { dstK := [d] } <|
    let l := leaseOf s s.g.ctx c.val
    finish s (writeK s.g d (BitVec.ofNat 64 (l.units % 2 ^ 16 + l.floor % 2 ^ 16 * 2 ^ 16 + s.curSeq % 2 ^ 32 * 2 ^ 32)))

/-- The last price received from a package, with its stamp in bits [63:32] (R294); 0x0000_0000_FFFF_FFFF when none was, or when the
package is not a neighbour. -/
def peerPrice (s : State) (pkg c : Nat) : BitVec 64 :=
  if s.nbrSeen.contains pkg ∧ (neighbours s).contains pkg then getT 0 s.nbrPrices (pkg * 8 + c) else 0xFFFFFFFF

/-- `PEERP` (R229). -/
def execPeerp (d a c : Fin 64) (s : State) : Out :=
  issue s (.peerp d a c) <| withOperands s { srcs := [.k a false], dstK := [d] } <|
    let p := (readK s.g a).toNat
    if 2 ^ 12 ≤ p then opValue s (.peerp d a c) a else finish s (writeK s.g d (peerPrice s p c.val))

end Sys2Proof.Machine
end

