-- ==== Sys2Proof/Machine/Packets.lean ====
section
/-! DEFINITION. Command queues and their packets (R272 to R281, R393 to R396): reading a packet whole, the defects of Table 25.2, and
the launches and sub-packets that a sound packet holds. -/
namespace Sys2Proof.Machine

/-! Queues. -/

/-- Units between the read and the write index (R275). -/
def queuePending (x : Queue) : Nat := (x.widx + 2 ^ 32 - x.ridx % 2 ^ 32) % 2 ^ 32

/-- Address of unit w of a queue's ring (R272). -/
def unitAddr (s : State) (q w : Nat) : Nat := csrRaw s (csrQbase q) + 32 * (w % 2 ^ queueBits s q)

/-- The queue may consume (R393, R396, R365). -/
def queueLive (s : State) (q : Nat) : Bool := queueOn s q && !(queueOf s q).halted && !ctxEnded s (queueCtx s q)

/-- A header of the queue is to be read. -/
def queueReady (s : State) (q : Nat) : Bool :=
  queueLive s q && (queueOf s q).look && (queueOf s q).waitSig.isNone && queuePending (queueOf s q) != 0

/-- The enabled queues of a tenant, ascending. DESIGN CHOICE (log 61): an index ya of a policy (Tables 13.5, 13.6) counts these, a halted queue
among them; the spec does not say which queues it numbers. -/
def queuesOf (s : State) (tenant : Nat) : List Nat :=
  s.csr.filterMap fun e =>
    let q := (e.1 - 0x100000) / 4
    if 0x100000 ≤ e.1 ∧ e.1 < 0x100000 + 4 * 4096 ∧ e.1 % 4 = 2 ∧ queueOn s q ∧ tenantOf s (queueCtx s q) = tenant then some q
    else none

/-- The first of a list that lies above a number, else the first of all. -/
def nextAfter (l : List Nat) (n : Nat) : Option Nat := match l.find? fun x => decide (n < x) with
  | some x => some x
  | none => l.head?

/-- The queue of its tenant that goes next (R288): the one that a policy named, while it has work, else in rotating order. -/
def mayTake (s : State) (q : Nat) : Bool :=
  let t := tenantOf s (queueCtx s q)
  let work := (queuesOf s t).filter (queueReady s)
  let c := getT 0 s.chosen t
  if c ≠ 0 ∧ work.contains (c - 1) then q == c - 1
  else if getT 0 s.rotor t = 0 then work.head? == some q
  else nextAfter work (getT 0 s.rotor t - 1) == some q

/-! Packets. -/

/-- Units as read, each as its four doubles, or none where it does not translate. -/
abbrev Units := List (Option (List Nat))

/-- A read of the command processor, within one line: of a peer's memory, from a line that has come into its buffer; none when it does not
translate or the peer refuses it. -/
def cpRead (s : State) (ctx va n : Nat) : Option Nat :=
  match translateNow s ctx va 0 with
  | .ok (.peer p off) =>
    let l := rdcLine s noCore (lineKey (.peer p off))
    if l.dirty = 0 ∧ lineHas l (off % 128) n then some (lineRead l (off % 128) n) else none
  | .ok loc => some (placeRead s loc n)
  | _ => none

/-- The line of a peer that a read has still to wait for: package and offset. -/
def cpAsks (s : State) (ctx va n : Nat) : List (Nat × Nat) :=
  match translateNow s ctx va 0 with
  | .ok (.peer p off) =>
    let l := rdcLine s noCore (lineKey (.peer p off))
    if l.dirty ≠ 0 ∨ lineHas l (off % 128) n ∨ 128 < off % 128 + n then [] else [(p, off / 128 * 128)]
  | _ => []

/-- The command processor's lines of peers are dropped: what it reads next it reads anew. -/
def dropBuffer (s : State) : State := { s with rdc := s.rdc.filter fun e => e.1 / 2 ^ 60 != noCore }

def readUnits (s : State) (ctx : Nat) (addr : Nat → Nat) (n : Nat) : Units :=
  (List.range n).map fun i => (cpRead s ctx (addr i) 32).map fun x => [x % 2 ^ 64, x / 2 ^ 64 % 2 ^ 64, x / 2 ^ 128 % 2 ^ 64, x / 2 ^ 192 % 2 ^ 64]

/-- Every unit has been read. -/
def allRead (l : Units) : Bool := l.all Option.isSome

/-- The doubles of units. In the place of a unit that does not translate stand doubles that show no defect of their own, so that the checks
find what can be read defective and nothing else (R395). -/
def doublesOf (sound : Nat → List Nat) (l : Units) : List Nat := l.zipIdx.flatMap fun x => x.1.getD (sound x.2)

/-- Doubles as units. -/
def asUnits (d : List Nat) : Units := (List.range (d.length / 4)).map fun i => some ((d.drop (4 * i)).take 4)

/-- Bits `hi` to `lo` of a double. -/
def field (x hi lo : Nat) : Nat := x / 2 ^ lo % 2 ^ (hi - lo + 1)

def dbl (l : List Nat) (i : Nat) : Nat := l.getD i 0
def headType (h : Nat) : Nat := field h 15 8
def headLen (h : Nat) : Nat := field h 23 16

/-- Reserved bits of a header (Table 13.1). -/
def headReserved (h : Nat) : Bool := field h 7 1 != 0 || field h 63 24 != 0

/-- A kernel object as read: header doubles and bucket doubles. -/
structure Kobj where
  head : List Nat
  ents : List (List Nat)
  deriving DecidableEq, Repr

/-- What can be read of a kernel object (Table 13.4), and whether that is all of it; none when its header cannot. -/
def partKobj (s : State) (ctx va : Nat) : Option (Kobj × Bool) :=
  let row (i : Nat) : Option (List Nat) :=
    let l := readUnits s ctx (fun j => va + 64 * i + 32 * j) 2
    if allRead l then some (doublesOf (fun _ => []) l) else none
  (row 0).map fun h =>
    let es := (List.range (field (dbl h 0) 4 0)).map fun i => row (i + 1)
    (⟨h, es.filterMap fun x => x⟩, es.all Option.isSome)

/-- Read a kernel object whole; none when it does not translate. -/
def readKobj (s : State) (ctx va : Nat) : Option Kobj := match partKobj s ctx va with
  | some (k, true) => some k
  | _ => none

/-- The lines of peers that the reading of a kernel object has still to wait for. -/
def kobjAsks (s : State) (ctx va : Nat) : List (Nat × Nat) :=
  let row (i : Nat) : List (Nat × Nat) := [0, 32].flatMap fun j => cpAsks s ctx (va + 64 * i + j) 32
  let n := match partKobj s ctx va with
    | some (k, _) => field (dbl k.head 0) 4 0
    | none => 0
  (List.range (n + 1)).flatMap row

/-- A kernel object sets a reserved bit. -/
def kobjReserved (k : Kobj) : Bool :=
  field (dbl k.head 0) 63 6 != 0 || field (dbl k.head 1) 63 57 != 0 || field (dbl k.head 2) 63 32 != 0
    || [3, 4, 5, 6, 7].any (fun i => dbl k.head i != 0)
    || k.ents.any fun e => field (dbl e 0) 63 54 != 0 || [5, 6, 7].any fun i => dbl e i != 0

def kobjMcc (k : Kobj) : Bool := field (dbl k.head 0) 5 5 == 1

/-- A field of a kernel object is out of range (Table 25.2, SUB 5). -/
def kobjRange (k : Kobj) : Bool :=
  !(1 ≤ field (dbl k.head 0) 4 0 && field (dbl k.head 0) 4 0 ≤ 16) || field (dbl k.head 1) 56 0 % 4 != 0
    || k.ents.any fun e => decide (32 < field (dbl e 0) 53 48)

/-- The first bucket that matches the shape values (R281). -/
def bucketOf (k : Kobj) (shape : Nat → Nat) : Option Nat :=
  (List.range k.ents.length).find? fun i =>
    let e := k.ents.getD i []
    [0, 1, 2, 3].all fun j => decide (field (dbl e (1 + j)) 31 0 ≤ shape j) && decide (shape j ≤ field (dbl e (1 + j)) 63 32)

/-- SHAPEj of a launch packet. -/
def shapeOf (d : List Nat) (j : Nat) : Nat := field (dbl d (3 + j / 2)) (32 * (j % 2) + 31) (32 * (j % 2))

/-- Reserved bits of a launch packet's body (Table 13.3). -/
def launchReserved (d : List Nat) : Bool :=
  field (dbl d 1) 63 57 != 0 || field (dbl d 2) 63 41 != 0 || field (dbl d 5) 63 57 != 0 || field (dbl d 6) 63 57 != 0
    || field (dbl d 7) 63 45 != 0 || field (dbl d 8) 39 39 != 0 || field (dbl d 8) 47 47 != 0 || field (dbl d 8) 63 61 != 0

/-- A field of a launch packet is out of range. The SIG of a sub-launch is ignored (R279); DESIGN CHOICE (log 61): so is its alignment, which
Table 25.2 lists without naming sub-launches. -/
def launchRange (alone : Bool) (d : List Nat) (k : Option Kobj) : Bool :=
  let nblk := field (dbl d 2) 31 0
  let bpg := field (dbl d 2) 37 32
  let need := (k.map fun k => field (dbl k.head 2) 31 0).getD 0
  nblk == 0 || bpg == 0 || decide (32 < bpg) || nblk % max 1 bpg != 0 || decide (field (dbl d 7) 31 0 < need * nblk)
    || decide (64 < field (dbl d 8) 53 48 + field (dbl d 8) 60 54) || decide (field (dbl d 8) 46 40 < field (dbl d 8) 38 32)
    || decide (4096 < field (dbl d 7) 44 32) || field (dbl d 1) 56 0 % 64 != 0 || (alone && field (dbl d 5) 56 0 % 8 != 0)
    || field (dbl d 6) 56 0 % 4096 != 0

/-- A signal address that cannot be decremented: no R and W (Table 25.2, SUB 7). A peer's second stage is not looked at. -/
def sigBad (s : State) (ctx va : Nat) : Bool := va != 0 && (match translateNow s ctx va 2 with
  | .ok _ => false
  | _ => true)

/-- The doubles of a launch packet's units: SAVESZ of a unit that does not translate is taken as sufficient. -/
def launchDoubles (us : Units) : List Nat := doublesOf (fun i => if i = 1 then [0, 0, 0, 2 ^ 32 - 1] else [0, 0, 0, 0]) us

/-- The defects of a launch packet or sub-packet, by SUB; `alone` says that it stands outside a bundle. -/
def launchDefects (s : State) (ctx : Nat) (alone : Bool) (us : Units) : List Nat :=
  let d := launchDoubles us
  let part := partKobj s ctx (field (dbl d 1) 56 0)
  let k := part.map fun x => x.1
  let whole := (part.map fun x => x.2).getD false
  (if headLen (dbl d 0) = 3 then [] else [3])
    ++ (if headReserved (dbl d 0) || launchReserved d || (k.map kobjReserved).getD false then [4] else [])
    ++ (if launchRange alone d k || (k.map kobjRange).getD false then [5] else [])
    ++ (match k with
      | some k => if whole && (us.getD 1 none).isSome && (bucketOf k (shapeOf d)).isNone then [6] else []
      | none => [])
    ++ (if whole && allRead us then [] else [7])
    ++ (if alone && sigBad s ctx (field (dbl d 5) 56 0) then [7] else [])
    ++ (if alone && (k.map kobjMcc).getD false then [8] else [])

/-- The words of a copy sub-packet as a `CPY.REM` descriptor without a record; of a quantise sub-packet, its descriptor. -/
def copyDesc (d : List Nat) : List (BitVec 64) :=
  [BitVec.ofNat 64 (dbl d 1), BitVec.ofNat 64 (dbl d 2), BitVec.ofNat 64 (field (dbl d 3) 39 0 + field (dbl d 3) 63 48 * 2 ^ 48)]
def quantDesc (d : List Nat) : List (BitVec 64) := [1, 2, 3, 4].map fun i => BitVec.ofNat 64 (dbl d i)
def quantKind (d : List Nat) : EngKind := if dbl d 5 % 2 = 1 then .qntDec else .qntEnc

/-- The defects of a copy sub-packet. -/
def copyDefects (d : List Nat) : List Nat :=
  let w := copyDesc d
  let f := resBits w 0 63 57 ++ resBits w 1 63 57 ++ resBits w 2 63 48
  let n := field (dbl d 3) 39 0
  (if headLen (dbl d 0) = 1 then [] else [3]) ++ (if headReserved (dbl d 0) || f != [] then [4] else [])
    ++ (if bits (word w 0) 56 0 % 16 != 0 || bits (word w 1) 56 0 % 16 != 0 || n % 16 != 0
        || (decide (bits (word w 0) 56 0 < bits (word w 1) 56 0 + n) && decide (bits (word w 1) 56 0 < bits (word w 0) 56 0 + n)) then [5] else [])

/-- The doubles of a quantise sub-packet's units: formats and count of a unit that does not translate are taken as sound. -/
def quantDoubles (us : Units) : List Nat := doublesOf (fun _ => [0x2 * 2 ^ 32 + 0x12 * 2 ^ 40, 0, 0, 0]) us

/-- The defects of a quantise sub-packet. -/
def quantDefects (us : Units) : List Nat :=
  let d := quantDoubles us
  let w := quantDesc d
  let f := qntFlaws (quantKind d == .qntEnc) w
  (if headLen (dbl d 0) = 2 then [] else [3])
    ++ (if headReserved (dbl d 0) || f.any (fun x => x.reserved && decide (48 ≤ x.bit)) || dbl d 5 / 2 != 0 || dbl d 6 != 0 || dbl d 7 != 0
        then [4] else [])
    ++ (if f.any (fun x => !(x.reserved && decide (48 ≤ x.bit))) then [5] else [])

/-- The length in units that a type demands inside a bundle; 0 for a type that may not stand there. -/
def subUnits (type : Nat) : Nat := if type = 1 then 3 else if type = 5 then 1 else if type = 6 then 2 else 0

/-- The type of a sub-packet; 0 stands for none when its first unit does not translate. -/
def subType (us : Units) : Nat := headType (dbl ((us.headD none).getD []) 0)

/-- The sub-packets of a bundle's units, and whether they fill the packet exactly (R278, R279). None is found from a unit on that does not
translate, or that has a type which may not stand in a bundle. -/
def splitSubs : Nat → Units → List Units × Bool
  | 0, l => ([], l == [])
  | _ + 1, [] => ([], false)
  | _ + 1, none :: _ => ([], true)
  | n + 1, some d :: l =>
    let k := subUnits (headType (dbl d 0))
    if k = 0 ∨ l.length + 1 < k then ([some d :: l], false)
    else let r := splitSubs n ((some d :: l).drop k); ((some d :: l).take k :: r.1, r.2)

/-- The doubles of the sub-packets of a bundle that has been read whole. -/
def subsOf (n : Nat) (d : List Nat) : List (List Nat) := (splitSubs n (asUnits d)).1.map (doublesOf fun _ => [])

/-- A sub-packet of a type that may not stand in a bundle. -/
def subBad (us : Units) : Bool := subUnits (subType us) == 0

/-- A launch sub-packet of a matrix program. -/
def isMatrixSub (s : State) (ctx : Nat) (us : Units) : Bool :=
  subType us == 1 && ((partKobj s ctx (field (dbl (launchDoubles us) 1) 56 0)).map fun k => kobjMcc k.1).getD false

/-- The pairing of matrix programs (R279): each follows a grid that no other pairs with. The list is read from the front; `free` says
that a grid is free to pair. -/
def pairsOk (s : State) (ctx : Nat) : Bool → List Units → Bool
  | _, [] => true
  | free, d :: ds =>
    if subType d != 1 then pairsOk s ctx free ds
    else if isMatrixSub s ctx d then free && pairsOk s ctx false ds
    else pairsOk s ctx true ds

/-- The defects of a bundle, whole. -/
def bundleDefects (s : State) (ctx : Nat) (us : Units) : List Nat :=
  let d := (us.headD none).getD []
  let n := field (dbl d 1) 3 0
  let r := splitSubs n (us.drop 1)
  let sub (x : Units) : List Nat :=
    if subType x = 1 then launchDefects s ctx false x else if subType x = 5 then copyDefects (doublesOf (fun _ => []) x)
    else if subType x = 6 then quantDefects x else [2]
  (if n = 0 ∨ 8 < n ∨ !r.2 then [3] else []) ++ (if headReserved (dbl d 0) then [4] else []) ++ (if dbl d 2 % 8 != 0 then [5] else [])
    ++ (if sigBad s ctx (dbl d 2) then [7] else []) ++ (if r.1.any subBad then [2] else [])
    ++ (r.1.filter fun x => !subBad x && x.length == subUnits (subType x)).flatMap sub
    ++ (if pairsOk s ctx false r.1 then [] else [8])

/-- The defects of a packet at the head of a queue (Table 25.2), by its header and its units. -/
def packetDefects (s : State) (q h : Nat) (us : Units) : List Nat :=
  let ctx := queueCtx s q
  let type := headType h
  let ring := match translateNow s ctx (unitAddr s q (queueOf s q).ridx) 2, translateNow s ctx (csrRaw s (csrQridx q)) 1 with
    | .ok _, .ok _ => []
    | _, _ => [7]
  (if headLen h = 0 ∨ 2 ^ queueBits s q < headLen h then [1] else []) ++ (if type = 0 ∨ 4 < type then [2] else []) ++ ring
    ++ (if allRead us then [] else [7]) ++ (if headReserved h then [4] else [])
    ++ (match us with
      | some d :: _ =>
        if type = 1 then launchDefects s ctx true us
        else if type = 2 then bundleDefects s ctx us
        else if type = 3 then
          (if headLen h = 1 then [] else [3]) ++ (match translateNow s ctx (field (dbl d 1) 56 0) 0 with | .ok _ => [] | _ => [7])
        else []
      | _ => [])

/-- The lowest defect, 0 for none. -/
def lowestSub (l : List Nat) : Nat := l.foldl (fun a x => if a = 0 ∨ x < a then x else a) 0

/-- What the command processor finds at the head of a queue. -/
inductive Head where
  | none                       -- nothing to read
  | notYet                     -- VALID is 0, or the packet reaches past the write index
  | ask (l : List (Nat × Nat)) -- lines of peers that are still to come
  | bad (sub : Nat)
  | ok (type len : Nat) (d : List Nat)
  deriving DecidableEq, Repr

/-- The kernel objects that a packet names, by its own launch or those of its sub-packets. -/
def kobjsOf (us : Units) : List Nat :=
  let named (x : Units) : Nat := field (dbl (launchDoubles x) 1) 56 0
  match subType us with
  | 1 => [named us]
  | 2 => ((splitSubs (field (dbl ((us.headD none).getD []) 1) 3 0) (us.drop 1)).1.filter fun x => subType x == 1).map named
  | _ => []

/-- Read the head of a queue (R276 steps 1 to 3, R395). The packet is read whole; what lies on a peer is waited for. -/
def readHead (s : State) (q : Nat) : Head :=
  if !queueReady s q then .none
  else
    let x := queueOf s q
    let ctx := queueCtx s q
    let unit (i : Nat) : Nat := unitAddr s q (x.ridx + i)
    match cpAsks s ctx (unit 0) 8, cpRead s ctx (unit 0) 8 with
    | y :: l, _ => .ask (y :: l)
    | [], none => .bad 7
    | [], some h =>
      if h % 2 = 0 then .notYet
      else if 0 < headLen h ∧ headLen h ≤ 2 ^ queueBits s q ∧ queuePending x < headLen h then .notYet
      else
        let us := readUnits s ctx unit (headLen h)
        match (List.range (headLen h)).flatMap (fun i => cpAsks s ctx (unit i) 32) ++ (kobjsOf us).flatMap (kobjAsks s ctx) with
        | y :: l => .ask (y :: l)
        | [] =>
          let sub := lowestSub (packetDefects s q h us)
          if sub ≠ 0 then .bad sub else .ok (headType h) (headLen h) (doublesOf (fun _ => []) us)

/-- Steps 4 and 5 of R276: the header is zeroed, the read index passes the packet. -/
def consume (s : State) (q len : Nat) : State :=
  let x := queueOf s q
  let s := (devWrite (dropBuffer s) (queueCtx s q) (unitAddr s q x.ridx) 8 0).getD (dropBuffer s)
  let t := tenantOf s (queueCtx s q)
  let s := { s with rotor := putT 0 s.rotor t (q + 1), chosen := putT 0 s.chosen t 0 }
  writeRidx (putQueue s q { x with ridx := (x.ridx + len) % 2 ^ 32, look := true, waitSig := none }) q

/-- The head of a queue is handled: nothing, a wait for the next notify, a halt, or `k` for a sound packet of a wanted type. -/
def withHead (s : State) (q : Nat) (want : Nat → Bool) (k : Nat → List Nat → State) : State :=
  if !mayTake s q then s
  else match readHead s q with
    | .none => s
    | .notYet => putQueue (dropBuffer s) q { queueOf s q with look := false }
    | .ask l => rmaAsk s (queueCtx s q) l
    | .bad sub => haltQueue (dropBuffer s) q 0x21 sub
    | .ok type len d => if want type then k len d else s

/-! Launches. -/

/-- A launch from its packet, its kernel object and its bucket. -/
def makeLaunch (id ctx queue bundle : Nat) (d : List Nat) (k : Kobj) : Launch :=
  let b := (bucketOf k (shapeOf d)).getD 0
  let e := dbl (k.ents.getD b []) 0
  { id := id, ctx := ctx, queue := queue, bundle := bundle, kobj := field (dbl d 1) 56 0, nblk := field (dbl d 2) 31 0
    bpg := field (dbl d 2) 37 32, split := field (dbl d 2) 38 38 == 1, home := field (dbl d 2) 40 39
    shape0 := shapeOf d 0, shape1 := shapeOf d 1, shape2 := shapeOf d 2, shape3 := shapeOf d 3
    sig := if bundle = 0 then field (dbl d 5) 56 0 else 0, save := field (dbl d 6) 56 0, savesz := field (dbl d 7) 31 0
    nsplit := field (dbl d 7) 44 32, mccb := BitVec.ofNat 16 (dbl d 8), narrow := BitVec.ofNat 16 (field (dbl d 8) 31 16)
    nlo := field (dbl d 8) 38 32, nhi := field (dbl d 8) 46 40, recb := field (dbl d 8) 53 48, recn := field (dbl d 8) 60 54
    arg0 := BitVec.ofNat 64 (dbl d 9), arg1 := BitVec.ofNat 64 (dbl d 10)
    handles := [0, 1, 2, 3].map fun i => field (dbl d 11) (16 * i + 15) (16 * i), bucket := b
    code := field (dbl k.head 1) 56 0, entry := field e 31 0, rows := field e 35 32 + 1, allot := 8 * (field e 40 36 + 1)
    gpb := field e 47 41 + 1, banks := field e 53 48, mcc := kobjMcc k }

/-- Handle number and write bit of a handle field; 0 names none (Table 13.3). -/
def handleNo (h : Nat) : Nat := h % 2 ^ 15
def handleWrites (h : Nat) : Bool := h / 2 ^ 15 % 2 == 1
def handleKey (ctx h : Nat) : Nat := ctx * 2 ^ 15 + handleNo h
def handleOf (s : State) (ctx h : Nat) : Handle := getT {} s.handles (handleKey ctx h)

/-- The launches that the handles of a launch make it depend on (R286). -/
def handleDeps (s : State) (l : Launch) : List Nat :=
  (l.handles.filter fun h => handleNo h != 0).flatMap fun h =>
    let x := handleOf s l.ctx h
    x.writers ++ (if handleWrites h then x.readers else [])

/-- The launch is a sub-launch of the same bundle, so that neither depends on the other. -/
def bundleMate (s : State) (l : Launch) (id : Nat) : Bool := l.bundle != 0 && (launchOf s id).bundle == l.bundle

/-- Note a launch as the last writer, or as a reader, of its handles (R286). Its bundle's own launches stay noted beside it. -/
def noteHandles (s : State) (l : Launch) : State :=
  (l.handles.filter fun h => handleNo h != 0).foldl (fun s h =>
    let x := handleOf s l.ctx h
    let x := if handleWrites h then { x with writers := l.id :: x.writers.filter (bundleMate s l), readers := x.readers.filter (bundleMate s l) }
      else { x with readers := x.readers ++ [l.id] }
    { s with handles := putT {} s.handles (handleKey l.ctx h) x }) s

/-- The signal that tells a launch's completion: its own, or its bundle's. -/
def signalOf (s : State) (l : Launch) : Nat := if l.bundle = 0 then l.sig else (bundleOf s l.bundle).sig

/-- The launches that a wait packet of the queue has named (R286). -/
def namedDeps (s : State) (l : Launch) : List Nat :=
  (s.launches.filter fun x => x.ctx == l.ctx && signalOf s x != 0 && (queueOf s l.queue).named.contains (signalOf s x)).map Launch.id

/-- Launches of a list that have not retired, outside a bundle. -/
def unretired (s : State) (bundle : Nat) (l : List Nat) : List Nat :=
  sortNat ((s.launches.filter fun x => !x.retired && l.contains x.id && (bundle == 0 || x.bundle != bundle)).map Launch.id)

/-- Enter a consumed launch. -/
def enterLaunch (s : State) (l : Launch) : State :=
  let l := { l with deps := unretired s l.bundle (handleDeps s l ++ namedDeps s l) }
  noteHandles { s with launches := s.launches ++ [l] } l

/-- A matrix program pairs with the nearest grid before it (R279): its dependences become those of the grid. -/
def pairLaunch (s : State) (l : Launch) : State :=
  match (s.launches.filter fun x => x.bundle == l.bundle && !x.mcc && x.id != l.id).getLast? with
  | none => s
  | some x =>
    let m := launchOf s l.id
    updLaunch (updLaunch s l.id fun m => { m with pair := x.id }) x.id fun x => { x with pair := l.id, deps := sortNat (x.deps ++ m.deps) }

/-- A copy or quantise sub-packet becomes an operation of the command processor (R278). -/
def enterSubOp (s : State) (q bundle : Nat) (d : List Nat) : State :=
  let (id, s) := fresh s
  let copy := headType (dbl d 0) == 5
  { s with engines := s.engines ++ [
      { id := id, kind := if copy then .cpyRem else quantKind d, ctx := queueCtx s q, desc := if copy then copyDesc d else quantDesc d
        core := noCore, cq := true, bundle := bundle, die := queueDie q }] }

/-- A sub-packet of a bundle is entered. -/
def enterSub (q bundle : Nat) (s : State) (d : List Nat) : State :=
  if headType (dbl d 0) ≠ 1 then enterSubOp s q bundle d
  else match readKobj s (queueCtx s q) (field (dbl d 1) 56 0) with
    | none => s
    | some k =>
      let (id, s) := fresh s
      let l := makeLaunch id (queueCtx s q) q bundle d k
      let s := enterLaunch s l
      if l.mcc then pairLaunch s l else s

end Sys2Proof.Machine
end

