-- ==== Sys2Proof/Machine/Policy.lean ====
section
/-! DEFINITION. Tenant scheduling policies (R287 to R289): the check of a program, and its run. -/
namespace Sys2Proof.Machine

/-! Policy words. -/

def polOp (w : BitVec 32) : Nat := w.toNat / 2 ^ 26 % 2 ^ 6
def polD (w : BitVec 32) : Nat := w.toNat / 2 ^ 22 % 2 ^ 4
def polA (w : BitVec 32) : Nat := w.toNat / 2 ^ 18 % 2 ^ 4
def polB (w : BitVec 32) : Nat := w.toNat / 2 ^ 14 % 2 ^ 4
def polImm (w : BitVec 32) : Nat := w.toNat % 2 ^ 14

/-- The immediate, sign-extended to 64 bits. -/
def polSext (w : BitVec 32) : BitVec 64 := (BitVec.ofNat 14 w.toNat).signExtend 64

/-- The fields that a form names: d, a, b, imm (Table 13.5). -/
def polFields (op : Nat) : Option (Bool × Bool × Bool × Bool) :=
  match op with
  | 0x00 => some (false, false, false, false)
  | 0x01 => some (true, false, false, true)
  | 0x02 => some (true, true, true, false)
  | 0x03 => some (true, true, true, false)
  | 0x04 => some (true, true, true, false)
  | 0x05 => some (true, true, true, false)
  | 0x06 => some (true, true, true, false)
  | 0x07 => some (true, true, false, true)
  | 0x08 => some (true, true, false, true)
  | 0x09 => some (false, true, true, true)
  | 0x0A => some (false, true, true, true)
  | 0x0B => some (false, false, false, true)
  | 0x0C => some (false, false, false, false)
  | 0x0D => some (true, true, false, true)
  | 0x0E => some (false, true, false, true)
  | 0x0F => some (false, true, false, false)
  | 0x10 => some (true, true, false, true)
  | _ => none

/-- A word with no reserved op and no non-zero unused field; a `LOOP` count is 1 to 64. -/
def polWordOk (w : BitVec 32) : Bool :=
  match polFields (polOp w) with
  | none => false
  | some (d, a, b, i) => (d || polD w == 0) && (a || polA w == 0) && (b || polB w == 0) && (i || polImm w == 0)
      && (polOp w != 0x0B || (1 ≤ polImm w && polImm w ≤ 64))

/-- Positions of the words with an op. -/
def polAt (p : List (BitVec 32)) (op : Nat) : List Nat := (List.range p.length).filter fun i => polOp (p.getD i 0) == op

/-- A skip at i lands inside the program and does not enter or leave the body of the loop (R287). -/
def polSkipOk (p : List (BitVec 32)) (i : Nat) : Bool :=
  let j := i + 1 + polImm (p.getD i 0)
  decide (j < p.length) && (match (polAt p 0x0B).head?, (polAt p 0x0C).head? with
    | some a, some b => (decide (a < i) && decide (i ≤ b)) == (decide (a < j) && decide (j ≤ b))
    | _, _ => true)

/-- The check that firmware makes at load (R287). -/
def policyOk (p : List (BitVec 32)) : Bool :=
  decide (p.length ≤ 256) && p.all polWordOk && polOp (p.getLastD 0xFFFFFFFF) == 0
    && (match polAt p 0x0B, polAt p 0x0C with
      | [], [] => true
      | [a], [b] => decide (a < b)
      | _, _ => false)
    && ((List.range p.length).all fun i =>
      let op := polOp (p.getD i 0)
      !(op == 0x09 || op == 0x0A) || polSkipOk p i)

/-! Runs. -/

/-- What a run looks at: the event, the tenant, and the current context. -/
structure PolRun where
  event  : Nat
  tenant : Nat
  ctx    : Nat

/-- An input item with an index (Table 13.6). -/
def polInput (s : State) (r : PolRun) (item y : Nat) : BitVec 64 :=
  let qs := queuesOf s r.tenant
  match item with
  | 0 => BitVec.ofNat 64 r.event
  | 1 => BitVec.ofNat 64 qs.length
  | 2 => match qs[y]? with
    | some q => BitVec.ofNat 64 (queuePending (queueOf s q))
    | none => 0
  | 3 => match qs[y]? with
    | some q => BitVec.ofNat 64 (csrRaw s (csrQdead q))
    | none => 0
  | 4 => BitVec.ofNat 64 (csrRaw s csrSeq)
  | 5 => BitVec.ofNat 64 (getT 0 s.purses r.tenant)
  | 6 => if y < 5 then BitVec.ofNat 64 (priceOf s y) else 0
  | 7 => if y < 5 then bidOf s r.ctx y else 0
  | 8 => if y < 5 then BitVec.ofNat 64 (leaseOf s r.ctx y).units else 0
  | 9 => if y < 5 then BitVec.ofNat 64 (floorOf s r.tenant y) else 0
  | _ => 0

/-- An output of a run, in order. -/
inductive PolOut where
  | bid (c : Nat) (v : BitVec 64)
  | runq (y : Nat)
  deriving DecidableEq, Repr

/-- A run under way: the next word, the registers, the runs of the loop that remain, the outputs. -/
structure PolState where
  at'  : Nat := 0
  y    : List (BitVec 64) := List.replicate 16 0
  left : Nat := 0
  outs : List PolOut := []
  deriving DecidableEq, Repr

/-- One policy word; none at `END`. -/
def polStep (s : State) (r : PolRun) (p : List (BitVec 32)) (t : PolState) : Option PolState :=
  let w := p.getD t.at' 0
  let y (n : Nat) : BitVec 64 := t.y.getD n 0
  let a := y (polA w)
  let b := y (polB w)
  let on : PolState := { t with at' := t.at' + 1 }
  let put (v : BitVec 64) : Option PolState := some { on with y := t.y.set (polD w) v }
  let skip (c : Bool) : Option PolState := some (if c then { t with at' := t.at' + 1 + polImm w } else on)
  match polOp w with
  | 0x00 => none
  | 0x01 => put (polSext w)
  | 0x02 => put (a + b)
  | 0x03 => put (a - b)
  | 0x04 => put (a * b)
  | 0x05 => put (if a.toNat ≤ b.toNat then a else b)
  | 0x06 => put (if a.toNat ≤ b.toNat then b else a)
  | 0x07 => put (a <<< (polImm w % 64))
  | 0x08 => put (a >>> (polImm w % 64))
  | 0x09 => skip (decide (a.toNat < b.toNat))
  | 0x0A => skip (a == b)
  | 0x0B => some { on with left := polImm w - 1 }
  | 0x0C => some (if t.left = 0 then on else { t with at' := (polAt p 0x0B).headD 0 + 1, left := t.left - 1 })
  | 0x0D => put (polInput s r (polImm w % 16) a.toNat)
  | 0x0E => some { on with outs := t.outs ++ [.bid (polImm w % 8) a] }
  | 0x0F => some { on with outs := t.outs ++ [.runq a.toNat] }
  | 0x10 => put (a + polSext w)
  | _ => none

/-- Words until `END`: a checked program takes at most 256 × 64 of them. -/
def polRun (s : State) (r : PolRun) (p : List (BitVec 32)) : Nat → PolState → PolState
  | 0, t => t
  | n + 1, t => match polStep s r p t with
    | none => t
    | some u => polRun s r p n u

/-- One output takes effect (R288): a `BIDW` acts as a `BID` of the context, a `RUNQ` names the tenant's next queue at a pick. -/
def polOutput (r : PolRun) (qs : List Nat) (s : State) : PolOut → State
  | .bid c v => if c < 5 ∧ bidOk s c v then putBid s r.ctx c v else s
  | .runq y => match qs[y]? with
    | some q => if r.event = 0 then { s with chosen := putT 0 s.chosen r.tenant (q + 1) } else s
    | none => s

/-- Run a tenant's policy at an event (R288, R289); a program that fails its check is not run. -/
def runPolicy (s : State) (r : PolRun) : State :=
  match s.policies.find? fun p => p.1 == r.tenant with
  | none => s
  | some p =>
    if policyOk p.2 then (polRun s r p.2 16384 {}).outs.foldl (polOutput r (queuesOf s r.tenant)) s else s

/-- A pick (R289): a place frees for the tenant of a context, and two or more of its queues have work. -/
def pick (s : State) (ctx : Nat) : State :=
  let t := tenantOf s ctx
  if 2 ≤ ((queuesOf s t).filter (queueReady s)).length then runPolicy s ⟨0, t, ctx⟩ else s

end Sys2Proof.Machine
end

