-- ==== Sys2Proof/Machine/Placement.lean ====
section
/-! DEFINITION. Where blocks and gangs stand (R30 to R32, R48 to R51, R237, R282 to R284): seats in partitions, banks, records and
matrix units; new blocks and gangs; the halt and the resumption of a gang. -/
namespace Sys2Proof.Machine

/-! Seats. -/

/-- A partition and what is taken of it (R31). -/
structure Part where
  core  : Nat
  part  : Nat
  slots : List Nat
  rows  : Nat
  regs  : Nat
  free  : Nat                 -- free entries of its core's section table (R51)
  deriving DecidableEq, Repr

/-- The image of a gang has left a core: it is in the siding, or the Depot has moved it on (R50). -/
def imageOut (s : State) (gang core : Nat) : Bool := getT 0 s.sidings core == gang || (gangOf s gang).moved.contains core

/-- The context of a group is on its core: its gang is resident, or halted and not in the siding yet (R50). -/
def onCore (s : State) (g : Group) : Bool :=
  g.live && (match (gangOf s g.gang).place with
    | .resident => true
    | .halted => !imageOut s g.gang g.core
    | _ => false)

/-- A core that firmware has reserved (R18). -/
def isReserved (s : State) (core : Nat) : Bool := [0, 1, 2, 3].any fun d => fwCore s d == core

/-- The partitions of a cluster's tenant cores. -/
def partsOf (s : State) (clu : Nat) : List Part :=
  ([3 * clu, 3 * clu + 1, 3 * clu + 2].filter fun c => !isReserved s c).flatMap fun c => (List.range 12).map fun p =>
    let gs := (threads s).filter fun g => g.core == c && g.part == p && onCore s g
    { core := c, part := p, slots := gs.map Group.slot, rows := gs.foldl (fun a g => a + g.rows) 0
      regs := gs.foldl (fun a g => a + g.rows * g.allot) 0, free := (freeIndices s c).length }

/-- What a group needs: its rows, its allotment and the entries that it holds in a section table. -/
structure Seat where
  rows  : Nat
  allot : Nat
  held  : Nat := 0
  deriving DecidableEq, Repr

/-- The partition, and the section table of its core, have room for a group (R31, R51). -/
def partFits (n : Seat) (p : Part) : Bool :=
  decide (p.slots.length < 8) && decide (p.rows + n.rows ≤ 64) && decide (p.regs + n.rows * n.allot ≤ 512) && decide (n.held ≤ p.free)

/-- Seat one group in the first partition with room: core, partition, slot. -/
def seatOne (n : Seat) : List Part → Option ((Nat × Nat × Nat) × List Part)
  | [] => none
  | p :: ps =>
    if partFits n p then
      let k := ((List.range 8).find? fun i => !p.slots.contains i).getD 0
      some ((p.core, p.part, k), { p with slots := k :: p.slots, rows := p.rows + n.rows, regs := p.regs + n.rows * n.allot } :: ps)
    else (seatOne n ps).map fun r => (r.1, p :: r.2)

/-- The entries of a group are taken from the section table of its core, which all its partitions share. -/
def takeEntries (core held : Nat) (ps : List Part) : List Part :=
  ps.map fun p => if p.core = core then { p with free := p.free - held } else p

/-- Seat groups one after another. -/
def seatAll : List Seat → List Part → Option (List (Nat × Nat × Nat))
  | [], _ => some []
  | n :: gs, ps => match seatOne n ps with
    | none => none
    | some (x, ps) => (seatAll gs (takeEntries x.1 n.held ps)).map fun l => x :: l

/-! Units of a cluster. -/

/-- Banks of a cluster that a context leases and no block holds. -/
def freeBanks (s : State) (ctx clu : Nat) : List Nat :=
  (List.range 32).filter fun b =>
    holderOf s 1 (32 * clu + b) == ctx + 1 && !s.blocks.any fun x => x.clu == clu && x.banks.contains b

/-- Arrival records of a cluster that no block holds (R283). -/
def freeRecs (s : State) (clu : Nat) : List Nat :=
  (List.range 64).filter fun r => !s.blocks.any fun x => x.clu == clu && x.phys.contains r

/-- The blocks of a launch are paired with a matrix program (R279). -/
def isPaired (s : State) (launch : Nat) : Bool := (launchOf s launch).pair != 0

/-- The matrix unit of a cluster serves no block (R283). -/
def matrixFree (s : State) (clu : Nat) : Bool :=
  !s.blocks.any fun x => x.clu == clu && isPaired s x.launch && (gangOf s x.gang).place != .saved

/-- A place for a block: cluster, seats, banks, records. -/
structure Site where
  clu   : Nat
  seats : List (Nat × Nat × Nat)
  banks : List Nat
  recs  : List Nat
  deriving DecidableEq, Repr

/-- What a block needs. -/
structure Need where
  ctx    : Nat
  groups : List Seat
  banks  : Nat
  recs   : Nat
  paired : Bool

/-- A cluster as the place of a block. -/
def siteAt (s : State) (n : Need) (clu : Nat) : Option Site :=
  let bs := freeBanks s n.ctx clu
  let rs := freeRecs s clu
  if !leasesCluster s n.ctx clu || decide (bs.length < n.banks) || decide (rs.length < n.recs) || (n.paired && !matrixFree s clu) then none
  else (seatAll n.groups (partsOf s clu)).map fun l => ⟨clu, l, bs.take n.banks, rs.take n.recs⟩

/-- The first cluster, counted from one that is the dispatcher's choice (R30), with a place for a block. -/
def findSite (s : State) (n : Need) (first : Nat) : Option Site :=
  (List.range 32).findSome? fun i => siteAt s n ((first + i) % 32)

/-! New blocks and gangs. -/

/-- `s.pad` (R282). -/
def padOf (l : Launch) (blk lane0 : Nat) : Nat := min (32 * l.rows) (l.shape0 - (blk * (32 * l.gpb * l.rows) + lane0))

/-- Registers at launch (R282): every register but `k1` and `k2` holds 0. -/
def launchRegs (a b : BitVec 64) : Vector (BitVec 64) 64 := ((Vector.replicate 64 0).set 1 a).set 2 b

/-- Ones in the low n lanes. -/
def lowLanes (n : Nat) : Mask := BitVec.ofNat 512 (2 ^ n - 1)

/-- A group in its initial state (R282). -/
def newGroup (l : Launch) (gang block num tid i : Nat) (seat : Nat × Nat × Nat) : Group :=
  let lane0 := 32 * l.rows * i
  let pad := padOf l num lane0
  { live := true, tid := tid, core := seat.1, part := seat.2.1, slot := seat.2.2, ctx := l.ctx, launch := l.id, gang := gang
    block := block, grp := i, rows := l.rows, allot := l.allot, lane0 := lane0, pad := pad, blk := num, nblk := l.nblk
    shape0 := l.shape0, shape1 := l.shape1, shape2 := l.shape2, shape3 := l.shape3, resident := true, pc := l.code + l.entry
    k := launchRegs l.arg0 l.arg1, q := (Vector.replicate 8 0).set 7 (lowLanes pad), M := lowLanes (32 * l.rows) }

/-- A matrix thread in its initial state (R282): `l` is the paired grid, `m` the matrix program. -/
def newMatrixThread (l m : Launch) (gang block num tid clu : Nat) : Group :=
  { live := true, tid := tid, core := 96 + clu, ctx := l.ctx, launch := m.id, gang := gang, block := block, blk := num, nblk := l.nblk
    shape0 := l.shape0, shape1 := l.shape1, shape2 := l.shape2, shape3 := l.shape3, resident := true, pc := m.code + m.entry
    k := launchRegs m.arg0 m.arg1 }

/-- The members of block barrier n (R44, Table 13.3): the groups, or those of a narrowed barrier, and the matrix thread when MCCB has
the bit. -/
def barMembers (l : Launch) (tids : List Nat) (matrix : Option Nat) (n : Nat) : List Nat :=
  let groups := if l.narrow.getLsbD n then (tids.zipIdx.filter fun x => decide (l.nlo ≤ x.2) && decide (x.2 ≤ l.nhi)).map fun x => x.1 else tids
  groups ++ (if l.mccb.getLsbD n then matrix.toList else [])

/-- The barriers of a block or gang, given their members. -/
def newBars (count : Nat) (members : Nat → List Nat) : Table Barrier :=
  (List.range count).foldl (fun t n => putT {} t n { members := members n }) []

/-- What a new block of a launch needs. -/
def launchNeed (s : State) (l : Launch) : Need :=
  { ctx := l.ctx, groups := List.replicate l.gpb { rows := l.rows, allot := l.allot }, banks := l.banks, recs := l.recn, paired := isPaired s l.id }

/-- The cores of a site: those of its groups, and the matrix control core for a paired block. -/
def siteCores (x : Site) (paired : Bool) : List Nat := sortNat (x.seats.map fun y => y.1) ++ (if paired then [96 + x.clu] else [])

/-- An acquire at several cores. -/
def acquireAll (s : State) (cores : List Nat) : State := cores.foldl acquire s

/-- A gang's barriers are held in the cluster of its block 0 (R44). -/
def setHome (s : State) (gang clu : Nat) : State := updGang s gang fun g => { g with home := clu }

/-- Place block `num` of a launch on a site: zeroed scratchpad and records, fresh barriers, groups and matrix thread (R237, R282,
R283). The start of the launch is an acquire at its groups (R260, R268). -/
def putBlock (s : State) (l : Launch) (gang num : Nat) (x : Site) : State :=
  let id := s.nextId
  let tids := (List.range l.gpb).map (id + 1 + ·)
  let paired := isPaired s l.id
  let mtid := id + 1 + l.gpb
  let m := launchOf s l.pair
  let groups := (x.seats.zip tids).zipIdx.map fun y => newGroup l gang id num y.1.2 y.2 y.1.1
  let mats := if paired then [newMatrixThread l m gang id num mtid x.clu] else []
  let b : Block := { id := id, launch := l.id, gang := gang, num := num, clu := x.clu, banks := x.banks, nbanks := l.banks, recb := l.recb
                     recn := l.recn, phys := x.recs, bars := newBars 16 (barMembers l tids (if paired then some mtid else none))
                     threads := tids ++ mats.map Group.tid }
  let s := acquireAll (if paired then setMatrix s x.clu {} else s) (siteCores x paired)
  let s := if (gangOf s gang).blocks = [] then setHome s gang x.clu else s
  updGang { s with nextId := id + 2 + l.gpb, blocks := s.blocks ++ [b], others := s.others ++ groups ++ mats } gang
    fun g => { g with blocks := g.blocks ++ [id] }

/-- Place the blocks given, each on the first site found; none when one finds none. -/
def putBlocks (l : Launch) (gang first : Nat) : List Nat → State → Option State
  | [], s => some s
  | n :: ns, s => match findSite s (launchNeed s l) first with
    | none => none
    | some x => putBlocks l gang first ns (putBlock s l gang n x)

/-- The groups of a gang: its threads on tenant cores. -/
def gangGroups (s : State) (gang : Nat) : List Group := (threads s).filter fun g => g.gang == gang && !onMcc g

/-- Place gang `num` of a launch (R284). -/
def putGang (s : State) (l : Launch) (num : Nat) : Option State :=
  let (n, s) := drawFree s
  let (id, s) := fresh s
  let s := { s with gangs := s.gangs ++ [{ id := id, launch := l.id, num := num }] }
  match putBlocks l id (Config.freePlace n) ((List.range l.bpg).map (num * l.bpg + ·)) s with
  | none => none
  | some s =>
    let tids := (gangGroups s id).map Group.tid
    some (updGang s id fun g => { g with bars := newBars 4 fun _ => tids })

/-! Which gang goes next (R284). -/

/-- Gangs of a launch. -/
def gangCount (l : Launch) : Nat := l.nblk / max 1 l.bpg

/-- The context leases a cluster of the die. -/
def leasesDie (s : State) (ctx die : Nat) : Bool := (List.range 8).any fun i => leasesCluster s ctx (8 * die + i)

/-- Advance the range that gang `num` stands at the front of. -/
def takeRange (num : Nat) : List (Nat × Nat × Nat) → Option (Nat × List (Nat × Nat × Nat))
  | [] => none
  | (d, n, e) :: rest =>
    if n = num ∧ n < e then some (d, if n + 1 < e then (d, n + 1, e) :: rest else rest)
    else (takeRange num rest).map fun r => (r.1, (d, n, e) :: r.2)

/-- The launch once gang `num` has been placed; none when it is not its turn. In counter mode the dies take batches of 8 from the
counter, at most one each; in split mode a die whose leases have lapsed waits. -/
def gangTurn (s : State) (l : Launch) (num : Nat) : Option Launch :=
  match takeRange num l.ranges with
  | some (d, rs) => if l.split ∧ ¬ leasesDie s l.ctx d then none else some { l with ranges := rs }
  | none =>
    if l.split ∨ num ≠ l.next ∨ gangCount l ≤ num ∨ 4 ≤ l.ranges.length then none
    else
      let e := min (num + 8) (gangCount l)
      some { l with next := e, ranges := if num + 1 < e then l.ranges ++ [(0, num + 1, e)] else l.ranges }

/-! Sidings and the Depot (R49, R50, R398). -/

/-- The cores on which a gang has threads or running operations. -/
def gangCores (s : State) (gang : Nat) : List Nat :=
  sortNat ((((threads s).filter fun g => g.gang == gang).map Group.core) ++ (s.engines.filter fun e => e.gang == gang && !e.cq).map EngOp.core)

/-- A core has halted for a gang: its speculation windows are over, its accesses have landed, its stores have registered or been
acknowledged, and no `LOCK` waits for the answer to its withdrawal. -/
def coreHalted (s : State) (core gang : Nat) : Bool :=
  let mine := (threads s).filter fun g => g.gang == gang && g.core == core
  released s core && mine.all fun g => quiet s g.tid && (windowOf s g.tid).isNone && (match g.wait with | .lock _ _ => false | _ => true)
    && !s.kept.any fun k => k.tid == g.tid && k.core == core && k.op == 0

/-- Move a core's image of a gang to the siding. -/
def putSiding (s : State) (core gang : Nat) : State :=
  let out := s.sections.filter fun e => e.gang == gang && e.core == core
  let s := { s with sidings := putT 0 s.sidings core gang, savedEng := if out = [] then s.savedEng else s.savedEng ++ [(gang, out)]
                    sections := s.sections.filter fun e => !(e.gang == gang && e.core == core) }
  if (gangCores s gang).all (imageOut s gang) then updGang s gang fun g => { g with place := .siding } else s

/-- The save area of a launch is mapped with W (R398). -/
def saveAreaBad (s : State) (l : Launch) : Option Nat :=
  if l.savesz = 0 then none
  else
    let first := l.save / 2 ^ 16
    let last := (l.save + 1024 * l.savesz - 1) / 2 ^ 16
    ((List.range (last - first + 1)).map fun i => (first + i) * 2 ^ 16).find? fun va => match translateNow s l.ctx va 1 with
      | .ok _ => false
      | _ => true

/-- The banks that a gang has lost have been saved, so that they pass to their new holders. -/
def saveBanks (s : State) (gang : Nat) : State :=
  let lost := (gangOf s gang).lost
  let cut (b : Block) : Block := { b with banks := b.banks.filter fun k => !lost.contains (32 * b.clu + k) }
  updGang { s with blocks := mapIf (fun b => b.gang == gang) cut s.blocks } gang fun g => { g with lost := [] }

/-- Take a gang's matrix units off their clusters, keeping their contents by block (R214). -/
def liftMatrices (s : State) (gang : Nat) : State :=
  let mine := (gangBlocks s gang).filter fun b => isPaired s b.launch && !s.savedMx.any fun m => m.1 == b.id
  { s with savedMx := s.savedMx ++ mine.map (fun b => (b.id, matrixOf s b.clu))
           matrix := s.matrix.filter fun m => !mine.any fun b => b.clu == m.1 }

/-- The Depot writes a gang's context to the save area of its launch: what its bytes hold is free (R49; log 49), but for the deep stack
entries that are there already (R53). -/
def writeSave (s : State) (gang : Nat) : State :=
  let l := launchOf s (gangOf s gang).launch
  let (n, s) := drawFree s
  let put (s : State) (i : Nat) : State :=
    match translateNow s l.ctx (l.save + 128 * i) 1 with
    | .ok (.hbm pa) => homeWrite s pa 128 (Config.freeImage n i).toNat
    | _ => s
  ((threads s).filter fun g => g.launch == l.id).foldl spillStack ((List.range (8 * l.savesz)).foldl put s)

/-- The Depot moves a gang's core images from their sidings to the save area, so that another image can enter (R50). -/
def moveImages (s : State) (gang : Nat) : State :=
  let cores := (s.sidings.filter fun e => e.2 == gang).map fun e => e.1
  let s := updGang s gang fun g => { g with moved := sortNat (g.moved ++ cores) }
  { s with sidings := s.sidings.filter fun e => e.2 != gang }

/-- A gang's image leaves the sidings, and its banks, records and matrix units leave their clusters. -/
def liftGang (s : State) (gang : Nat) : State :=
  let s := liftMatrices s gang
  { s with sidings := s.sidings.filter fun e => e.2 != gang
           blocks := mapIf (fun b => b.gang == gang) (fun b => { b with banks := [], phys := [] }) s.blocks }

/-! Resumption (R51). -/

/-- The range entries of a gang, in the order of their registration. -/
def gangSections (s : State) (gang : Nat) : List Section :=
  (s.savedEng.filter fun x => x.1 == gang).flatMap (fun x => x.2) ++ s.sections.filter fun e => e.gang == gang

/-- The live groups of a block, in order. -/
def blockGroups (s : State) (block : Nat) : List Group := (threads s).filter fun g => g.block == block && !onMcc g

/-- Put the threads of a block on new seats. The gang's barriers go with its block 0 (R44), and a core holds nothing older than what a
group has seen or written elsewhere (R51, A1 of R263). -/
def reseat (s : State) (b : Block) (x : Site) : State :=
  let s := acquireAll s (siteCores x (isPaired s b.launch))
  let s := if (gangOf s b.gang).blocks.head? = some b.id then setHome s b.gang x.clu else s
  let s := ((blockGroups s b.id).zip x.seats).foldl (fun s y =>
    updThread s y.1.tid fun g => { g with core := y.2.1, part := y.2.2.1, slot := y.2.2.2 }) s
  let s := updWhere s (fun g => g.block == b.id && onMcc g) fun g => { g with core := 96 + x.clu }
  let s := updBlock s b.id fun b => { b with clu := x.clu, banks := x.banks, phys := x.recs }
  match s.savedMx.find? fun m => m.1 == b.id with
  | some m => { setMatrix s x.clu m.2 with savedMx := s.savedMx.filter fun m => m.1 != b.id }
  | none => s

/-- An operation on its gang's new place: its core, and the partition and slot of its group. -/
def moveOp (s : State) (op : EngOp) : EngOp :=
  match thread? s op.tid with
  | some g => { op with core := g.core, part := g.part, slot := g.slot }
  | none => { op with core := if op.kind == .panel || op.kind == .mst then 96 + (blockOf s op.block).clu else 3 * (blockOf s op.block).clu }

/-- Register range entries again, each at the lowest free index of its core; none when a section table is full. -/
def enterSections : List Section → State → Option State
  | [], s => some s
  | e :: es, s =>
    let e := match engineOf s e.op with
      | some op => { e with core := op.core, part := op.part, slot := op.slot }
      | none => e
    match (freeIndices s e.core).head? with
    | none => none
    | some i => enterSections es { s with sections := s.sections ++ [{ e with index := i }] }

/-- The range entries of a list that operations of a thread hold. -/
def heldBy (s : State) (es : List Section) (tid : Nat) : Nat :=
  (es.filter fun e => (engineOf s e.op).any fun op => op.tid == tid).length

/-- Find new places for the blocks given; each takes its operations and their range entries with it (R51). -/
def reseatAll (ctx first : Nat) (es : List Section) : List Block → State → Option State
  | [], s => some s
  | b :: bs, s =>
    let n : Need := { ctx := ctx, groups := (blockGroups s b.id).map fun g => ⟨g.rows, g.allot, heldBy s es g.tid⟩, banks := b.nbanks
                      recs := b.recn, paired := isPaired s b.launch }
    match findSite s n first with
    | none => none
    | some x =>
      let t := reseat s b x
      let t := { t with engines := mapIf (fun e => e.block == b.id && !e.cq) (moveOp t) t.engines }
      match enterSections (es.filter fun e => (engineOf t e.op).any fun op => op.block == b.id) t with
      | none => none
      | some t => reseatAll ctx first es bs t

/-- The gang may go on where it halted: everything of it is still in place and leased. -/
def canStay (s : State) (gang ctx : Nat) : Bool :=
  (gangOf s gang).place == .halted && (gangOf s gang).lost == [] && !gangLoses s gang ctx
    && (gangBlocks s gang).all (fun b => b.banks.length == b.nbanks) && (gangOf s gang).moved == [] && !s.sidings.any fun e => e.2 == gang

/-- Every thread of the gang goes on. -/
def wakeGang (s : State) (gang : Nat) : State :=
  updGang (updWhere s (fun g => g.gang == gang) fun g => { g with resident := true }) gang fun g => { g with place := .resident, moved := [] }

/-- A gang's threads and blocks stand nowhere, until each finds its new place. -/
def clearPlaces (s : State) (gang : Nat) : State :=
  let s := updWhere s (fun g => g.gang == gang) fun g => if onMcc g then { g with core := 254 } else { g with part := 15 }
  updGang { s with blocks := mapIf (fun b => b.gang == gang) (fun b => { b with clu := 99 }) s.blocks } gang
    fun g => { g with place := .resident }

/-- Place a halted gang again with all that it holds (R51); none when no placement has the room. -/
def resumeGang (s : State) (gang ctx : Nat) : Option State :=
  if canStay s gang ctx then some (wakeGang s gang)
  else if ((gangOf s gang).place ≠ .siding ∧ (gangOf s gang).place ≠ .saved) ∨ (gangOf s gang).lost ≠ [] then none
  else
    let (n, s) := drawFree s
    let es := gangSections s gang
    let s := clearPlaces (liftGang s gang) gang
    let s := { s with savedEng := s.savedEng.filter (fun x => x.1 != gang), sections := s.sections.filter fun e => e.gang != gang }
    (reseatAll ctx (Config.freePlace n) es (gangBlocks s gang) s).map fun s => wakeGang s gang

end Sys2Proof.Machine
end

