-- ==== Sys2Proof/Machine/EvLaunch.lean ====
section
/-! DEFINITION. The events of command queues, launches, gangs and contexts (R48 to R51, R275 to R286, R293, R295, R365, R393 to R398).
An event that is not enabled changes nothing. -/
namespace Sys2Proof.Machine

/-! Notify values (R275, R393, R394, R396). -/

/-- A notify value reaches its queue. -/
def takeNotify (s : State) (q v : Nat) : State :=
  let x := queueOf s q
  match x.moved with
  | some p => { s with host := s.host ++ [.forward p q v] }
  | none =>
    if !queueOn s q || x.halted then s
    else
      let d := (v % 2 ^ 32 + 2 ^ 32 - x.ridx % 2 ^ 32) % 2 ^ 32
      if 2 ^ queueBits s q < d then haltQueue s q 0x20 0
      else if d ≤ queuePending x then s
      else
        let s := putQueue s q { x with widx := v % 2 ^ 32, look := true }
        pick (runPolicy s ⟨1, tenantOf s (queueCtx s q), queueCtx s q⟩) (queueCtx s q)

/-- A firmware thread of the core that waits for its notify write goes on (R139). -/
def endNotify (s : State) (core q : Nat) : State :=
  updWhere s (fun g => g.core == core && g.wait == .command (csrNotify q)) fun g => { g with wait := .none }

/-- A notify write may take effect: no earlier one of its port is under way, of a port to the same queue, or of its core to the same queue
(R8, R308, R357), and the earlier stores of its core have registered. -/
def notifyTurn (s : State) (n : Nat × Nat × Nat) : Bool :=
  let port (a : Nat) : Bool := decide (noCore ≤ a)
  let rival (x : Nat × Nat × Nat) : Bool := (x.2.2 == n.2.2 && (port n.2.2 || x.1 == n.1)) || (port n.2.2 && port x.2.2 && x.1 == n.1)
  s.notifies.find? rival == some n && (decide (noCore ≤ n.2.2) || released s n.2.2)

/-- `NOTIFY_WRITE` (R274, R275). -/
def execNotifyWrite (queue value : Nat) (s : State) : Out :=
  match s.notifies.find? fun n => n.1 == queue && n.2.1 == value && notifyTurn s n with
  | none => .next s
  | some n => .next (endNotify (takeNotify { s with notifies := s.notifies.erase n } queue value) n.2.2 queue)

/-- `HEADER_POLL_TIMER` (R276): a header that was not ready is read again. -/
def execHeaderPollTimer (queue : Nat) (s : State) : Out :=
  let x := queueOf s queue
  .next (if queueLive s queue ∧ ¬ x.look ∧ x.waitSig = none ∧ queuePending x ≠ 0 then putQueue s queue { x with look := true } else s)

/-! Packets. -/

/-- `LAUNCH_PACKET` (R277, R395): also a packet whose type may not stand at the head of a queue. -/
def execLaunchPacket (queue : Nat) (s : State) : Out :=
  .next <| withHead s queue (· == 1) fun len d =>
    match readKobj s (queueCtx s queue) (field (dbl d 1) 56 0) with
    | none => s
    | some k =>
      let (id, s) := fresh s
      consume (enterLaunch s (makeLaunch id (queueCtx s queue) queue 0 d k)) queue len

/-- `BUNDLE_PACKET` (R279, R395): the bundle is checked whole and entered as one unit. -/
def execBundlePacket (queue : Nat) (s : State) : Out :=
  .next <| withHead s queue (· == 2) fun len d =>
    let n := field (dbl d 1) 3 0
    let (id, s) := fresh s
    let s := { s with bundles := s.bundles ++ [{ id := id, ctx := queueCtx s queue, queue := queue, sig := dbl d 2, left := n }] }
    consume ((subsOf n (d.drop 4)).foldl (enterSub queue id) s) queue len

/-- The signal of a wait packet is read; a peer's line comes into a buffer first. At most V: an acquire, and the packet is
consumed (R278). A read that fails halts the queue; a peer that cannot be reached is waited for, since Table 25.2 does not name that. -/
def testWait (s : State) (q sig v : Nat) : State :=
  match rmaPiece s (queueCtx s q) sig 8 with
  | .fault c _ _ => if c = 0x0F then s else haltQueue s q 0x21 7
  | .ask l => rmaAsk s (queueCtx s q) l
  | .ok x =>
    let s := dropBuffer s
    if x ≤ v then consume (putQueue s q { queueOf s q with named := sortNat (sig :: (queueOf s q).named) }) q 1 else s

/-- `WAIT_PACKET` (R278). -/
def execWaitPacket (queue : Nat) (s : State) : Out :=
  .next <| withHead s queue (· == 3) fun _ d =>
    let sig := field (dbl d 1) 56 0
    testWait (putQueue s queue { queueOf s queue with waitSig := some (sig, dbl d 2), look := false }) queue sig (dbl d 2)

/-- `WAIT_POLL_TIMER` (R278, R395). -/
def execWaitPollTimer (queue : Nat) (s : State) : Out :=
  match (queueOf s queue).waitSig with
  | some (sig, v) => .next (if queueLive s queue then testWait s queue sig v else s)
  | none => .next s

/-- `SKIP_PACKET` (R278). -/
def execSkipPacket (queue : Nat) (s : State) : Out := .next <| withHead s queue (· == 4) fun len _ => consume s queue len

/-! Launches. -/

/-- Every launch that it depends on has retired, and every earlier launch of its queue has started (R286). -/
def mayStart (s : State) (l : Launch) : Bool :=
  l.id != 0 && !l.started && !l.retired && !(l.mcc && l.pair != 0) && !ctxEnded s l.ctx && getT 0 s.leaving l.ctx == 0
    && l.deps.all (fun d => (launchOf s d).id != d || (launchOf s d).retired)
    && s.launches.all fun x => x.queue != l.queue || decide (l.id ≤ x.id) || x.started || x.mcc

/-- The ranges of split mode (R284): dies on which the context leases a cluster, with their gangs. -/
def splitRanges (s : State) (l : Launch) : List (Nat × Nat × Nat) :=
  let ds := [0, 1, 2, 3].filter (leasesDie s l.ctx)
  let n := gangCount l
  ((ds.zipIdx.map fun x => (x.1, n * x.2 / ds.length, n * (x.2 + 1) / ds.length)).filter fun r => decide (r.2.1 < r.2.2))

/-- The byte range of a handle as virtual addresses, when it is not empty: from its first to before its last (log 28). -/
def handleRange (s : State) (ctx h : Nat) : Option (Nat × Nat) :=
  let x := handleOf s ctx h
  if handleNo h = 0 ∨ x.hi ≤ x.lo then none else some (x.lo, x.hi - 1)

/-- The cores of the clusters that a context leases. -/
def coresOf (s : State) (ctx : Nat) : List Nat :=
  ((List.range 32).filter (leasesCluster s ctx)).flatMap fun c => [3 * c, 3 * c + 1, 3 * c + 2, 96 + c]

/-- Copies of a launch's handle ranges are invalidated at the cores it uses (R286). -/
def dropHandles (s : State) (l : Launch) : State :=
  l.handles.foldl (fun s h => match handleRange s l.ctx h with
    | none => s
    | some r => (coresOf s l.ctx).foldl (fun s c => dropVirtual s c l.ctx r.1 r.2) s) s

/-- `LAUNCH_START` (R284, R286). A split launch waits until its context leases a cluster. -/
def execLaunchStart (launch : Nat) (s : State) : Out :=
  let l := launchOf s launch
  if l.id ≠ launch ∨ !mayStart s l then .next s
  else
    let rs := if l.split then splitRanges s l else []
    if l.split ∧ rs = [] then .next s
    else
      let s := dropHandles s l
      let s := if l.pair = 0 then s else dropHandles s (launchOf s l.pair)
      let s := updLaunch s launch fun l => { l with started := true, ranges := rs }
      .next (if l.pair = 0 then s else updLaunch s l.pair fun m => { m with started := true })

/-- `BLOCK_DISPATCH` (R30, R283, R284): a gang is placed whole, when it is its turn and every block finds its place. -/
def execBlockDispatch (launch gang : Nat) (s : State) : Out :=
  let l := launchOf s launch
  if l.id ≠ launch ∨ !l.started ∨ l.retired ∨ l.mcc ∨ ctxEnded s l.ctx ∨ getT 0 s.leaving l.ctx ≠ 0 then .next s
  else match gangTurn s l gang with
    | none => .next s
    | some l' => match putGang s l gang with
      | none => .next s
      | some t => .next (updLaunch t launch fun x => { x with next := l'.next, ranges := l'.ranges })

/-- The dirty words that cores hold in the buffers that a launch writes go home (R285). -/
def writeBackHandles (s : State) (l : Launch) : State :=
  (l.handles.filter handleWrites).foldl (fun s h => match handleRange s l.ctx h with
    | none => s
    | some r => ((List.range (r.2 / 128 - r.1 / 128 + 1)).map fun i => (r.1 / 128 + i) * 128).foldl (fun s va =>
        match anyPlace s l.ctx va with
        | some (.hbm pa) => recallLine s (pa / 128)
        | _ => s) s) s

/-- A launch that may still fetch has ended: the old code kept for it goes (R390). -/
def dropOldCode (s : State) (launch : Nat) : State :=
  { s with oldCode := s.oldCode.filter fun e => e.launch != launch }

/-- One launch retires: it stands alone, or it is a sub-packet of a bundle. -/
def retireOne (s : State) (l : Launch) : State :=
  let s := dropOldCode (writeBackHandles s l) l.id
  let s := updLaunch s l.id fun l => { l with retired := true }
  if l.bundle = 0 then decrementSignal s l.ctx (queueDie l.queue) l.sig else bundleDone s l.bundle

/-- `LAUNCH_RETIRE` (R285, R279): every block has ended; a matrix program retires with its grid. -/
def execLaunchRetire (launch : Nat) (s : State) : Out :=
  let l := launchOf s launch
  if l.id ≠ launch ∨ !l.started ∨ l.retired ∨ l.mcc ∨ l.ended < l.nblk ∨ ctxEnded s l.ctx then .next s
  else
    let s := retireOne s l
    let s := if l.pair = 0 then s else retireOne s (launchOf s l.pair)
    .next (pick s l.ctx)

/-! Pre-emption and resumption. -/

/-- Leases of a context have grown: a place frees for its tenant (R289). One pick for each tenant with a policy. -/
def pickGainers (s t : State) : State :=
  let gained (x : Nat) : Bool := (List.range 5).any fun c => decide ((leaseOf s x c).units < (leaseOf t x c).units)
  (t.policies.map fun p => p.1).foldl (fun t p =>
    match (contexts t).find? fun x => tenantOf t x == p && gained x with
    | some x => pick t x
    | none => t) t

/-- `LEASE_CHANGE` (R292, R293, R229): leases, prices and their sequence number change at one moment. -/
def execLeaseChange (s : State) : Out :=
  match s.nextLeases with
  | none => .next s
  | some l =>
    let t := setLeases { s with nextLeases := none } l
    let seq := if t.curSeq = 0 then 1 else csrRaw t csrSeq
    .next (pickGainers s (haltLosers { csrPut t csrSeq seq with prices := t.nextPrices, priceSeq := seq, curSeq := seq }))

/-- `SIDING_TRANSFER` (R50): the image of a halted core moves to its siding, which holds one. DESIGN CHOICE (log 50): an image is that of one
gang, so that another gang halted on the same core waits for the Depot; the spec does not say. -/
def execSidingTransfer (core gang : Nat) (s : State) : Out :=
  if (gangOf s gang).id = gang ∧ (gangOf s gang).place = .halted ∧ (gangCores s gang).contains core ∧ getT 0 s.sidings core = 0
      ∧ coreHalted s core gang then
    .next (putSiding s core gang)
  else .next s

/-- A Depot move of a gang meets a save area that is not mapped with W (R398): the core is that where the gang last ran. The Depot does not
try again. -/
def depotFault (s : State) (gang : Nat) : State :=
  let (n, s) := drawFree (updGang s gang fun g => { g with tried := true })
  let core := (gangCores s gang).headD 0
  let g := ((threads s).find? fun g => g.gang == gang).getD { core := core }
  asyncFault s core (recordOf g { cause := 0x0D, code := 4, value := Config.freeProgress n })

/-- `DEPOT_SAVE` (R50, R398): lost banks have been saved, and the images of the gang in sidings have moved to the save area; with the last
of them the gang has left the chip. -/
def execDepotSave (gang : Nat) (s : State) : Out :=
  let x := gangOf s gang
  if x.id ≠ gang ∨ gang = 0 ∨ x.tried ∨ (x.lost = [] ∧ !s.sidings.any fun e => e.2 == gang) then .next s
  else if (saveAreaBad s (launchOf s x.launch)).isSome then .next (depotFault s gang)
  else
    let s := moveImages (saveBanks (writeSave s gang) gang) gang
    .next (if x.place = .siding then updGang (liftGang s gang) gang fun g => { g with place := .saved } else s)

/-- A saved context with an uncorrectable error does not resume: DATA_LOSS 7 (Table 24.3). -/
def lostContext (s : State) (gang : Nat) : State :=
  let core := (gangCores s gang).headD 0
  let g := ((threads s).find? fun g => g.gang == gang).getD { core := core }
  let s := updGang { s with bad := s.bad.filter (· != (7, gang)) } gang fun g => { g with place := .ended }
  asyncFault s core (recordOf g { cause := 0x0E, code := 7 })

/-- Something of a gang is in the save area, so that the Depot restores it (R50): its image, or a bank that it lost. -/
def inSaveArea (s : State) (gang : Nat) : Bool :=
  (gangOf s gang).place == .saved || (gangOf s gang).moved != [] || (gangBlocks s gang).any fun b => b.banks.length != b.nbanks

/-- `GANG_RESUME` (R51): a halted gang goes on, where it stood or on other units, once its context leases what it needs and the withdrawals
of its `LOCK`s are answered (R48). What is in the save
area is restored from there by the Depot, which meets its faults as a save does and does not try again (R398). -/
def execGangResume (gang : Nat) (s : State) : Out :=
  let x := gangOf s gang
  let ctx := (launchOf s x.launch).ctx
  let away := inSaveArea s gang
  if x.id ≠ gang ∨ gang = 0 ∨ x.place = .resident ∨ x.place = .ended ∨ ctxEnded s ctx ∨ getT 0 s.leaving ctx ≠ 0
      ∨ withdrawing s (fun g => g.gang == gang) then .next s
  else if away ∧ x.tried then .next s
  else if away ∧ (saveAreaBad s (launchOf s x.launch)).isSome then .next (depotFault s gang)
  else if s.bad.contains (7, gang) then .next (lostContext s gang)
  else .next ((resumeGang s gang ctx).getD s)

/-! The end of a context (R365). -/

/-- The threads of a context. -/
def ctxThreads (s : State) (ctx : Nat) : List Nat := ((threads s).filter fun g => g.ctx == ctx && !g.priv).map Group.tid

/-- Step 1: threads, with what is in flight for them, and queued matrix commands. -/
def dropThreads (s : State) (ts : List Nat) : State :=
  let gone (t : Nat) : Bool := ts.contains t
  let jobs := (s.seqs.map Seq.id)
  let s := ts.foldl (fun s t => jobs.foldl (fun s q => dropJournal s t q) s) s
  { s with past := s.past ++ (threads s).filter fun g => gone g.tid
           g := if s.g.live && gone s.g.tid then {} else s.g
           others := s.others.filter fun g => !gone g.tid
           windows := s.windows.filter fun w => !gone w.saved.tid
           flights := s.flights.filter fun f => !gone f.tid
           flagWrites := s.flagWrites.filter fun w => !gone w.tid
           barMsgs := s.barMsgs.filter fun m => !gone m.2.2
           barRels := s.barRels.filter fun m => !gone m.2.2
           matrix := s.matrix.map fun m => (m.1, { m.2 with queue := m.2.queue.filter fun e => !gone e.tid })
           savedMx := s.savedMx.map fun m => (m.1, { m.2 with queue := m.2.queue.filter fun e => !gone e.tid }) }

/-- The thread that a lock message is about. -/
def lockMsgTid : LockMsg → Nat
  | .request _ t => t
  | .waiting _ t => t
  | .unlock _ t _ => t
  | .grant _ t => t
  | .withdraw _ t => t
  | .notice t _ => t

/-- What is still on its way to the lock units of threads that go: `UNLOCK`s of locks that they do not hold, which fault as they arrive (R360,
R380). -/
def badUnlocks (s : State) (ts : List Nat) : List LockMsg :=
  let held := s.locks.filter fun e => e.2.holder != 0 && ts.contains (e.2.holder - 1)
  let ms := held.foldl (fun ms e => ms.eraseP fun m => (unlockMsg e.1 (e.2.holder - 1) m).isSome) s.lockMsgs
  ms.filter fun m => !ts.contains (lockMsgTid m) || (match m with | .unlock _ _ _ => true | _ => false)

/-- Step 3: locks are freed, and monitors released. -/
def dropLocks (s : State) (ts : List Nat) : State :=
  let s := { s with lockMsgs := badUnlocks s ts, monitors := s.monitors.filter fun m => !ts.contains m.tid }
  let keys := s.locks.map fun e => e.1
  let s := keys.foldl (fun s k => putLock s k { lockOf s k with waiters := (lockOf s k).waiters.filter fun t => !ts.contains t }) s
  (keys.filter fun k => (lockOf s k).holder != 0 && ts.contains ((lockOf s k).holder - 1)).foldl handOver s

/-- A context that has not ended still feeds the reduction of a line (R389): it has contributed, or its contribution waits in an engine.
Whether a context of another package has ended is not seen from here (log 25), and one that has left this package has not ended. -/
def stillFed (s : State) (r : Reduction) : Bool :=
  r.ctxs.any (fun c => c.1 != 0 || !ctxEnded s c.2 || s.departed.contains c.2)
    || s.engines.any fun e => e.kind == .cpyRed && !e.dead && !ctxEnded s e.ctx && sameSum (redLine s e 0 0) r

/-- Lines of a reduction at a peer to which an operation has contributed, and which are not written yet (R210). -/
def redAway (s : State) (e : EngOp) : Nat :=
  match e.kind, translateNow s e.ctx (bits (word e.desc 0) 56 0) 5 with
  | .cpyRed, .ok (.peer _ _) => e.pos - e.landed / 128
  | _, _ => 0

/-- Steps 2 and 3: engine operations and their ranges; one with packets under way stays until they are answered (R360). A reduction is
freed once every context that has issued a contribution to it has ended (R389). -/
def dropOps (s : State) (ctx : Nat) : State :=
  let ids := (s.engines.filter fun e => e.ctx == ctx).map EngOp.id
  let reds := s.reds.map fun r => { r with ops := r.ops.filter fun i => !ids.contains i }
  let still (e : EngOp) : Option EngOp := 
    if e.ctx ≠ ctx then some e
    else if e.inFlight + redAway s e = 0 then none
    else some { e with dead := true, inFlight := e.inFlight + redAway s e }
  let t := { s with engines := s.engines.filterMap still, sections := s.sections.filter (fun e => e.ctx != ctx)
                    savedEng := s.savedEng.filter fun x => !x.2.any fun e => e.ctx == ctx }
  { t with reds := reds.filter (stillFed t) }

/-- The context's blocks and gangs leave their units. -/
def dropPlaces (s : State) (ctx : Nat) : State :=
  let ls := (s.launches.filter fun l => l.ctx == ctx).map Launch.id
  let bs := s.blocks.filter fun b => ls.contains b.launch
  let gs := (s.gangs.filter fun g => ls.contains g.launch).map Gang.id
  { s with blocks := s.blocks.filter (fun b => !ls.contains b.launch), gangs := s.gangs.filter (fun g => !ls.contains g.launch)
           matrix := s.matrix.filter (fun m => !bs.any fun b => b.clu == m.1 && isPaired s b.launch)
           savedMx := s.savedMx.filter (fun m => !bs.any fun b => b.id == m.1), sidings := s.sidings.filter fun e => !gs.contains e.2 }

/-- Step 5: the error words (Table 22.3). A bundle writes its own signal, and its launches nothing. -/
def failSignals (s : State) (ctx cause launch : Nat) : State :=
  let s := (s.launches.filter fun l => l.ctx == ctx && !l.retired && l.bundle == 0).foldl (fun s l =>
    failSignal s ctx l.sig cause (l.id == launch)) s
  (s.bundles.filter fun b => b.ctx == ctx && !b.retired).foldl (fun s b =>
    failSignal s ctx b.sig cause (b.id == launch || (launchOf s launch).bundle == b.id)) s

/-- The context's launches and bundles are forgotten. -/
def dropLaunches (s : State) (ctx : Nat) : State :=
  let ls := (s.launches.filter fun l => l.ctx == ctx).map Launch.id
  let s := ls.foldl dropOldCode s
  { s with launches := s.launches.filter (fun l => l.ctx != ctx), bundles := s.bundles.filter fun b => b.ctx != ctx }

/-- Everything of a context that runs here is removed. -/
def removeContext (s : State) (ctx : Nat) : State :=
  let ts := ctxThreads s ctx
  dropLaunches (dropPlaces (dropOps (dropLocks (dropThreads s ts) ts) ctx) ctx) ctx

/-- A record is a ground for ending a context: it is one of the context, or of a core that is stopped with groups of the context on it
(R364). -/
def endsFor (s : State) (ctx : Nat) (r : Cause) : Bool :=
  r.ctx == ctx || (coreStopped s r.core && (threads s).any fun g => g.core == r.core && g.ctx == ctx && !g.priv)

/-- `CONTEXT_END` (R364, R365): `cause` is that of the record that firmware ends the context for, `launch` the launch whose group raised it, or
the bundle whose sub-packet did. A place frees for the tenant then (R289). -/
def execContextEnd (ctx cause launch : Nat) (s : State) : Out :=
  if !firmwareRuns s || ctxEnded s ctx || !(s.causes.any fun r => r.cause == cause && r.launch == launch && endsFor s ctx r) then .next s
  else
    let t := { s with ended := s.ended ++ [ctx] }
    .next (pick (removeContext (failSignals t ctx cause launch) ctx) ctx)

/-! Migration (R295, R323). -/

/-- The condition has held for the configured number of intervals. -/
def migrationDue (s : State) (ctx pkg : Nat) : Bool :=
  let n := csrRaw s csrMig / 2 ^ 8 % 2 ^ 8
  n != 0 && decide (n ≤ getT 0 s.migrate (ctx * 4096 + pkg)) && unreachable s pkg == 0 && fabricUp s && pkg != pkgNum s

/-- No sequence of the context is partnered at the package, or on its way to another partner: reassignment under R322 takes place first
(R323). -/
def partnersApart (s : State) (ctx pkg : Nat) : Bool := !s.seqs.any fun q => q.isOpen && q.ctx == ctx && (q.partner == pkg || q.reassign)

/-- The gangs of a context that have not ended. -/
def ctxGangs (s : State) (ctx : Nat) : List Gang := s.gangs.filter fun g => (launchOf s g.launch).ctx == ctx && g.place != .ended

/-- The context is pre-empted whole, everything of it stands in the save area, and nothing that it issued is under way: no open or close of a
sequence, and no token on its way out. -/
def readyToLeave (s : State) (ctx : Nat) : Bool :=
  let ts := ctxThreads s ctx
  let ids := (s.engines.filter fun e => e.ctx == ctx).map EngOp.id
  let mine (q : Seq) : Bool := q.isOpen && q.ctx == ctx
  let busy (q : Seq) : Bool := q.emits.any (fun e => e.phase == .send) || s.jsCmds.any fun c => c.begun && c.seq == q.id
  (ctxGangs s ctx).all (fun g => g.place == .saved) && !(s.seqs.any fun q => mine q && busy q) && !(s.flights.any fun f => ts.contains f.tid) && !(s.flagWrites.any fun w => w.ctx == ctx)
    && !(s.engines.any fun e => e.ctx == ctx && e.kind == .cpyRed && decide (e.landed < 128 * e.pos))
    && !(s.lockMsgs.any fun m => ts.contains (lockMsgTid m)) && !(s.barMsgs ++ s.barRels).any (fun m => ts.contains m.2.2)
    && !s.kept.any fun k => (k.core != noCore && ts.contains k.tid) || (k.op != 0 && ids.contains k.op)

/-- The pages of a context that lie in this package's memory (R246): virtual base, size, physical base. -/
def pagesFrom (s : State) : List (Nat × Nat × Nat) → Nat → Nat → List (Nat × Nat × Nat)
  | [], _, _ => []
  | (lvl, lo, n) :: rest, va, table =>
    (List.range (2 ^ n)).flatMap fun i =>
      let e := homeRead s (table + 8 * i) 8
      if ¬ isHbm (table + 8 * i) ∨ e % 2 = 0 then []
      else if e / 2 % 2 = 1 then (if lvl < 3 ∨ e / 32 % 2 = 1 then [] else [(va + i * 2 ^ lo, 2 ^ lo, entryAddr e / 2 ^ lo * 2 ^ lo)])
      else if lvl = 5 then []
      else pagesFrom s rest (va + i * 2 ^ lo) (entryAddr e)

/-- A context as it leaves (R295 steps 2 to 4). -/
def imageOf (s : State) (ctx pkg : Nat) : Image :=
  let ps := pagesFrom s levels 0 (entryAddr (csrRaw s (csrRoot ctx)))
  let gs := (threads s).filter fun g => (ctxThreads s ctx).contains g.tid
  let ls := s.launches.filter fun l => l.ctx == ctx
  let ids := ls.map Launch.id
  let bs := s.blocks.filter fun b => ids.contains b.launch
  let gangs := s.gangs.filter fun g => ids.contains g.launch
  let cells (p : Nat × Nat × Nat) : Cells :=
    s.mem.filterMap fun c => if p.2.2 ≤ c.1 ∧ c.1 < p.2.2 + p.2.1 then some (p.1 + (c.1 - p.2.2), c.2) else none
  { ctx := ctx, src := pkgNum s, dst := pkg, top := s.nextId, pages := ps.map fun p => (p.1, p.2.1), bytes := ps.flatMap cells
    threads := gs, past := s.past.filter (fun g => ids.contains g.launch), blocks := bs
    pastBlocks := s.pastBlocks.filter (fun b => ids.contains b.launch), gangs := gangs, launches := ls, bundles := s.bundles.filter fun b => b.ctx == ctx
    handles := s.handles.filter fun e => e.1 / 2 ^ 15 == ctx, queues := s.queues.filter fun e => queueCtx s e.1 == ctx
    engines := (s.engines.filter fun e => e.ctx == ctx).map fun e => { e with asked := [], got := [] }
    savedMx := s.savedMx.filter fun m => bs.any fun b => b.id == m.1, savedEng := s.savedEng.filter fun x => gangs.any fun g => g.id == x.1
    bids := (List.range 5).map (bidOf s ctx), seqs := s.seqs.filter fun q => q.isOpen && q.ctx == ctx
    locks := gs.flatMap fun g => g.locks.map fun l => (l.2, g.tid) }

/-- What the units hold of a context that leaves: translations, also those of peers' accesses to its memory (R248), and JRECs that await their
JACK, which its sequences send again from the package that they go to (R323). -/
def forgetUnits (s : State) (ctx : Nat) (ids : List (BitVec 64)) : State :=
  let journal (p : Packet) : Bool := p.kind == 0x0D && ids.any fun i => i.toNat == p.mask.toNat % 2 ^ 64
  { s with tlb := s.tlb.filter (fun t => t.ctx != ctx), walks := s.walks.filter (fun w => w.ctx != ctx)
           fmTlb := s.fmTlb.filter (fun e => e.2 / 2 ^ 52 % 2 ^ 12 != ctx % 2 ^ 12), kept := s.kept.filter fun k => !journal k.packet }

/-- The context leaves this package: its image goes out, its leases end at the next interval, and firmware forwards notify values that
still come for its queues. -/
def sendAway (s : State) (ctx pkg : Nat) : State :=
  let s := (s.owners.map fun e => e.1).foldl recallWord s
  let im := imageOf s ctx pkg
  let s := forgetUnits s ctx (im.seqs.map Seq.seqid)
  let qs := (List.range 4096).filter fun q => queueOn s q && queueCtx s q == ctx
  let s := removeContext s ctx
  let s := qs.foldl (fun s q => putQueue s q { queueOf s q with moved := some pkg, look := false, waitSig := none }) s
  let s := (List.range 5).foldl (fun s c => putBid s ctx c 0) s
  { s with seqs := s.seqs.filter (fun q => !(q.isOpen && q.ctx == ctx)), ended := s.ended ++ [ctx], departed := insertNat ctx s.departed
           outbound := s.outbound ++ [im], leaving := putT 0 s.leaving ctx 0, migrate := s.migrate.filter fun e => e.1 / 4096 != ctx }

/-! Identifiers of an image that arrives: each is raised above those in use; 0 names none. -/

def raiseId (d x : Nat) : Nat := if x = 0 then 0 else x + d
def raiseBars (d : Nat) (t : Table Barrier) : Table Barrier :=
  t.map fun e => (e.1, { e.2 with members := e.2.members.map (raiseId d), arrived := e.2.arrived.map (raiseId d) })
def raiseBlock (d : Nat) (b : Block) : Block :=
  { b with id := raiseId d b.id, launch := raiseId d b.launch, gang := raiseId d b.gang, threads := b.threads.map (raiseId d), bars := raiseBars d b.bars }
def raiseGang (d : Nat) (g : Gang) : Gang :=
  { g with id := raiseId d g.id, launch := raiseId d g.launch, blocks := g.blocks.map (raiseId d), bars := raiseBars d g.bars }
def raiseLaunch (d : Nat) (l : Launch) : Launch :=
  { l with id := raiseId d l.id, bundle := raiseId d l.bundle, pair := raiseId d l.pair, deps := l.deps.map (raiseId d) }
def raiseOp (d : Nat) (e : EngOp) : EngOp :=
  { e with id := raiseId d e.id, tid := raiseId d e.tid, block := raiseId d e.block, gang := raiseId d e.gang, recBlk := raiseId d e.recBlk
           bundle := raiseId d e.bundle }
def raiseEntry (d : Nat) (m : MEntry) : MEntry :=
  let cmd : MCmd := match m.cmd with
    | .mst x a d0 d1 op => .mst x a d0 d1 (raiseId d op)
    | c => c
  { m with id := raiseId d m.id, tid := raiseId d m.tid, cmd := cmd }
def raiseWork (d : Nat) : JWork → JWork
  | .record t x reg pos kind i p => .record (raiseId d t) x reg pos kind i p
  | .mark t reg pos r => .mark (raiseId d t) reg pos r
  | .trunc t reg => .trunc (raiseId d t) reg
  | .emit t x reg pos tok => .emit (raiseId d t) x reg pos tok

/-- A sequence of an image: its header is to follow it, an `EMIT` whose intent the partner has not acknowledged waits again, and records
are sent again until they are acknowledged (R323). -/
def raiseSeq (d : Nat) (q : Seq) : Seq :=
  let waits := q.emits.any fun e => e.phase == .intent
  let emit (e : Emit) : Emit := { e with tid := raiseId d e.tid, phase := if e.phase = .intent then .wait else e.phase }
  { q with id := raiseId d q.id, work := q.work.map (raiseWork d), emits := q.emits.map emit, sigFor := q.sigFor.map (raiseId d)
           truncs := q.truncs.map (fun t => (t.1, raiseId d t.2.1, t.2.2)), headerAcked := false, intent := if waits then none else q.intent
           records := q.records.map fun r => { r with slot := none, sent := r.sent && r.acked } }

def raiseGroup (d : Nat) (g : Group) : Group :=
  let wait : Wait := match g.wait with
    | .emit q => .emit (raiseId d q)
    | .journal q => .journal (raiseId d q)
    | w => w
  { g with tid := raiseId d g.tid, launch := raiseId d g.launch, gang := raiseId d g.gang, block := raiseId d g.block, wait := wait }

/-- The lock of an address here. -/
def lockHere (s : State) (ctx va : Nat) : Nat := match anyPlace s ctx va with
  | some (.hbm pa) => pa / 8
  | _ => va / 8

/-- The bytes of an image's pages are written where the tables of the context here lead (R295 step 2). -/
def putPages (s : State) (im : Image) : State :=
  im.pages.foldl (fun s p => (List.range (p.2 / 128)).foldl (fun s i =>
    match anyPlace s im.ctx (p.1 + 128 * i) with
    | some (.hbm pa) => homeWrite s pa 128 (readN im.bytes (p.1 + 128 * i) 128)
    | _ => s) s) s

/-- The descriptor of a sequence (Table 15.1). -/
def descriptorImage (q : Seq) : Nat :=
  q.seqid.toNat + q.partner % 2 ^ 12 * 2 ^ 64 + q.ctx % 2 ^ 16 * 2 ^ 80 + q.egress % 2 ^ 16 * 2 ^ 96 + bit q.replay * 2 ^ 112 + bit q.hwmv * 2 ^ 113
    + q.hwm % 2 ^ 32 * 2 ^ 128 + (q.mark.getD noMark) % 2 ^ 32 * 2 ^ 160 + q.snap.toNat * 2 ^ 192

/-- A die with a free slot of its sequence table, the first that is tried being the one given, and the slot. -/
def seqPlace (s : State) (die : Nat) : Option (Nat × Nat) :=
  [die, 0, 1, 2, 3].findSome? fun d =>
    let used := (s.seqs.filter fun q => q.isOpen && q.die == d).map Seq.slot
    ((List.range (min 4096 (used.length + 1))).find? fun i => !used.contains i).map fun i => (d, i)

/-- The copy of one record enters the tail area of a sequence's die. -/
def tailRecord (id : Nat) (s : State) (r : JRecord) : State :=
  match seqOf s id with
  | none => s
  | some q => match tailSlot s q.die with
    | none => s
    | some i =>
      updSeq (physWrite s (csrRaw s (csrTail q.die) + 32 * i) 32 r.image) id fun q =>
        { q with records := mapFirst (fun x => x.serial == r.serial) (fun x => { x with slot := some i }) q.records }

/-- A sequence comes to a die of this package, with its descriptor and its tail, and its header at the partner follows it (R323). The slot is
the lowest free one of the die that it had, or of another die (log 29). -/
def takeSeq (src : Nat) (s : State) (q : Seq) : State :=
  match seqPlace s q.die with
  | none => s
  | some (die, slot) =>
    let q := { q with die := die, slot := slot }
    let s := physWrite { s with seqs := s.seqs ++ [q] } (descriptorAt s die slot) 64 (descriptorImage q)
    sendJrec ((q.records.filter fun r => r.fresh).foldl (tailRecord q.id) s) q 8 src 1 0

/-- A context arrives (R295 steps 2 to 5, R323): its pages, its saved gangs, which resume under R51, its launches, queues, handles, bids,
sequences and held locks. -/
def takeIn (s : State) (im : Image) : State :=
  let d := s.nextId
  let s := putPages s im
  let put (g : Group) : Group := raiseGroup d { g with locks := g.locks.map fun l => (lockHere s im.ctx l.2, l.2) }
  let s := im.locks.foldl (fun s l => putLock s (lockHere s im.ctx l.1) { holder := raiseId d l.2 + 1, entry := true }) s
  let s := im.queues.foldl (fun s q => putQueue s q.1 { q.2 with moved := none, look := true }) s
  let s := im.bids.zipIdx.foldl (fun s b => putBid s im.ctx b.2 b.1) s
  let s := im.handles.foldl (fun s h =>
    { s with handles := putT {} s.handles h.1 { h.2 with writers := h.2.writers.map (raiseId d), readers := h.2.readers.map (raiseId d) } }) s
  let t := { s with
           nextId := d + im.top, others := s.others ++ im.threads.map put, past := s.past ++ im.past.map put
           blocks := s.blocks ++ im.blocks.map (raiseBlock d), pastBlocks := s.pastBlocks ++ im.pastBlocks.map (raiseBlock d)
           gangs := s.gangs ++ im.gangs.map (raiseGang d), launches := s.launches ++ im.launches.map (raiseLaunch d)
           bundles := s.bundles ++ im.bundles.map (fun b => { b with id := raiseId d b.id }), engines := s.engines ++ im.engines.map (raiseOp d)
           savedMx := s.savedMx ++ im.savedMx.map (fun m => (raiseId d m.1, { m.2 with queue := m.2.queue.map (raiseEntry d) }))
           savedEng := s.savedEng ++ im.savedEng.map (fun x => (raiseId d x.1, x.2.map fun e => { e with op := raiseId d e.op, gang := raiseId d e.gang }))
           ended := s.ended.filter (· != im.ctx), departed := s.departed.filter (· != im.ctx)
           inbound := s.inbound.erase im }
  (im.seqs.map (raiseSeq d)).foldl (takeSeq im.src) t

/-- `COMET_MIGRATION` (R295, R323). To another package: the context is pre-empted whole, and it leaves once everything of it stands in the
save area. To this package: a context that a neighbour has sent is taken in, once system software has made it exist here. What crosses the
fabric has no packet form in the spec (log 29). -/
def execCometMigration (ctx pkg : Nat) (s : State) : Out :=
  if !isReady s || !ctxExists s ctx then .next s
  else if pkg = pkgNum s then
    match s.inbound.find? fun im => im.ctx == ctx with
    | some im => .next (takeIn s im)
    | none => .next s
  else if ctxEnded s ctx || !partnersApart s ctx pkg then .next s
  else if getT 0 s.leaving ctx = pkg + 1 then .next (if readyToLeave s ctx then sendAway s ctx pkg else s)
  else if getT 0 s.leaving ctx ≠ 0 || !migrationDue s ctx pkg then .next s
  else
    let s := { s with leaving := putT 0 s.leaving ctx (pkg + 1) }
    .next (((ctxGangs s ctx).filter fun g => g.place == .resident).foldl (fun s g => haltGang s g.id ctx) s)

end Sys2Proof.Machine
end

