-- ==== Sys2Proof/Machine/EvMarket.lean ====
section
/-! DEFINITION. The events of the market (R289, R291, R292, R294, R295). -/
namespace Sys2Proof.Machine

/-- Five prices as the data flit of a PRICE packet, 32 bits each from bit 0; the stamp is in OPERAND (log 16). -/
def priceData (prices : Table Nat) : Nat := [4, 3, 2, 1, 0].foldl (fun acc c => getT 0 prices c % 2 ^ 32 + acc * 2 ^ 32) 0

/-- Send the prices of a clearing to every neighbour that can be reached (R294). -/
def sendPrices (s : State) (seq : Nat) (prices : Table Nat) : State :=
  if !fabricUp s then s
  else ((neighbours s).filter fun p => p != pkgNum s && unreachable s p == 0).foldl (fun s p =>
    let pk := { packet 0x0C p 0 0 with len := 1, operand := BitVec.ofNat 64 seq, data := priceData prices }
    sendOn s pk (p % 18) ⟨pk, noCore, 0, 0, false, 0, noLane⟩) s

/-- Purses at the start of an interval (R291). -/
def payPurses (s : State) (dues : Table Nat) : State :=
  let ps := (List.range 64).map fun t => (t, nextPurse s dues t)
  { s with purses := putAll 0 s.purses ps }

/-- MK.PURSE shows the balances at the snapshot (Table 21.2). -/
def showPurses (s : State) : State := (List.range 64).foldl (fun s t => csrPut s (csrPurse t) (getT 0 s.purses t)) s

/-- The cost of a context's leased units at given prices (R295). -/
def leaseCost (s : State) (ctx : Nat) (price : Nat → Nat) : Nat :=
  (List.range 5).foldl (fun a c => a + (leaseOf s ctx c).units * price c) 0

/-- Count the intervals for which a neighbour has been cheaper (R295). DESIGN CHOICE (log 61): firmware compares at the end of an interval, before
its clearing, with the leases and the prices of that interval; the spec does not say when. -/
def countMigration (s : State) : State :=
  let m := csrRaw s csrMig % 2 ^ 8
  let pairs := (contexts s).flatMap fun x => ((neighbours s).filter s.nbrSeen.contains).map fun p => (x, p)
  let one (t : Table Nat) (y : Nat × Nat) : Table Nat :=
    let here := leaseCost s y.1 (priceOf s)
    let there := leaseCost s y.1 fun c => (getT 0 s.nbrPrices (y.2 * 8 + c)).toNat % 2 ^ 32
    let key := y.1 * 4096 + y.2
    putT 0 t key (if there * 256 ≤ here * (256 - m) then getT 0 s.migrate key + 1 else 0)
  { s with migrate := pairs.foldl one [] }

/-- `INTERVAL_END` (R291, R292, R294, R358): the sequence number rises, the Junction clears, payments are made, and the prices go to the
neighbours. The leases take effect by `LEASE_CHANGE`, which comes before the next end; until those of the first clearing do, MK.SEQ
reads 0. -/
def execIntervalEnd (s : State) : Out :=
  if !isReady s || s.nextLeases.isSome then .next s
  else
    let seq := (csrRaw s csrSeq + 1) % 2 ^ 64
    let s := countMigration (showPurses s)
    let k := clearing s seq
    let s := csrPut (if s.curSeq = 0 then s else csrPut s csrSeq seq) csrIntv s.intvNext
    let s := updWhere s (fun g => g.wait == .command csrIntv) fun g => { g with wait := .none }
    .next (sendPrices { payPurses s k.dues with sliced := false, nextLeases := some k.leases, nextPrices := k.prices, dues := k.dues } seq k.prices)

/-- `TIME_SLICE` (R289), once in an interval: every tenant's policy runs, with its lowest-numbered context as the current one, and again for
a pick when two of its queues have work (log 31). -/
def execTimeSlice (s : State) : Out :=
  let run (s : State) (t : Nat) : State :=
    match (contexts s).find? fun x => tenantOf s x == t with
    | some x => pick (runPolicy s ⟨2, t, x⟩) x
    | none => s
  if !isReady s || s.sliced then .next s else .next ((s.policies.map fun p => p.1).foldl run { s with sliced := true })

/-- `PRICE_PACKET` (R294): the prices of a neighbour with their stamp. DESIGN CHOICE (log 61): prices from a package that is not on the neighbour
list are not kept for the time that it may be put there; the spec does not say. -/
def execPricePacket (p : Packet) (s : State) : Out :=
  .next <| receive s p id fun s =>
    if (neighbours s).contains p.src then
      let one (t : Table (BitVec 64)) (c : Nat) : Table (BitVec 64) :=
        putT 0 t (p.src * 8 + c) (BitVec.ofNat 64 (p.data / 2 ^ (32 * c) % 2 ^ 32 + p.operand.toNat % 2 ^ 32 * 2 ^ 32))
      { s with nbrPrices := (List.range 5).foldl one s.nbrPrices, nbrSeen := insertNat p.src s.nbrSeen }
    else s

end Sys2Proof.Machine
end

