-- ==== Sys2Proof/Machine/Matrix.lean ====
section
/-! DEFINITION. The matrix command stream (major 0x60, R213 to R224): issue into the cluster's command queue. A command reads
its scalars at issue; it starts and completes by the events of EvMatrix.lean. -/
namespace Sys2Proof.Machine

/-- The command queue of a cluster has a free slot (R42, Table 03.4): a command that has started has given its slot back. -/
def matrixRoom (s : State) (clu : Nat) : Bool := decide (((matrixOf s clu).queue.filter fun e => !e.running).length < 64)

/-- Put a command at the end of the queue. -/
def pushCommand (s : State) (id tid clu : Nat) (c : MCmd) : State :=
  let m := matrixOf s clu
  setMatrix s clu { m with queue := m.queue ++ [{ id := id, cmd := c, tid := tid, running := false, bad := false }] }

/-- A command without ranges: it waits for a slot, then the thread goes on (R213). -/
def queueCommand (s : State) (c : MCmd) : Out :=
  let clu := cluOfCore s.g.core
  if !matrixRoom s clu then stall s
  else
    let (id, s) := fresh s
    let s := pushCommand s id s.g.tid clu c
    finish s s.g

/-- A command that registers ranges: the operation that holds them has the number of the command (R206, R216, R221). It waits until the
thread's earlier loads have their values (A4 of R263). -/
def queueEngine (s : State) (op : EngOp) (c : Nat → MCmd) (token : Bool) : Out :=
  let clu := cluOfCore s.g.core
  let rs := rangesOf op 0
  if !matrixRoom s clu || !sectionRoom s op.core rs.length || !readsDone s s.g.tid then stall s
  else
    let (id, s) := fresh s
    let op := { op with id := id }
    let s := register { s with engines := s.engines ++ [op] } s.g op rs
    let s := pushCommand s id s.g.tid clu (c id)
    finish s (if token then setKEmpty s.g (kAt op.token) true else s.g)

/-- Places that a panel load reads: the rows, then the scales (R216). -/
def panelPlaces (s : State) (g : Group) (d : List (BitVec 64)) : List (Option (Nat × Nat)) :=
  let fmt := bits (word d 0) 55 48
  let rows := bits (word d 1) 6 0
  let k := bits (word d 1) 17 8
  (List.range rows).map (fun r => spadRange s g 0 (bits (word d 0) 27 0 + r * bits (word d 0) 47 32) (panelRow fmt k) 16)
    ++ (if isScaled fmt then [spadRange s g 0 (bits (word d 1) 59 32) (rows * (k / 64)) 1] else [])

/-- `MLDA` and `MLDB` (R216). -/
def panelLoad (s : State) (i : Instr) (b : Bool) (n a : Fin 64) : Out :=
  issue s i <| withOperands s { srcs := regSrcs a 2 } <|
    let desc := readRegs s.g a.val 2
    withLayout s a (panelFlaws desc) <| withPlaces s (panelPlaces s s.g desc) <|
      queueEngine s (makeOp s.g .panel 0 desc) (fun _ => .load b n.val (word desc 0) (word desc 1)) false

def execMlda (n a : Fin 64) (s : State) : Out := panelLoad s (.mlda n a) false n a
def execMldb (n a : Fin 64) (s : State) : Out := panelLoad s (.mldb n a) true n a

/-- `MMA` (R217). -/
def execMma (d : Fin 16) (a b : Fin 64) (s : State) : Out :=
  issue s (.mma d a b) <| queueCommand s (.mma d.val a.val b.val)

/-- `MMA.C` (R218). -/
def execMmaC (d a : Fin 16) (b : Fin 64) (s : State) : Out :=
  issue s (.mmaC d a b) <| queueCommand s (.mmaC d.val a.val b.val)

/-- `MMA.S` (R219). -/
def execMmaS (d : Fin 16) (a : Fin 64) (s : State) : Out :=
  issue s (.mmaS d a) <| queueCommand s (.mmaS d.val a.val)

/-- `MZERO` (R220). -/
def execMzero (d : Fin 16) (s : State) : Out :=
  issue s (.mzero d) <| queueCommand s (.mzero d.val)

/-- `MST` (R221). -/
def execMst (d : Fin 64) (a : Fin 16) (b : Fin 64) (s : State) : Out :=
  issue s (.mst d a b) <| withOperands s { srcs := regSrcs b 2, dstK := [d] } <|
    let desc := readRegs s.g b.val 2
    let size := elemSize (bits (word desc 1) 39 32)
    let places := (List.range (bits (word desc 1) 6 0)).map fun m =>
      apRange s s.g (bits (word desc 0) 56 0 + m * bits (word desc 1) 31 16) (bits (word desc 1) 14 8 * size) size
    withLayout s b (mstFlaws desc) <| withPlaces s places <|
      queueEngine s { makeOp s.g .mst d.val desc with tile := a.val }
        (fun id => .mst d.val a.val (word desc 0) (word desc 1) id) true

/-- `MFENCE` (R222). -/
def execMfence (s : State) : Out :=
  issue s .mfence <|
    if s.matrix.any fun m => m.2.queue.any fun e => e.tid == s.g.tid then stall s else finish s s.g

/-- `MWAIT` (R223): the mask is read at issue. -/
def execMwait (a n : Fin 64) (s : State) : Out :=
  issue s (.mwait a n) <| withOperands s { srcs := [.k a false] } <|
    if hasRecord s s.g.block n.val then queueCommand s (.mwait n.val (readK s.g a))
    else takeTrap s { cause := 0x01, code := 10, value := wordOf (.mwait a n), reg := if a = 0 then 0 else a.val
                      rfile := if a = 0 then 3 else 0 }

/-- Products of one step by panel format (R85). -/
def stepOf (fmt : Nat) : Nat := if fmt = 0x04 then 12 else if isT6 fmt then 32 else 24

/-- A panel of the unit. -/
def panelOf (m : Matrix) (b : Bool) (n : Nat) : Panel :=
  if b then (if n = 0 then m.b0 else m.b1) else (if n = 0 then m.a0 else m.a1)

/-- Steps of a multiply form, rounded up; none for another command. -/
def stepsOf (m : Matrix) : MCmd → Option Nat
  | .mma _ a _ => let p := panelOf m false a; some ((p.k + stepOf p.fmt - 1) / stepOf p.fmt)
  | .mmaC _ _ b => let p := panelOf m true b; some ((64 + stepOf p.fmt - 1) / stepOf p.fmt)
  | .mmaS _ a => let p := panelOf m false a; some ((p.k + stepOf p.fmt - 1) / stepOf p.fmt)
  | _ => none

/-- The oldest running multiply form of a cluster, with its number of steps. -/
def runningForm (m : Matrix) : Option (MEntry × Nat) :=
  (m.queue.filter fun e => e.running).findSome? fun e => (stepsOf m e.cmd).map fun k => (e, k)

/-- `MPROG` (R224). The steps of a running multiply form are a free value, at most the form's steps and never fewer than were seen
before (log 6). -/
def execMprog (d n : Fin 64) (s : State) : Out :=
  issue s (.mprog d n) <| withOperands s { dstK := [d] } <|
    let m := matrixOf s (cluOfCore s.g.core)
    match n.val with
    | 0 => finish s (writeK s.g d (BitVec.ofNat 64 s.g.mdone))
    | 1 => finish s (writeK s.g d (BitVec.ofNat 64 (m.queue.filter fun e => e.tid == s.g.tid).length))
    | 2 =>
      match runningForm m with
      | some (e, k) =>
        let (f, s) := drawFree s
        let n := e.steps + Config.freeProgress f % (k + 1 - e.steps)
        let s := setMatrix s (cluOfCore s.g.core) { m with queue := mapIf (fun x => x.id == e.id) (fun x => { x with steps := n }) m.queue }
        finish s (writeK s.g d (BitVec.ofNat 64 n))
      | none => finish s (writeK s.g d 0)
    | _ =>
      let stored := (m.queue.filter fun e => e.running).filterMap fun e => match e.cmd with
        | .mst _ _ _ _ op => some (((engineOf s op).map EngOp.landed).getD e.steps)
        | _ => none
      finish s (writeK s.g d (BitVec.ofNat 64 (stored.head?.getD 0)))

end Sys2Proof.Machine
end

