-- ==== Sys2Proof/Machine/EvMatrix.lean ====
section
/-! DEFINITION. The start and the completion of matrix commands (R85, R213 to R223, R226, R380). A running command takes its whole
effect when it completes. -/
namespace Sys2Proof.Machine

/-! What a command reads and writes (R213). -/

/-- Panel numbers: A panels 0 and 1, B panels 2 and 3. -/
def panelNo (b : Bool) (n : Nat) : Nat := (if b then 2 else 0) + n % 2

/-- Tiles read, tiles written, panels read, panels written. -/
def commandUse : MCmd → List Nat × List Nat × List Nat × List Nat
  | .load b n _ _ => ([], [], [], [panelNo b n])
  | .mma d a b => ([d], [d], [panelNo false a, panelNo true b], [])
  | .mmaC d a b => ([a, d], [d], [panelNo true b], [])
  | .mmaS d a => ([d], [d], [panelNo false a], [])
  | .mzero d => ([], [d], [], [])
  | .mst _ a _ _ _ => ([a], [], [], [])
  | .mwait _ _ => ([], [], [], [])

/-- Memory and scratchpad bytes a command reads or writes: a load reads, a store writes (log 18). -/
def touchesBytes : MCmd → Bool
  | .load _ _ _ _ => true
  | .mst _ _ _ _ _ => true
  | _ => false

def isWaitCmd : MCmd → Bool
  | .mwait _ _ => true
  | _ => false

/-- The lists share an element. -/
def meetNat (a b : List Nat) : Bool := a.any fun x => b.contains x

/-- An earlier unfinished command keeps a later one from starting (R213). -/
def conflicts (e c : MCmd) : Bool :=
  let x := commandUse e
  let y := commandUse c
  isWaitCmd e || (touchesBytes e && touchesBytes c)
    || meetNat x.2.1 (y.1 ++ y.2.1) || meetNat x.1 y.2.1
    || meetNat x.2.2.2 (y.2.2.1 ++ y.2.2.2) || meetNat x.2.2.1 y.2.2.2

/-- The first command that has not started, with those before it. -/
def firstWaiting : List MEntry → List MEntry → Option (List MEntry × MEntry)
  | _, [] => none
  | before, e :: rest => if e.running then firstWaiting (before ++ [e]) rest else some (before, e)

/-- The gang of a thread stands on its cores (R48, R214). -/
def gangHere (s : State) (tid : Nat) : Bool := match thread? s tid with
  | some g => (gangOf s g.gang).place == .resident
  | none => false

/-! MISMATCH (R380). -/

/-- Format classes (R217): 0 BF16, 1 the T8 forms, 2 the T6 forms. -/
def fmtClass (f : Nat) : Nat := if f = 0x04 then 0 else if isT6 f then 2 else 1

/-- A multiply form whose operands do not fit each other (R217 to R219, R379). -/
def mismatch (m : Matrix) : MCmd → Bool
  | .mma _ a b =>
    let p := panelOf m false a
    let q := panelOf m true b
    p.rows == 0 || q.rows == 0 || p.k != q.k || fmtClass p.fmt != fmtClass q.fmt
  | .mmaC _ _ b => (panelOf m true b).rows == 0 || (panelOf m true b).k != 64
  | .mmaS _ a =>
    let p := panelOf m false a
    p.rows == 0 || (m.gNnz != 0 && (p.k != m.gK || fmtClass p.fmt != fmtClass m.gFmt))
  | _ => false

/-- The word of a multiply form (Table 10.1). -/
def commandWord : MCmd → Nat
  | .mma d a b => wordX 0x60 2 d a b
  | .mmaC d a b => wordX 0x60 3 d a b
  | .mmaS d a => wordX 0x60 4 d a 0
  | _ => 0

/-- Change the entry of a command. -/
def updCommand (s : State) (clu id : Nat) (f : MEntry → MEntry) : State :=
  let m := matrixOf s clu
  setMatrix s clu { m with queue := mapIf (fun e => e.id == id) f m.queue }

/-- Report MISMATCH; the command stays in the queue without effect. -/
def reportMismatch (s : State) (clu : Nat) (e : MEntry) : State :=
  let s := updCommand s clu e.id fun e => { e with bad := true }
  let g := (thread? s e.tid).getD { core := 96 + clu }
  asyncFault s (96 + clu) { recordOf g { cause := 0x01, code := 13, value := commandWord e.cmd } with tid := e.tid }

/-- A tile or a panel that a command reads is lost (R391): tiles 0 to 15 and panels 16 to 19 of a cluster. -/
def lostTile (s : State) (clu : Nat) (c : MCmd) : Bool :=
  let u := commandUse c
  (u.1 ++ u.2.2.1.map (16 + ·)).any fun i => s.bad.contains (6, clu * 32 + i)

/-- Report a lost tile or panel (Table 24.3); the command stops before its effect. -/
def reportLost (s : State) (clu : Nat) (e : MEntry) : State :=
  let s := updCommand s clu e.id fun e => { e with bad := true }
  let g := (thread? s e.tid).getD { core := 96 + clu }
  asyncFault s (96 + clu) { recordOf g { cause := 0x0E, code := 6 } with tid := e.tid }

/-- `MATRIX_COMMAND_START` (R213): the first command that has not started, when no earlier one conflicts with it. -/
def execMatrixCommandStart (clu : Nat) (s : State) : Out :=
  let m := matrixOf s clu
  match firstWaiting [] m.queue with
  | none => .next s
  | some (before, e) =>
    if e.bad || !gangHere s e.tid || before.any fun x => conflicts x.cmd e.cmd then .next s
    else if mismatch m e.cmd then .next (reportMismatch s clu e)
    else if lostTile s clu e.cmd then .next (reportLost s clu e)
    else
      let s := updCommand s clu e.id fun e => { e with running := true }
      match e.cmd with
      | .mst _ _ _ _ op => .next (updEngine s op fun o => { o with accepted := true })
      | _ => .next s

/-! Completion. -/

/-- The value of a panel element. -/
def panelValue (p : Panel) (r k : Nat) : FVal := elemValue p.fmt (getT 0 p.scale (r * 16 + k / 64)) (getT 0 p.elem (r * 512 + k))

/-- One exact product, infinities and invalid operands included (R85): none when it makes its step invalid. -/
def product (x y : FVal) : Option FVal :=
  match x, y with
  | .nan _, _ => none
  | _, .nan _ => none
  | .inf a, .inf b => some (.inf (a != b))
  | .inf a, .fin b m _ => if m = 0 then none else some (.inf (a != b))
  | .fin a m _, .inf b => if m = 0 then none else some (.inf (a != b))
  | .fin a m e, .fin b n f => some (.fin (a != b) (m * n) (e + f))

/-- Add a product to the sum of a step; none when the step is invalid. The sign of a zero sum is −0 only while every product is
−0. -/
def addProduct (acc p : Option FVal) : Option FVal :=
  match acc, p with
  | some (.inf a), some (.inf b) => if a = b then some (.inf a) else none
  | some (.inf a), some (.fin _ _ _) => some (.inf a)
  | some (.fin _ _ _), some (.inf b) => some (.inf b)
  | some (.fin a m e), some (.fin b n f) =>
    let r := addExact a m e b n f
    some (.fin (if r.1 = 0 then a && b && m == 0 && n == 0 else decide (r.1 < 0)) r.1.natAbs r.2)
  | _, _ => none

/-- The exact sum of the products of a step; none when it is invalid. An empty step has the sum +0. -/
def stepSum : List (FVal × FVal) → Option FVal
  | [] => some (.fin false 0 0)
  | [x] => product x.1 x.2
  | x :: xs => xs.foldl (fun acc y => addProduct acc (product y.1 y.2)) (product x.1 x.2)

/-- One step of R85 on an accumulator. -/
def accStep (c : Nat × Flags) (xs : List (FVal × FVal)) : Nat × Flags :=
  match stepSum xs with
  | none => (nanBits fmtF, c.2 ||| flagNV)
  | some v => let r := addReal fmtF 0 (unpack fmtF c.1) v; (r.1, c.2 ||| r.2)

/-- The steps of K products, `n` at a time (R85). -/
def accSteps : Nat → Nat → Nat × Flags → List (FVal × FVal) → Nat × Flags
  | 0, _, c, _ => c
  | fuel + 1, n, c, xs => if xs = [] then c else accSteps fuel n (accStep c (xs.take n)) (xs.drop n)

def tileKey (t m n : Nat) : Nat := (t * 64 + m) * 64 + n

/-- The tile product over rows and columns: `val` gives the pairs of one output element, in steps of `step` by their K index. -/
def mulTile (mx : Matrix) (d rows cols : Nat) (element : Nat → Nat → Nat × Flags → Nat × Flags) : Matrix × Flags :=
  ((List.range rows).flatMap fun m => (List.range cols).map fun n => (m, n)).foldl (fun acc p =>
    let key := tileKey d p.1 p.2
    let r := element p.1 p.2 ((getT 0 acc.1.tiles key).toNat, 0)
    ({ acc.1 with tiles := putT 0 acc.1.tiles key (BitVec.ofNat 32 r.1) }, acc.2 ||| r.2)) (mx, 0)

/-- Every step of one output element: products by K index, `val k` the pair, none where an entry is absent (R219). -/
def accElement (k step : Nat) (val : Nat → Option (FVal × FVal)) (c : Nat × Flags) : Nat × Flags :=
  (List.range ((k + step - 1) / step)).foldl (fun c j =>
    let ks := (List.range (min step (k - j * step))).map (j * step + ·)
    accStep c (ks.filterMap val)) c

/-- Row m of a tile converted into the B panel's format, with its flags (R218): the values and the scale. -/
def tileRow (mx : Matrix) (a fmt m : Nat) : List FVal × Flags :=
  let xs := (List.range 64).map fun k => unpack fmtF (getT 0 mx.tiles (tileKey a m k)).toNat
  if isScaled fmt then
    let r := encodeBlock (fmt == 0x12) xs
    (r.2.1.map (blockElem (fmt == 0x12) r.1), r.2.2)
  else
    let rs := xs.map (elemRound fmt)
    (rs.map fun r => elemValue fmt 0 r.1, rs.foldl (fun f r => f ||| r.2) 0)

/-- The effect of a multiply form or `MZERO` on the unit, with its flags. -/
def multiply (mx : Matrix) : MCmd → Matrix × Flags
  | .mma d a b =>
    let p := panelOf mx false a
    let q := panelOf mx true b
    mulTile mx d p.rows q.rows fun m n => accElement p.k (stepOf p.fmt) fun k => some (panelValue p m k, panelValue q n k)
  | .mmaC d a b =>
    let q := panelOf mx true b
    let rows := (List.range 64).map (tileRow mx a q.fmt)
    let r := mulTile mx d 64 q.rows fun m n => accElement 64 (stepOf q.fmt) fun k =>
      some (((rows.getD m ([], 0)).1).getD k (.fin false 0 0), panelValue q n k)
    (r.1, rows.foldl (fun f x => f ||| x.2) r.2)
  | .mmaS d a =>
    let p := panelOf mx false a
    mulTile mx d (if mx.gN = 0 then 0 else p.rows) mx.gN fun m n => accElement p.k (stepOf p.fmt) fun k =>
      let e := getT 0 mx.gEnt (n * 512 + k)
      if e = 0 then none else some (panelValue p m k, elemValue mx.gFmt 0 (e - 1))
  | .mzero d => ({ mx with tiles := mx.tiles.filter fun e => e.1 / 4096 != d }, 0)
  | _ => (mx, 0)

/-- The codes of one packed row (R78). -/
def rowCodes (fmt k x : Nat) : List Nat :=
  if isT6 fmt then (List.range k).map fun i => x / 2 ^ (6 * i) % 2 ^ 6
  else
    let w := 8 * elemSize fmt
    (List.range k).map fun i => x / 2 ^ (w * i) % 2 ^ w

/-- Put a panel. -/
def setPanel (m : Matrix) (b : Bool) (n : Nat) (p : Panel) : Matrix :=
  if b then (if n = 0 then { m with b0 := p } else { m with b1 := p })
  else if n = 0 then { m with a0 := p } else { m with a1 := p }

/-- Load the rows left, then the scales, then the panel (R216); a lost byte stops the load under R387. -/
def loadRows (s : State) (op : EngOp) (fmt k addr pitch : Nat) (p : Panel) (go : State → Panel → State) : List Nat → State
  | [] => go s p
  | r :: rs => getElem s op (apBase + (addr + r * pitch) % 2 ^ 28) (panelRow fmt k) fun s x =>
      let p := { p with elem := putAll 0 p.elem ((rowCodes fmt k x).zipIdx.map fun c => (r * 512 + c.2, c.1)) }
      loadRows s op fmt k addr pitch p go rs

/-- Take a command out of the queue; its flags enter `fpflags`, and its thread counts it (R215, R224). -/
def retireCommand (s : State) (clu : Nat) (e : MEntry) (f : Flags) : State :=
  let m := matrixOf s clu
  let s := setMatrix s clu { m with queue := m.queue.filter fun x => x.id != e.id }
  let s := updThread s e.tid fun g => { raise g f with mdone := g.mdone + 1 }
  reap s e.tid

/-- The record of an `MWAIT` meets its test (R205, R223). -/
def waitMet (r : Arrival) (mask : BitVec 64) : Bool := if mask = 0 then recComplete r else r.chunks &&& mask == mask

/-- `MATRIX_COMMAND_COMPLETE` (R213, R215): a running command takes its effect and leaves the queue. -/
def execMatrixCommandComplete (clu cmd : Nat) (s : State) : Out :=
  let mx := matrixOf s clu
  match mx.queue.find? fun e => e.id == cmd && e.running with
  | none => .next s
  | some e =>
    if !gangHere s e.tid then .next s
    else match e.cmd with
      | .load b n d0 d1 =>
        match engineOf s e.id with
        | none => .next s
        | some op =>
          if op.fault.isSome then .next s
          else
            let fmt := bits d0 55 48
            let rows := bits d1 6 0
            let k := bits d1 17 8
            let done (s : State) (p : Panel) : State :=
              let s := setMatrix s clu (setPanel mx b n p)
              endBlock (retireCommand (dropOp s op) clu e 0) op.block
            let scales (s : State) (p : Panel) : State :=
              if isScaled fmt then
                getElem s op (apBase + bits d1 59 32) (rows * (k / 64)) fun s x =>
                  let c := (List.range rows).flatMap fun r => (List.range (k / 64)).map fun j =>
                    (r * 16 + j, x / 2 ^ (8 * (r * (k / 64) + j)) % 2 ^ 8)
                  done s { p with scale := putAll 0 [] c }
              else done s p
            .next (loadRows s op fmt k (bits d0 27 0) (bits d0 47 32) { rows := rows, k := k, fmt := fmt } scales (List.range rows))
      | .mst _ _ _ _ op => if (engineOf s op).isSome then .next s else .next (retireCommand s clu e 0)
      | .mwait n mask =>
        let block := ((thread? s e.tid).map Group.block).getD 0
        let r := recordAt s block n
        if !waitMet r mask then .next s
        else .next (retireCommand (acquire s (96 + clu)) clu e 0)
      | c =>
        let r := multiply mx c
        .next (retireCommand (setMatrix s clu r.1) clu e r.2)

end Sys2Proof.Machine
end

