-- ==== Sys2Proof/Machine/Fetch.lean ====
section
/-! DEFINITION. Fetching (R2, R92, R103, R375, R383, R390), and the meanings of a word that is no instruction use and of a fetch
that faults (R372 to R374, R383). -/
namespace Sys2Proof.Machine


/-- The outcome of a fetch at the thread's program counter. -/
inductive Fetched where
  | wait (s : State)
  | bad (r : Record)
  | word (s : State) (w : Nat)

/-- The writes to a line since a launch started, newest first. -/
def writesTo (s : State) (launch line : Nat) : List OldBytes :=
  s.oldCode.filter fun e => e.launch == launch && decide (e.pa / 128 ≤ line ∧ line ≤ (e.pa + e.size - 1) / 128)

/-- The byte at an address before the writes of a list, newest first: what the oldest of them that covers it replaced. -/
def byteUnwritten (es : List OldBytes) (a now : Nat) : Nat :=
  match es.reverse.find? fun e => decide (e.pa ≤ a ∧ a < e.pa + e.size) with
  | some e => e.old / 256 ^ (a - e.pa) % 256
  | none => now

/-- The word at an address before the writes of a list. -/
def wordUnwritten (es : List OldBytes) (pa now : Nat) : Nat :=
  byteUnwritten es pa (now % 256) + 256 * byteUnwritten es (pa + 1) (now / 256 % 256) + 65536 * byteUnwritten es (pa + 2) (now / 65536 % 256)
    + 16777216 * byteUnwritten es (pa + 3) (now / 16777216 % 256)

/-- A code word of this package's memory. A line written since the launch started is fetched as it stood then, or as any of the
writes since left it (R390; log 7): a free value says how many of them the fetch does not see. -/
def codeWord (s : State) (launch pa : Nat) : State × Nat :=
  let es := writesTo s launch (pa / 128)
  if es = [] then (s, homeRead s pa 4)
  else
    let (n, s) := drawFree s
    (s, wordUnwritten (es.take (Config.freeFetchOld n % (es.length + 1))) pa (homeRead s pa 4))

/-- What a core holds of a peer's line of code: its RDC share, or the L1 of a matrix control core, which has no share. -/
def codeLine (s : State) (core key : Nat) : Line := if 96 ≤ core then l1Line s core key else rdcLine s core key

/-- A code word of a peer's memory: from the core's RDC share, else its line is asked for, once. -/
def peerWord (s : State) (g : Group) (p off : Nat) : Fetched :=
  let l := codeLine s g.core (lineKey (.peer p off))
  if lineHas l (off % 128) 4 then .word s (lineRead l (off % 128) 4)
  else if s.kept.any fun k => k.packet.kind == 0x01 && k.tid == g.tid && k.op == 0 && k.packet.dst == p
      && k.packet.offset == off / 128 * 128 then .wait s
  else .wait (askPeer s g g.pc (.peer p off))

/-- Fetch the word at the program counter (R383, access kind 3). DESIGN CHOICE (log 61): a fetch at an aperture address reads the scratchpad,
untranslated, as R185 has memory instructions do; the spec does not speak of fetches there. -/
def fetchWord (s : State) (g : Group) : Fetched :=
  match checkAccess s g ⟨3, 4, 4, false, false⟩ [(0, g.pc)] with
  | .wait s => .wait s
  | .trap r => .bad r
  | .ok l => match l with
    | (_, _, .hbm pa) :: _ =>
      if homeRoom s (.hbm pa) then (let r := codeWord (fillL2 s (some g.ctx) (pa / 128)) g.launch pa; .word r.1 r.2) else .wait s
    | (_, _, .peer p off) :: _ => peerWord s g p off
    | (_, _, loc) :: _ => .word s (placeRead s loc 4)
    | [] => .wait s

/-- A trap of the fetch: PC names the word that could not be fetched; the thread goes on at the first word of its run, where control does not
land (R375; log 24). -/
def fetchTrap (s : State) (r : Record) : Out :=
  match windowOf s s.g.tid with
  | some _ => endWindow s
  | none => .next (postRecord (stopFor { s with g := rewind s.g } s.g) { recordOf s.g r with pc := s.g.pc })

/-- `FETCH_FAULT` (R383): XLATE, kind 3. -/
def execFetchFault (code va : Nat) (s : State) : Out :=
  if !mayIssue s s.g then .next s
  else fetchTrap s { cause := 0x09, code := code, value := 3, addrs := [listed s s.g.ctx 0x09 code va] }

/-- Where the word before the program counter lies, when it can be fetched from there. -/
def placeBefore (s : State) (g : Group) : Option Loc :=
  if g.pc < 4 then none
  else if inAperture (g.pc - 4) then (spadPlace s g ((g.pc - 4) % 2 ^ 28) 0 4).toOption
  else match translateNow s g.ctx (g.pc - 4) 3 with
    | .ok loc => some loc
    | _ => none

/-- The line of a peer that holds the word before the program counter and has still to be asked for. DESIGN CHOICE (log 61): of a peer that
cannot be reached nothing is asked, and the word is then no hint word; the spec does not say. -/
def lineBefore (s : State) (g : Group) : Option (Nat × Nat) :=
  match placeBefore s g with
  | some (.peer p off) => if unreachable s p = 0 ∧ ¬ lineHas (codeLine s g.core (lineKey (.peer p off))) (off % 128) 4 then some (p, off) else none
  | _ => none

/-- Ask for the line of the word before the program counter, once. -/
def askBefore (s : State) (g : Group) (p off : Nat) : State :=
  if s.kept.any fun k => k.packet.kind == 0x01 && k.tid == g.tid && k.op == 0 && k.packet.dst == p && k.packet.offset == off / 128 * 128 then s
  else askPeer s g (g.pc - 4) (.peer p off)

/-- The word before the program counter, when it can be read. DESIGN CHOICE (log 61): a word that does not translate for a fetch is no hint
word, and a word that was stored to while the launch ran is read as it stands; the spec says neither. -/
def wordBefore (s : State) (g : Group) : Option Nat :=
  match placeBefore s g with
  | some (.hbm pa) => some (homeRead s pa 4)
  | some (.peer p off) =>
    let l := codeLine s g.core (lineKey (.peer p off))
    if lineHas l (off % 128) 4 then some (lineRead l (off % 128) 4) else none
  | some loc => some (placeRead s loc 4)
  | none => none

def isHint (w : Nat) : Bool := opOf w == 0x7F

/-- Control has landed inside a hint run (R375). -/
def insideRun (s : State) (g : Group) (w : Nat) : Bool := g.landed && g.run == [] && isHint w && (wordBefore s g).any isHint

/-- `ILLEGAL_WORD` (R372 to R374): a word that is no instruction use, with the sub-cause of its form; the run before it may hold a
defect of a lower code. Code 8 is reported before the run is looked at. -/
def execIllegalWord (code word : Nat) (s : State) : Out :=
  if !mayIssue s s.g then .next s
  else if code = 8 then illegal s 8 word
  else
    let d := (unitDefect s.g code word).getD (code, word)
    illegal s d.1 d.2

/-- A hint word joins the run of the instruction after it, whatever its defects (R103). -/
def execHintWord (w : Nat) (s : State) : Out := issueHint s w


end Sys2Proof.Machine
end

