-- ==== Sys2Proof/Machine/Scalar.lean ====
section
/-! DEFINITION. Scalar arithmetic, logic, shifts, comparisons, bit operations, immediates (majors 0x01 to 0x0F, R112 to
R123). -/
namespace Sys2Proof.Machine

/-- A scalar instruction of three registers (R112). -/
def scalar3 (s : State) (i : Instr) (o : S3) (f : BitVec 64 → BitVec 64 → BitVec 64) : Out :=
  issue s i <| withOperands s { srcs := [.k o.a o.ea, .k o.b o.eb], dstK := [o.d] } <|
    finish s (writeK s.g o.d (f (readK s.g o.a) (readK s.g o.b)))

/-- A scalar instruction of two registers. -/
def scalar2 (s : State) (i : Instr) (o : S2) (f : BitVec 64 → BitVec 64) : Out :=
  issue s i <| withOperands s { srcs := [.k o.a o.ea], dstK := [o.d] } <| finish s (writeK s.g o.d (f (readK s.g o.a)))

/-- A scalar instruction with an immediate; format S has no trap bit, so the source waits (R112). -/
def scalarI (s : State) (i : Instr) (o : SI) (f : BitVec 64 → BitVec 64 → BitVec 64) : Out :=
  issue s i <| withOperands s { srcs := [.k o.a false], dstK := [o.d] } <|
    finish s (writeK s.g o.d (f (readK s.g o.a) (immS s.g o.imm)))

/-- A shift by a constant (R122). -/
def scalarSh (s : State) (i : Instr) (o : Sh) (f : BitVec 64 → BitVec 64 → BitVec 64) : Out :=
  issue s i <| withOperands s { srcs := [.k o.a false], dstK := [o.d] } <|
    finish s (writeK s.g o.d (f (readK s.g o.a) (BitVec.ofNat 64 o.n.val)))

/-! Results (R113 to R120). -/

def mulHigh (x y : BitVec 64) : BitVec 64 := BitVec.ofInt 64 (x.toInt * y.toInt / 2 ^ 64)
def divS (x y : BitVec 64) : BitVec 64 := if y = 0 then BitVec.allOnes 64 else BitVec.ofInt 64 (x.toInt.tdiv y.toInt)
def divN (x y : BitVec 64) : BitVec 64 := if y = 0 then BitVec.allOnes 64 else BitVec.ofNat 64 (x.toNat / y.toNat)
def remS (x y : BitVec 64) : BitVec 64 := if y = 0 then x else BitVec.ofInt 64 (x.toInt.tmod y.toInt)
def remN (x y : BitVec 64) : BitVec 64 := if y = 0 then x else BitVec.ofNat 64 (x.toNat % y.toNat)
/-- The count of a shift: bits [5:0] (R116). -/
def shCount (y : BitVec 64) : Nat := y.toNat % 64
def shl (x y : BitVec 64) : BitVec 64 := x <<< shCount y
def shr (x y : BitVec 64) : BitVec 64 := x >>> shCount y
def sha (x y : BitVec 64) : BitVec 64 := x.sshiftRight (shCount y)
def rot (x y : BitVec 64) : BitVec 64 := x.rotateLeft (shCount y)
def minS (x y : BitVec 64) : BitVec 64 := if x.slt y then x else y
def maxS (x y : BitVec 64) : BitVec 64 := if x.slt y then y else x
def minN (x y : BitVec 64) : BitVec 64 := if x.ult y then x else y
def maxN (x y : BitVec 64) : BitVec 64 := if x.ult y then y else x
def setIf (b : Bool) : BitVec 64 := if b then 1 else 0
def popCount (x : BitVec 64) : BitVec 64 := BitVec.ofNat 64 ((List.range 64).filter fun i => x.getLsbD i).length
def leadZeros (x : BitVec 64) : BitVec 64 := BitVec.ofNat 64 (64 - bitLen x.toNat)
def trailZeros (x : BitVec 64) : BitVec 64 := BitVec.ofNat 64 (((List.range 64).find? fun i => x.getLsbD i).getD 64)
def bitReverse (x : BitVec 64) : BitVec 64 :=
  BitVec.ofNat 64 ((List.range 64).foldl (fun acc i => acc + bit (x.getLsbD i) * 2 ^ (63 - i)) 0)

/-- Position, width and sign bit of a field control value (R120). -/
def fieldPos (c : BitVec 64) : Nat := c.toNat % 64
def fieldWidth (c : BitVec 64) : Nat := min (c.toNat / 2 ^ 8 % 128) 64

/-- `BFX` (R120). -/
def extractField (x c : BitVec 64) : BitVec 64 :=
  let w := fieldWidth c
  let y := x.toNat / 2 ^ fieldPos c % 2 ^ w
  if c.getLsbD 15 ∧ 1 ≤ w ∧ y / 2 ^ (w - 1) % 2 = 1 then BitVec.ofInt 64 ((y : Int) - 2 ^ w) else BitVec.ofNat 64 y

/-- `BFI` (R120): bits of the field past bit 63 are lost. -/
def insertField (old x c : BitVec 64) : BitVec 64 :=
  let m := 2 ^ fieldWidth c - 1
  let k : BitVec 64 := BitVec.ofNat 64 (m * 2 ^ fieldPos c)
  (old &&& ~~~k) ||| BitVec.ofNat 64 (x.toNat % 2 ^ fieldWidth c * 2 ^ fieldPos c)

/-! Meanings. -/

def execAdd (o : S3) (s : State) : Out := scalar3 s (.add o) o fun x y => x + y
def execSub (o : S3) (s : State) : Out := scalar3 s (.sub o) o fun x y => x - y
def execMul (o : S3) (s : State) : Out := scalar3 s (.mul o) o fun x y => x * y
def execMulh (o : S3) (s : State) : Out := scalar3 s (.mulh o) o mulHigh
def execDiv (o : S3) (s : State) : Out := scalar3 s (.div o) o divS
def execDivn (o : S3) (s : State) : Out := scalar3 s (.divn o) o divN
def execRem (o : S3) (s : State) : Out := scalar3 s (.rem o) o remS
def execRemn (o : S3) (s : State) : Out := scalar3 s (.remn o) o remN
def execAnd (o : S3) (s : State) : Out := scalar3 s (.and o) o fun x y => x &&& y
def execOr (o : S3) (s : State) : Out := scalar3 s (.or o) o fun x y => x ||| y
def execXor (o : S3) (s : State) : Out := scalar3 s (.xor o) o fun x y => x ^^^ y
def execAndn (o : S3) (s : State) : Out := scalar3 s (.andn o) o fun x y => x &&& ~~~y
def execShl (o : S3) (s : State) : Out := scalar3 s (.shl o) o shl
def execShr (o : S3) (s : State) : Out := scalar3 s (.shr o) o shr
def execSha (o : S3) (s : State) : Out := scalar3 s (.sha o) o sha
def execRot (o : S3) (s : State) : Out := scalar3 s (.rot o) o rot
def execMin (o : S3) (s : State) : Out := scalar3 s (.min o) o minS
def execMax (o : S3) (s : State) : Out := scalar3 s (.max o) o maxS
def execMinn (o : S3) (s : State) : Out := scalar3 s (.minn o) o minN
def execMaxn (o : S3) (s : State) : Out := scalar3 s (.maxn o) o maxN
def execSeq (o : S3) (s : State) : Out := scalar3 s (.seq o) o fun x y => setIf (x == y)
def execSlt (o : S3) (s : State) : Out := scalar3 s (.slt o) o fun x y => setIf (x.slt y)
def execSltn (o : S3) (s : State) : Out := scalar3 s (.sltn o) o fun x y => setIf (x.ult y)
def execSne (o : S3) (s : State) : Out := scalar3 s (.sne o) o fun x y => setIf (x != y)
def execPopc (o : S2) (s : State) : Out := scalar2 s (.popc o) o popCount
def execClz (o : S2) (s : State) : Out := scalar2 s (.clz o) o leadZeros
def execCtz (o : S2) (s : State) : Out := scalar2 s (.ctz o) o trailZeros
def execBrev (o : S2) (s : State) : Out := scalar2 s (.brev o) o bitReverse
def execBfx (o : S3) (s : State) : Out := scalar3 s (.bfx o) o extractField

/-- `BFI` also reads d, and that read always waits (R96, R120). -/
def execBfi (o : S3) (s : State) : Out :=
  issue s (.bfi o) <| withOperands s { srcs := [.k o.a o.ea, .k o.b o.eb, .k o.d false], dstK := [o.d] } <|
    finish s (writeK s.g o.d (insertField (readK s.g o.d) (readK s.g o.a) (readK s.g o.b)))

def execMov (o : S2) (s : State) : Out := scalar2 s (.mov o) o fun x => x
def execAddi (o : SI) (s : State) : Out := scalarI s (.addi o) o fun x i => x + i
def execAndi (o : SI) (s : State) : Out := scalarI s (.andi o) o fun x i => x &&& i
def execOri (o : SI) (s : State) : Out := scalarI s (.ori o) o fun x i => x ||| i
def execXori (o : SI) (s : State) : Out := scalarI s (.xori o) o fun x i => x ^^^ i
def execShli (o : Sh) (s : State) : Out := scalarSh s (.shli o) o shl
def execShri (o : Sh) (s : State) : Out := scalarSh s (.shri o) o shr
def execShai (o : Sh) (s : State) : Out := scalarSh s (.shai o) o sha
def execRoti (o : Sh) (s : State) : Out := scalarSh s (.roti o) o rot

/-- `LI` (R123): the immediate, sign-extended. -/
def execLi (d : Fin 64) (imm : BitVec 13) (s : State) : Out :=
  issue s (.li d imm) <| withOperands s { dstK := [d] } <| finish s (writeK s.g d (immS s.g imm))

/-- `LIH` (R123): imm34 × 2^30 + K[a][29:0]. -/
def execLih (o : SI) (s : State) : Out :=
  issue s (.lih o) <| withOperands s { srcs := [.k o.a false], dstK := [o.d] } <|
    finish s (writeK s.g o.d (BitVec.ofNat 64 ((imm34 s.g o.imm).toNat * 2 ^ 30 + (readK s.g o.a).toNat % 2 ^ 30)))

end Sys2Proof.Machine
end

