-- ==== Sys2Proof/Machine/VecInt.lean ====
section
/-! DEFINITION. Integer vector instructions, lane exchange, reductions and scans (majors 0x20 to 0x2E, R148 to R175). -/
namespace Sys2Proof.Machine

/-! Forms. -/

/-- Write lanes of a vector field and go on. -/
def putLanes (s : State) (d : Fin 64) (xs : List (Nat × BitVec 64)) : Out :=
  finish s (writeLanes s.g (physReg s.g d) xs)

/-- d, a and b are vector fields; each active lane takes f of its number, its two sources and its old value. -/
def vectorFull (s : State) (i : Instr) (o : V3) (readsD : Bool) (f : BitVec 64 → BitVec 64 → BitVec 64 → BitVec 64) : Out :=
  let act := activeMask s.g o.q
  issue s i <| withOperands s { bounds := [o.d, o.a, o.b], preds := [o.q], act := act, dstV := [o.d]
                                srcs := [.v o.a o.ea, .v o.b o.eb] ++ (if readsD then [.v o.d false] else []) } <|
    putLanes s o.d ((lanesOf s.g act).map fun n => (n, f (readV s.g o.a n) (readV s.g o.b n) (readV s.g o.d n)))

/-- Two sources, lane by lane. -/
def vector3 (s : State) (i : Instr) (o : V3) (f : BitVec 64 → BitVec 64 → BitVec 64) : Out := vectorFull s i o false fun x y _ => f x y

/-- One source, lane by lane. -/
def vector2 (s : State) (i : Instr) (o : V2) (f : BitVec 64 → BitVec 64) : Out :=
  let act := activeMask s.g o.q
  issue s i <| withOperands s { bounds := [o.d, o.a], preds := [o.q], act := act, dstV := [o.d], srcs := [.v o.a o.ea] } <|
    putLanes s o.d ((lanesOf s.g act).map fun n => (n, f (readV s.g o.a n)))

/-- The result of a compare enters the predicate when its rows complete (R38, R55): until then the predicate is busy. -/
def putPred (s : State) (d : Fin 8) (act yes : Mask) : Out :=
  if d = 0 ∨ act = 0 then finish s s.g
  else
    let g := writeQ s.g d ((readQ s.g d &&& ~~~act) ||| yes)
    let (id, t) := fresh s
    let f : Flight := { id := id, tid := g.tid, core := g.core, dest := .pred d, signed := false, acq := false, lanes := [], reqs := []
                        atoms := [], rows := rowsOf (lanesOf g act), flags := 0, spec := (windowOf s g.tid).isSome }
    finish { t with flights := t.flights ++ [f] } { g with qBusy := g.qBusy ||| BitVec.ofNat 8 (2 ^ d.val) }

/-- A compare (R157): the bit of each active lane. -/
def compare (s : State) (i : Instr) (o : P3) (f : BitVec 64 → BitVec 64 → Bool) : Out :=
  let act := activeMask s.g o.q
  issue s i <| withOperands s { bounds := [o.a, o.b], preds := [o.q], late := [o.d], act := act, srcs := [.v o.a o.ea, .v o.b o.eb] } <|
    putPred s o.d act (maskOf ((lanesOf s.g act).filter fun n => f (readV s.g o.a n) (readV s.g o.b n)))

/-! Lane results. -/

/-- An operation on the low 32 bits, sign-extended (R152). -/
def low32 (f : BitVec 32 → BitVec 32 → BitVec 32) (x y : BitVec 64) : BitVec 64 :=
  (f (x.truncate 32) (y.truncate 32)).signExtend 64

def pickMin {w : Nat} (x y : BitVec w) : BitVec w := if x.slt y then x else y
def pickMax {w : Nat} (x y : BitVec w) : BitVec w := if x.slt y then y else x

/-- `VMIN.n32` and `VMAX.n32` (R153). -/
def natMin (x y : BitVec 64) : BitVec 64 := BitVec.ofNat 64 (min (x.toNat % 2 ^ 32) (y.toNat % 2 ^ 32))
def natMax (x y : BitVec 64) : BitVec 64 := BitVec.ofNat 64 (max (x.toNat % 2 ^ 32) (y.toNat % 2 ^ 32))

/-- Saturating element sums (R154, R73). -/
def addSatS (w : Nat) (x y : BitVec w) : BitVec w := BitVec.ofInt w (satS w (x.toInt + y.toInt))
def addSatN (w : Nat) (x y : BitVec w) : BitVec w := BitVec.ofInt w (satN w ((x.toNat : Int) + y.toNat))

/-- An element of ones where the condition holds (R158). -/
def elemMask (c : BitVec 16 → BitVec 16 → Bool) (x y : BitVec 16) : BitVec 16 := if c x y then 0xFFFF else 0

/-- `VPACKM.p16` (R161). -/
def packSigns (x old : BitVec 64) : BitVec 64 :=
  old * 16 + BitVec.ofNat 64 (bit (x.getLsbD 15) + 2 * bit (x.getLsbD 31) + 4 * bit (x.getLsbD 47) + 8 * bit (x.getLsbD 63))

/-! Arithmetic (R152 to R156). -/

def execVaddI64 (o : V3) (s : State) : Out := vector3 s (.vaddI64 o) o fun x y => x + y
def execVaddI32 (o : V3) (s : State) : Out := vector3 s (.vaddI32 o) o (low32 fun x y => x + y)
def execVaddP16 (o : V3) (s : State) : Out := vector3 s (.vaddP16 o) o (zipLane 16 fun x y => x + y)
def execVaddP8 (o : V3) (s : State) : Out := vector3 s (.vaddP8 o) o (zipLane 8 fun x y => x + y)
def execVsubI64 (o : V3) (s : State) : Out := vector3 s (.vsubI64 o) o fun x y => x - y
def execVsubI32 (o : V3) (s : State) : Out := vector3 s (.vsubI32 o) o (low32 fun x y => x - y)
def execVsubP16 (o : V3) (s : State) : Out := vector3 s (.vsubP16 o) o (zipLane 16 fun x y => x - y)
def execVsubP8 (o : V3) (s : State) : Out := vector3 s (.vsubP8 o) o (zipLane 8 fun x y => x - y)
def execVmulI64 (o : V3) (s : State) : Out := vector3 s (.vmulI64 o) o fun x y => x * y
def execVmulI32 (o : V3) (s : State) : Out := vector3 s (.vmulI32 o) o (low32 fun x y => x * y)
def execVmulP16 (o : V3) (s : State) : Out := vector3 s (.vmulP16 o) o (zipLane 16 fun x y => x * y)
def execVmulhI64 (o : V3) (s : State) : Out := vector3 s (.vmulhI64 o) o mulHigh
def execVminI64 (o : V3) (s : State) : Out := vector3 s (.vminI64 o) o pickMin
def execVminI32 (o : V3) (s : State) : Out := vector3 s (.vminI32 o) o (low32 pickMin)
def execVminP16 (o : V3) (s : State) : Out := vector3 s (.vminP16 o) o (zipLane 16 pickMin)
def execVminN32 (o : V3) (s : State) : Out := vector3 s (.vminN32 o) o natMin
def execVmaxI64 (o : V3) (s : State) : Out := vector3 s (.vmaxI64 o) o pickMax
def execVmaxI32 (o : V3) (s : State) : Out := vector3 s (.vmaxI32 o) o (low32 pickMax)
def execVmaxP16 (o : V3) (s : State) : Out := vector3 s (.vmaxP16 o) o (zipLane 16 pickMax)
def execVmaxN32 (o : V3) (s : State) : Out := vector3 s (.vmaxN32 o) o natMax
def execVaddsP16 (o : V3) (s : State) : Out := vector3 s (.vaddsP16 o) o (zipLane 16 (addSatS 16))
def execVaddsP16n (o : V3) (s : State) : Out := vector3 s (.vaddsP16n o) o (zipLane 16 (addSatN 16))
def execVaddsP8 (o : V3) (s : State) : Out := vector3 s (.vaddsP8 o) o (zipLane 8 (addSatS 8))
def execVaddsP8n (o : V3) (s : State) : Out := vector3 s (.vaddsP8n o) o (zipLane 8 (addSatN 8))
def execVand (o : V3) (s : State) : Out := vector3 s (.vand o) o fun x y => x &&& y
def execVor (o : V3) (s : State) : Out := vector3 s (.vor o) o fun x y => x ||| y
def execVxor (o : V3) (s : State) : Out := vector3 s (.vxor o) o fun x y => x ^^^ y
def execVandn (o : V3) (s : State) : Out := vector3 s (.vandn o) o fun x y => x &&& ~~~y
def execVshl (o : V3) (s : State) : Out := vector3 s (.vshl o) o shl
def execVshr (o : V3) (s : State) : Out := vector3 s (.vshr o) o shr
def execVsha (o : V3) (s : State) : Out := vector3 s (.vsha o) o sha
def execVrot (o : V3) (s : State) : Out := vector3 s (.vrot o) o rot

/-! Compares (R157, R158). -/

def low (x : BitVec 64) : BitVec 32 := x.truncate 32

def execVcmpEqI64 (o : P3) (s : State) : Out := compare s (.vcmpEqI64 o) o fun x y => x == y
def execVcmpLtI64 (o : P3) (s : State) : Out := compare s (.vcmpLtI64 o) o fun x y => x.slt y
def execVcmpLtnI64 (o : P3) (s : State) : Out := compare s (.vcmpLtnI64 o) o fun x y => x.ult y
def execVcmpLeI64 (o : P3) (s : State) : Out := compare s (.vcmpLeI64 o) o fun x y => x.sle y
def execVcmpEqI32 (o : P3) (s : State) : Out := compare s (.vcmpEqI32 o) o fun x y => low x == low y
def execVcmpLtI32 (o : P3) (s : State) : Out := compare s (.vcmpLtI32 o) o fun x y => (low x).slt (low y)
def execVcmpmGtP16 (o : V3) (s : State) : Out := vector3 s (.vcmpmGtP16 o) o (zipLane 16 (elemMask fun x y => y.slt x))
def execVcmpmEqP16 (o : V3) (s : State) : Out := vector3 s (.vcmpmEqP16 o) o (zipLane 16 (elemMask fun x y => x == y))

/-! Selection, packing, moves (R159 to R165, R170). -/

/-- `VSEL` (R159): q selects; every lane of M is written. -/
def execVsel (o : V3) (s : State) : Out :=
  issue s (.vsel o) <| withOperands s { bounds := [o.d, o.a, o.b], preds := [o.q], act := s.g.M, dstV := [o.d]
                                        srcs := [.v o.a o.ea, .v o.b o.eb] } <|
    putLanes s o.d ((lanesOf s.g s.g.M).map fun n => (n, if (readQ s.g o.q).getLsbD n then readV s.g o.a n else readV s.g o.b n))

/-- `VBSL` (R160). -/
def execVbsl (o : V3) (s : State) : Out := vectorFull s (.vbsl o) o true fun x y d => (d &&& x) ||| (~~~d &&& y)

/-- `VPACKM.p16` (R161). -/
def execVpackmP16 (o : V2) (s : State) : Out :=
  let act := activeMask s.g o.q
  issue s (.vpackmP16 o) <| withOperands s { bounds := [o.d, o.a], preds := [o.q], act := act, dstV := [o.d]
                                             srcs := [.v o.a o.ea, .v o.d false] } <|
    putLanes s o.d ((lanesOf s.g act).map fun n => (n, packSigns (readV s.g o.a n) (readV s.g o.d n)))

/-- `VPOPC` (R170): each active lane receives the number of selected active lanes below it. -/
def execVpopc (o : PA) (s : State) : Out :=
  let act := activeMask s.g o.q
  issue s (.vpopc o) <| withOperands s { bounds := [o.d], preds := [o.q, o.a], act := act, dstV := [o.d] } <|
    let ls := lanesOf s.g act
    putLanes s o.d (ls.map fun n => (n, BitVec.ofNat 64 (ls.filter fun m => decide (m < n) && (readQ s.g o.a).getLsbD m).length))

/-- `VMOV` (R162). -/
def execVmov (o : V2) (s : State) : Out := vector2 s (.vmov o) o fun x => x

/-- `VBCAST` (R163): a is a scalar. -/
def execVbcast (o : V2) (s : State) : Out :=
  let act := activeMask s.g o.q
  issue s (.vbcast o) <| withOperands s { bounds := [o.d], preds := [o.q], act := act, dstV := [o.d], srcs := [.k o.a o.ea] } <|
    putLanes s o.d ((lanesOf s.g act).map fun n => (n, readK s.g o.a))

/-- `VEXT` (R164): one lane into a scalar, whatever the mask. -/
def execVext (o : S3) (s : State) : Out :=
  issue s (.vext o) <| withOperands s { bounds := [o.a], act := s.g.M, dstK := [o.d], srcs := [.all o.a o.ea, .k o.b o.eb] } <|
    let n := (readK s.g o.b).toNat
    finish s (writeK s.g o.d (if n < laneCount s.g then readV s.g o.a n else 0))

/-- `VINS` (R165): a scalar into one active lane. -/
def execVins (o : V3) (s : State) : Out :=
  let act := activeMask s.g o.q
  issue s (.vins o) <| withOperands s { bounds := [o.d], preds := [o.q], act := act, dstV := [o.d], srcs := [.k o.a o.ea, .k o.b o.eb] } <|
    let n := (readK s.g o.b).toNat
    putLanes s o.d (if n < laneCount s.g ∧ act.getLsbD n then [(n, readK s.g o.a)] else [])

/-! Lane exchange (R166 to R169). -/

/-- Two cross-lane vector sources. -/
def crossVV (s : State) (i : Instr) (o : V3) (f : Nat → BitVec 64) : Out :=
  let act := activeMask s.g o.q
  issue s i <| withOperands s { bounds := [o.d, o.a, o.b], preds := [o.q], act := act, dstV := [o.d]
                                srcs := [.all o.a o.ea, .all o.b o.eb] } <|
    putLanes s o.d ((lanesOf s.g act).map fun n => (n, f n))

/-- A cross-lane vector source and a scalar; `f` names the lanes written and their values. -/
def crossVK (s : State) (i : Instr) (o : V3) (f : Nat → Option (BitVec 64)) : Out :=
  let act := activeMask s.g o.q
  issue s i <| withOperands s { bounds := [o.d, o.a], preds := [o.q], act := act, dstV := [o.d], srcs := [.all o.a o.ea, .k o.b o.eb] } <|
    putLanes s o.d ((lanesOf s.g act).filterMap fun n => (f n).map fun x => (n, x))

/-- `VSHFL` (R166). -/
def execVshfl (o : V3) (s : State) : Out :=
  crossVV s (.vshfl o) o fun n => readV s.g o.a (32 * (n / 32) + (readV s.g o.b n).toNat % 32)

/-- `VSHUP` (R167). -/
def execVshup (o : V3) (s : State) : Out :=
  crossVK s (.vshup o) o fun n =>
    let k := (readK s.g o.b).toNat
    if k ≤ n then some (readV s.g o.a (n - k)) else none

/-- `VLANE` (R168). -/
def execVlane (o : V3) (s : State) : Out :=
  crossVV s (.vlane o) o fun n =>
    let j := (readV s.g o.b n).toNat
    if j < laneCount s.g then readV s.g o.a j else 0

/-- `VSWZ.p16` (R169). -/
def execVswzP16 (o : V3) (s : State) : Out :=
  crossVK s (.vswzP16 o) o fun n =>
    some (packLane 16 4 fun j => elemOf 16 (readV s.g o.a n) ((readK s.g o.b).toNat / 4 ^ j % 4))

/-! Reductions, scans, counts (R171 to R175, R87). -/

/-- The tree of R87 over lanes lo to lo + 2^h − 1. -/
def tree {α : Type} (leaf : Nat → Option α) (f : α → α → α) : Nat → Nat → Option α
  | 0, lo => leaf lo
  | h + 1, lo => match tree leaf f h lo, tree leaf f h (lo + 2 ^ h) with
    | none, y => y
    | x, none => x
    | some x, some y => some (f x y)

/-- log2 of 32 × rows, rounded up to a power of two. -/
def treeHeight (g : Group) : Nat := if g.rows ≤ 1 then 5 else if g.rows ≤ 2 then 6 else if g.rows ≤ 4 then 7 else if g.rows ≤ 8 then 8 else 9

/-- A reduction into a scalar: the value and the flags that the group's active lanes give. -/
def reduce (s : State) (i : Instr) (o : V2) (f : Mask → BitVec 64 × Flags) : Out :=
  let act := activeMask s.g o.q
  issue s i <| withOperands s { bounds := [o.a], preds := [o.q], act := act, dstK := [o.d], srcs := [.all o.a o.ea] } <|
    let r := f act
    finish s (raise (writeK s.g o.d r.1) r.2)

/-- An active lane's value as a leaf of the tree. -/
def leafOf (g : Group) (a : Fin 64) (act : Mask) (n : Nat) : Option (BitVec 64) :=
  if n < laneCount g ∧ act.getLsbD n then some (readV g a n) else none

/-- The tree over the active lanes, with the result of none. -/
def reduceLanes (g : Group) (a : Fin 64) (act : Mask) (f : BitVec 64 → BitVec 64 → BitVec 64) (z : BitVec 64) : BitVec 64 × Flags :=
  ((tree (leafOf g a act) f (treeHeight g) 0).getD z, 0)

def execVrsumI64 (o : V2) (s : State) : Out := reduce s (.vrsumI64 o) o fun act => reduceLanes s.g o.a act (fun x y => x + y) 0
def execVrminI64 (o : V2) (s : State) : Out := reduce s (.vrminI64 o) o fun act => reduceLanes s.g o.a act pickMin 0x7FFFFFFFFFFFFFFF
def execVrmaxI64 (o : V2) (s : State) : Out := reduce s (.vrmaxI64 o) o fun act => reduceLanes s.g o.a act pickMax 0x8000000000000000

/-- The lane of the largest binary32, the lowest of equals (R172). -/
def argMax (xs : List (Nat × FVal)) : Option (Nat × FVal) :=
  xs.foldl (fun acc x => match acc with
    | none => some x
    | some y => if compareReal y.2 x.2 < 0 then some x else some y) none

def execVargmaxF (o : V2) (s : State) : Out :=
  reduce s (.vargmaxF o) o fun act =>
    let xs := (lanesOf s.g act).map fun n => (n, unpack fmtF ((readV s.g o.a n).toNat % 2 ^ 32))
    (match argMax (xs.filter fun x => !isNan x.2) with
     | none => BitVec.allOnes 64
     | some x => BitVec.ofNat 64 x.1, 0)

/-- Inclusive prefix sums (R173). -/
def prefixes : BitVec 32 → List (Nat × BitVec 32) → List (Nat × BitVec 64)
  | _, [] => []
  | acc, (n, x) :: r => (n, (acc + x).signExtend 64) :: prefixes (acc + x) r

def execVscanI32 (o : V2) (s : State) : Out :=
  let act := activeMask s.g o.q
  issue s (.vscanI32 o) <| withOperands s { bounds := [o.d, o.a], preds := [o.q], act := act, dstV := [o.d], srcs := [.all o.a o.ea] } <|
    putLanes s o.d (prefixes 0 ((lanesOf s.g act).map fun n => (n, low (readV s.g o.a n))))

/-- The sum tree of a binary format (R174): any NaN lane gives the canonical NaN, and any signalling one raises NV. -/
def sumTree (g : Group) (f : FloatFmt) (a : Fin 64) (act : Mask) : BitVec 64 × Flags :=
  let raw (n : Nat) : Nat := (readV g a n).toNat % 2 ^ fmtWidth f
  let add (x y : Nat × Flags) : Nat × Flags :=
    let r := addReal f (modeOf g) (unpack f x.1) (unpack f y.1)
    (r.1, r.2 ||| x.2 ||| y.2)
  let leaf (n : Nat) : Option (Nat × Flags) :=
    (leafOf g a act n).map fun _ =>
      let x := unpack f (raw n)
      if isNan x then (nanBits f, sigFlag [x]) else (raw n, 0)
  let r := (tree leaf add (treeHeight g) 0).getD (0, 0)
  (BitVec.ofNat 64 r.1, r.2)

def execVrsumD (o : V2) (s : State) : Out := reduce s (.vrsumD o) o fun act => sumTree s.g fmtD o.a act
def execVrsumF (o : V2) (s : State) : Out := reduce s (.vrsumF o) o fun act => sumTree s.g fmtF o.a act

/-- `VCOUNT` (R175). -/
def execVcount (o : PA) (s : State) : Out :=
  let act := activeMask s.g o.q
  issue s (.vcount o) <| withOperands s { preds := [o.q, o.a], act := act, dstK := [o.d] } <|
    finish s (writeK s.g o.d (BitVec.ofNat 64 (lanesOf s.g (act &&& readQ s.g o.a)).length))

end Sys2Proof.Machine
end

