-- ==== Sys2Proof/Machine/VecFloat.lean ====
section
/-! DEFINITION. Floating-point vector instructions, conversions, approximations and the generator (majors 0x30 to 0x3B, R176 to
R184). -/
namespace Sys2Proof.Machine

/-- The elements of a lane in a format: one for binary64 and binary32, four for the 16-bit formats (R71). -/
def lanesPer (f : FloatFmt) : Nat := if fmtWidth f = 16 then 4 else 1

/-- Element e of a lane as raw bits (R71). -/
def rawElem (f : FloatFmt) (x : BitVec 64) (e : Nat) : Nat := x.toNat / 2 ^ (16 * e) % 2 ^ fmtWidth f

/-- A lane from elementwise results, with their flags; bits above are zero. -/
def mapElems (f : FloatFmt) (k : Nat → Nat × Flags) : BitVec 64 × Flags :=
  let r := (List.range (lanesPer f)).foldl (fun (acc : Nat × Flags) e =>
    let y := k e
    (acc.1 + y.1 * 2 ^ (16 * e), acc.2 ||| y.2)) (0, 0)
  (BitVec.ofNat 64 r.1, r.2)

/-- Exception flags by lane are staged in the window of the thread, when one is open (Table 04.5). -/
def stageFlags (s : State) (l : List (Nat × Flags)) : State :=
  { s with windows := mapIf (fun w => w.saved.tid == s.g.tid) (fun w => { w with staged := w.staged ++ l }) s.windows }

/-- Write lanes with flags and go on. -/
def putFloats (s : State) (d : Fin 64) (xs : List (Nat × BitVec 64 × Flags)) : Out :=
  finish (stageFlags s (xs.map fun x => (x.1, x.2.2))) (raise (writeLanes s.g (physReg s.g d) (xs.map fun x => (x.1, x.2.1))) (xs.foldl (fun acc x => acc ||| x.2.2) 0))

/-- Two or three sources, elementwise in a format: `k` takes mode, elements of a, b and d. -/
def float3 (s : State) (i : Instr) (o : V3) (f : FloatFmt) (readsD : Bool) (k : Nat → Nat → Nat → Nat → Nat × Flags) : Out :=
  let act := activeMask s.g o.q
  issue s i <| withOperands s { bounds := [o.d, o.a, o.b], preds := [o.q], act := act, dstV := [o.d]
                                srcs := [.v o.a o.ea, .v o.b o.eb] ++ (if readsD then [.v o.d false] else []) } <|
    putFloats s o.d ((lanesOf s.g act).map fun n =>
      (n, mapElems f fun e => k (modeOf s.g) (rawElem f (readV s.g o.a n) e) (rawElem f (readV s.g o.b n) e) (rawElem f (readV s.g o.d n) e)))

/-- One source, lane by lane, with the mode. -/
def float2 (s : State) (i : Instr) (o : V2) (k : Nat → Nat → Nat × Flags) : Out :=
  let act := activeMask s.g o.q
  issue s i <| withOperands s { bounds := [o.d, o.a], preds := [o.q], act := act, dstV := [o.d], srcs := [.v o.a o.ea] } <|
    putFloats s o.d ((lanesOf s.g act).map fun n =>
      let r := k (modeOf s.g) (readV s.g o.a n).toNat
      (n, BitVec.ofNat 64 r.1, r.2))

/-! Elements (R176). -/

def addElem (f : FloatFmt) (mode a b _d : Nat) : Nat × Flags := addReal f mode (unpack f a) (unpack f b)
def subElem (f : FloatFmt) (mode a b _d : Nat) : Nat × Flags := addReal f mode (unpack f a) (negate (unpack f b))
def mulElem (f : FloatFmt) (mode a b _d : Nat) : Nat × Flags := mulReal f mode (unpack f a) (unpack f b)
def fmaElem (f : FloatFmt) (mode a b d : Nat) : Nat × Flags := fmaReal f mode (unpack f a) (unpack f b) (unpack f d)

def execVfaddD (o : V3) (s : State) : Out := float3 s (.vfaddD o) o fmtD false (addElem fmtD)
def execVfaddF (o : V3) (s : State) : Out := float3 s (.vfaddF o) o fmtF false (addElem fmtF)
def execVfaddH4 (o : V3) (s : State) : Out := float3 s (.vfaddH4 o) o fmtH false (addElem fmtH)
def execVfaddB4 (o : V3) (s : State) : Out := float3 s (.vfaddB4 o) o fmtB false (addElem fmtB)
def execVfsubD (o : V3) (s : State) : Out := float3 s (.vfsubD o) o fmtD false (subElem fmtD)
def execVfsubF (o : V3) (s : State) : Out := float3 s (.vfsubF o) o fmtF false (subElem fmtF)
def execVfsubH4 (o : V3) (s : State) : Out := float3 s (.vfsubH4 o) o fmtH false (subElem fmtH)
def execVfsubB4 (o : V3) (s : State) : Out := float3 s (.vfsubB4 o) o fmtB false (subElem fmtB)
def execVfmulD (o : V3) (s : State) : Out := float3 s (.vfmulD o) o fmtD false (mulElem fmtD)
def execVfmulF (o : V3) (s : State) : Out := float3 s (.vfmulF o) o fmtF false (mulElem fmtF)
def execVfmulH4 (o : V3) (s : State) : Out := float3 s (.vfmulH4 o) o fmtH false (mulElem fmtH)
def execVfmulB4 (o : V3) (s : State) : Out := float3 s (.vfmulB4 o) o fmtB false (mulElem fmtB)
def execVfmaD (o : V3) (s : State) : Out := float3 s (.vfmaD o) o fmtD true (fmaElem fmtD)
def execVfmaF (o : V3) (s : State) : Out := float3 s (.vfmaF o) o fmtF true (fmaElem fmtF)
def execVfmaH4 (o : V3) (s : State) : Out := float3 s (.vfmaH4 o) o fmtH true (fmaElem fmtH)
def execVfmaB4 (o : V3) (s : State) : Out := float3 s (.vfmaB4 o) o fmtB true (fmaElem fmtB)

/-! Minimum, maximum, division, root (R177, R178). -/

def execVfminD (o : V3) (s : State) : Out := float3 s (.vfminD o) o fmtD false fun _ a b _ => minMaxBits fmtD false a b
def execVfmaxD (o : V3) (s : State) : Out := float3 s (.vfmaxD o) o fmtD false fun _ a b _ => minMaxBits fmtD true a b
def execVfminF (o : V3) (s : State) : Out := float3 s (.vfminF o) o fmtF false fun _ a b _ => minMaxBits fmtF false a b
def execVfmaxF (o : V3) (s : State) : Out := float3 s (.vfmaxF o) o fmtF false fun _ a b _ => minMaxBits fmtF true a b
def execVfdivD (o : V3) (s : State) : Out := float3 s (.vfdivD o) o fmtD false fun m a b _ => divReal fmtD m (unpack fmtD a) (unpack fmtD b)
def execVfdivF (o : V3) (s : State) : Out := float3 s (.vfdivF o) o fmtF false fun m a b _ => divReal fmtF m (unpack fmtF a) (unpack fmtF b)

/-- A binary32 operand of a lane. -/
def asF (x : Nat) : FVal := unpack fmtF (x % 2 ^ 32)

def execVfsqrtD (o : V2) (s : State) : Out := float2 s (.vfsqrtD o) o fun m x => sqrtReal fmtD m (unpack fmtD x)
def execVfsqrtF (o : V2) (s : State) : Out := float2 s (.vfsqrtF o) o fun m x => sqrtReal fmtF m (asF x)

/-! Compares (R179). -/

/-- A floating-point compare: condition 0 EQ, 1 LT, 2 LE, 3 UN. -/
def fcompare (s : State) (i : Instr) (o : P3) (f : FloatFmt) (cond : Nat) : Out :=
  let act := activeMask s.g o.q
  issue s i <| withOperands s { bounds := [o.a, o.b], preds := [o.q], late := [o.d], act := act, srcs := [.v o.a o.ea, .v o.b o.eb] } <|
    let rs := (lanesOf s.g act).map fun n => (n, fcmpBits f cond (rawElem f (readV s.g o.a n) 0) (rawElem f (readV s.g o.b n) 0))
    let t := { stageFlags s (rs.map fun r => (r.1, r.2.2)) with g := raise s.g (rs.foldl (fun acc r => acc ||| r.2.2) 0) }
    putPred t o.d act (maskOf ((rs.filter fun r => r.2.1).map fun r => r.1))

def execVfcmpEqD (o : P3) (s : State) : Out := fcompare s (.vfcmpEqD o) o fmtD 0
def execVfcmpLtD (o : P3) (s : State) : Out := fcompare s (.vfcmpLtD o) o fmtD 1
def execVfcmpLeD (o : P3) (s : State) : Out := fcompare s (.vfcmpLeD o) o fmtD 2
def execVfcmpUnD (o : P3) (s : State) : Out := fcompare s (.vfcmpUnD o) o fmtD 3
def execVfcmpEqF (o : P3) (s : State) : Out := fcompare s (.vfcmpEqF o) o fmtF 0
def execVfcmpLtF (o : P3) (s : State) : Out := fcompare s (.vfcmpLtF o) o fmtF 1
def execVfcmpLeF (o : P3) (s : State) : Out := fcompare s (.vfcmpLeF o) o fmtF 2
def execVfcmpUnF (o : P3) (s : State) : Out := fcompare s (.vfcmpUnF o) o fmtF 3

/-! Conversion (R180, R84, R107, R108). -/

/-- The rounding of a `VCVT`: f 0 takes the mode of `fmt`, 1 to 3 name one (R107). -/
def convMode (g : Group) (r : Fin 4) : Nat := if r = 0 then modeOf g else if r = 1 then 0 else if r = 2 then 1 else 4

def execVcvt (o : VC) (s : State) : Out :=
  let act := activeMask s.g o.q
  issue s (.vcvt o) <| withOperands s { bounds := [o.d, o.a], preds := [o.q], act := act, dstV := [o.d], srcs := [.v o.a o.ea] } <|
    putFloats s o.d ((lanesOf s.g act).map fun n =>
      let r := convLane o.c.val (convMode s.g o.r) (readV s.g o.a n).toNat
      (n, BitVec.ofNat 64 r.1, r.2))

/-! Integral rounding, classes, approximations (R181 to R183). -/

def execVfrintD (o : V2) (s : State) : Out := float2 s (.vfrintD o) o fun m x => rintReal fmtD m (unpack fmtD x)
def execVfrintF (o : V2) (s : State) : Out := float2 s (.vfrintF o) o fun m x => rintReal fmtF m (asF x)
def execVfclassD (o : V2) (s : State) : Out := float2 s (.vfclassD o) o fun _ x => (classOf fmtD x, 0)
def execVfclassF (o : V2) (s : State) : Out := float2 s (.vfclassF o) o fun _ x => (classOf fmtF (x % 2 ^ 32), 0)
def execVrcpF (o : V2) (s : State) : Out := float2 s (.vrcpF o) o fun _ x => rcpF12 (asF x)
def execVrsqF (o : V2) (s : State) : Out := float2 s (.vrsqF o) o fun _ x => rsqF12 (asF x)
def execVexp2F (o : V2) (s : State) : Out := float2 s (.vexp2F o) o fun _ x => exp2F12 (asF x)
def execVlog2F (o : V2) (s : State) : Out := float2 s (.vlog2F o) o fun _ x => log2F12 (asF x)

/-! The generator (R184). -/

/-- Rounds r and up, `n` of them. -/
def rngRounds : Nat → Nat → BitVec 64 → BitVec 64 → BitVec 64
  | 0, _, _, x => x
  | n + 1, r, key, x =>
    let x := x + (key ^^^ (BitVec.ofNat 64 (r + 1) * 0x8F3A61D4C25BE917))
    let x := x ^^^ (x >>> 29)
    let x := x * 0xA3C59E1B6D274F8B
    let x := x ^^^ (x >>> 32)
    rngRounds n (r + 1) (key.rotateLeft 19) x

/-- `VRNG`. -/
def execVrng (o : V3) (s : State) : Out := vector3 s (.vrng o) o (rngRounds 6 0)

end Sys2Proof.Machine
end

