-- ==== Sys2Proof/Machine/Dispatch.lean ====
section
/-! DEFINITION. The dispatch: one arm per constructor of Instr, each a direct call of its meaning. -/
namespace Sys2Proof.Machine

def exec (i : Instr) (s : State) : Host.Outcome State Fault Refusal :=
  match i with
  | .add o => Sys2Proof.Machine.execAdd o s
  | .sub o => Sys2Proof.Machine.execSub o s
  | .mul o => Sys2Proof.Machine.execMul o s
  | .mulh o => Sys2Proof.Machine.execMulh o s
  | .div o => Sys2Proof.Machine.execDiv o s
  | .divn o => Sys2Proof.Machine.execDivn o s
  | .rem o => Sys2Proof.Machine.execRem o s
  | .remn o => Sys2Proof.Machine.execRemn o s
  | .and o => Sys2Proof.Machine.execAnd o s
  | .or o => Sys2Proof.Machine.execOr o s
  | .xor o => Sys2Proof.Machine.execXor o s
  | .andn o => Sys2Proof.Machine.execAndn o s
  | .shl o => Sys2Proof.Machine.execShl o s
  | .shr o => Sys2Proof.Machine.execShr o s
  | .sha o => Sys2Proof.Machine.execSha o s
  | .rot o => Sys2Proof.Machine.execRot o s
  | .min o => Sys2Proof.Machine.execMin o s
  | .max o => Sys2Proof.Machine.execMax o s
  | .minn o => Sys2Proof.Machine.execMinn o s
  | .maxn o => Sys2Proof.Machine.execMaxn o s
  | .seq o => Sys2Proof.Machine.execSeq o s
  | .slt o => Sys2Proof.Machine.execSlt o s
  | .sltn o => Sys2Proof.Machine.execSltn o s
  | .sne o => Sys2Proof.Machine.execSne o s
  | .popc o => Sys2Proof.Machine.execPopc o s
  | .clz o => Sys2Proof.Machine.execClz o s
  | .ctz o => Sys2Proof.Machine.execCtz o s
  | .brev o => Sys2Proof.Machine.execBrev o s
  | .bfx o => Sys2Proof.Machine.execBfx o s
  | .bfi o => Sys2Proof.Machine.execBfi o s
  | .mov o => Sys2Proof.Machine.execMov o s
  | .addi o => Sys2Proof.Machine.execAddi o s
  | .andi o => Sys2Proof.Machine.execAndi o s
  | .ori o => Sys2Proof.Machine.execOri o s
  | .xori o => Sys2Proof.Machine.execXori o s
  | .shli o => Sys2Proof.Machine.execShli o s
  | .shri o => Sys2Proof.Machine.execShri o s
  | .shai o => Sys2Proof.Machine.execShai o s
  | .roti o => Sys2Proof.Machine.execRoti o s
  | .li d imm => Sys2Proof.Machine.execLi d imm s
  | .lih o => Sys2Proof.Machine.execLih o s
  | .jmp disp => Sys2Proof.Machine.execJmp disp s
  | .call c disp => Sys2Proof.Machine.execCall c disp s
  | .bz c disp => Sys2Proof.Machine.execBz c disp s
  | .bnz c disp => Sys2Proof.Machine.execBnz c disp s
  | .brV p disp => Sys2Proof.Machine.execBrV p disp s
  | .brVn p disp => Sys2Proof.Machine.execBrVn p disp s
  | .brU p disp => Sys2Proof.Machine.execBrU p disp s
  | .brUn p disp => Sys2Proof.Machine.execBrUn p disp s
  | .brk n p disp => Sys2Proof.Machine.execBrk n p disp s
  | .jr d a => Sys2Proof.Machine.execJr d a s
  | .setfmt d a => Sys2Proof.Machine.execSetfmt d a s
  | .win d a n => Sys2Proof.Machine.execWin d a n s
  | .get d num => Sys2Proof.Machine.execGet d num s
  | .set num a => Sys2Proof.Machine.execSet num a s
  | .trap a n => Sys2Proof.Machine.execTrap a n s
  | .rett d a => Sys2Proof.Machine.execRett d a s
  | .csrr d a => Sys2Proof.Machine.execCsrr d a s
  | .csrw a b => Sys2Proof.Machine.execCsrw a b s
  | .tlbinv mode a b => Sys2Proof.Machine.execTlbinv mode a b s
  | .halt d a => Sys2Proof.Machine.execHalt d a s
  | .barB n => Sys2Proof.Machine.execBarB n s
  | .baraB n => Sys2Proof.Machine.execBaraB n s
  | .barwB n => Sys2Proof.Machine.execBarwB n s
  | .barG n => Sys2Proof.Machine.execBarG n s
  | .baraG n => Sys2Proof.Machine.execBaraG n s
  | .barwG n => Sys2Proof.Machine.execBarwG n s
  | .fenceFlag a b => Sys2Proof.Machine.execFenceFlag a b s
  | .flushr a => Sys2Proof.Machine.execFlushr a s
  | .vaddI64 o => Sys2Proof.Machine.execVaddI64 o s
  | .vaddI32 o => Sys2Proof.Machine.execVaddI32 o s
  | .vaddP16 o => Sys2Proof.Machine.execVaddP16 o s
  | .vaddP8 o => Sys2Proof.Machine.execVaddP8 o s
  | .vsubI64 o => Sys2Proof.Machine.execVsubI64 o s
  | .vsubI32 o => Sys2Proof.Machine.execVsubI32 o s
  | .vsubP16 o => Sys2Proof.Machine.execVsubP16 o s
  | .vsubP8 o => Sys2Proof.Machine.execVsubP8 o s
  | .vmulI64 o => Sys2Proof.Machine.execVmulI64 o s
  | .vmulI32 o => Sys2Proof.Machine.execVmulI32 o s
  | .vmulP16 o => Sys2Proof.Machine.execVmulP16 o s
  | .vmulhI64 o => Sys2Proof.Machine.execVmulhI64 o s
  | .vminI64 o => Sys2Proof.Machine.execVminI64 o s
  | .vminI32 o => Sys2Proof.Machine.execVminI32 o s
  | .vminP16 o => Sys2Proof.Machine.execVminP16 o s
  | .vminN32 o => Sys2Proof.Machine.execVminN32 o s
  | .vmaxI64 o => Sys2Proof.Machine.execVmaxI64 o s
  | .vmaxI32 o => Sys2Proof.Machine.execVmaxI32 o s
  | .vmaxP16 o => Sys2Proof.Machine.execVmaxP16 o s
  | .vmaxN32 o => Sys2Proof.Machine.execVmaxN32 o s
  | .vaddsP16 o => Sys2Proof.Machine.execVaddsP16 o s
  | .vaddsP16n o => Sys2Proof.Machine.execVaddsP16n o s
  | .vaddsP8 o => Sys2Proof.Machine.execVaddsP8 o s
  | .vaddsP8n o => Sys2Proof.Machine.execVaddsP8n o s
  | .vand o => Sys2Proof.Machine.execVand o s
  | .vor o => Sys2Proof.Machine.execVor o s
  | .vxor o => Sys2Proof.Machine.execVxor o s
  | .vandn o => Sys2Proof.Machine.execVandn o s
  | .vshl o => Sys2Proof.Machine.execVshl o s
  | .vshr o => Sys2Proof.Machine.execVshr o s
  | .vsha o => Sys2Proof.Machine.execVsha o s
  | .vrot o => Sys2Proof.Machine.execVrot o s
  | .vcmpEqI64 o => Sys2Proof.Machine.execVcmpEqI64 o s
  | .vcmpLtI64 o => Sys2Proof.Machine.execVcmpLtI64 o s
  | .vcmpLtnI64 o => Sys2Proof.Machine.execVcmpLtnI64 o s
  | .vcmpLeI64 o => Sys2Proof.Machine.execVcmpLeI64 o s
  | .vcmpEqI32 o => Sys2Proof.Machine.execVcmpEqI32 o s
  | .vcmpLtI32 o => Sys2Proof.Machine.execVcmpLtI32 o s
  | .vcmpmGtP16 o => Sys2Proof.Machine.execVcmpmGtP16 o s
  | .vcmpmEqP16 o => Sys2Proof.Machine.execVcmpmEqP16 o s
  | .vsel o => Sys2Proof.Machine.execVsel o s
  | .vbsl o => Sys2Proof.Machine.execVbsl o s
  | .vpackmP16 o => Sys2Proof.Machine.execVpackmP16 o s
  | .vpopc o => Sys2Proof.Machine.execVpopc o s
  | .vmov o => Sys2Proof.Machine.execVmov o s
  | .vbcast o => Sys2Proof.Machine.execVbcast o s
  | .vext o => Sys2Proof.Machine.execVext o s
  | .vins o => Sys2Proof.Machine.execVins o s
  | .vshfl o => Sys2Proof.Machine.execVshfl o s
  | .vshup o => Sys2Proof.Machine.execVshup o s
  | .vlane o => Sys2Proof.Machine.execVlane o s
  | .vswzP16 o => Sys2Proof.Machine.execVswzP16 o s
  | .vrsumI64 o => Sys2Proof.Machine.execVrsumI64 o s
  | .vrminI64 o => Sys2Proof.Machine.execVrminI64 o s
  | .vrmaxI64 o => Sys2Proof.Machine.execVrmaxI64 o s
  | .vargmaxF o => Sys2Proof.Machine.execVargmaxF o s
  | .vscanI32 o => Sys2Proof.Machine.execVscanI32 o s
  | .vrsumD o => Sys2Proof.Machine.execVrsumD o s
  | .vrsumF o => Sys2Proof.Machine.execVrsumF o s
  | .vcount o => Sys2Proof.Machine.execVcount o s
  | .vfaddD o => Sys2Proof.Machine.execVfaddD o s
  | .vfaddF o => Sys2Proof.Machine.execVfaddF o s
  | .vfaddH4 o => Sys2Proof.Machine.execVfaddH4 o s
  | .vfaddB4 o => Sys2Proof.Machine.execVfaddB4 o s
  | .vfsubD o => Sys2Proof.Machine.execVfsubD o s
  | .vfsubF o => Sys2Proof.Machine.execVfsubF o s
  | .vfsubH4 o => Sys2Proof.Machine.execVfsubH4 o s
  | .vfsubB4 o => Sys2Proof.Machine.execVfsubB4 o s
  | .vfmulD o => Sys2Proof.Machine.execVfmulD o s
  | .vfmulF o => Sys2Proof.Machine.execVfmulF o s
  | .vfmulH4 o => Sys2Proof.Machine.execVfmulH4 o s
  | .vfmulB4 o => Sys2Proof.Machine.execVfmulB4 o s
  | .vfmaD o => Sys2Proof.Machine.execVfmaD o s
  | .vfmaF o => Sys2Proof.Machine.execVfmaF o s
  | .vfmaH4 o => Sys2Proof.Machine.execVfmaH4 o s
  | .vfmaB4 o => Sys2Proof.Machine.execVfmaB4 o s
  | .vfminD o => Sys2Proof.Machine.execVfminD o s
  | .vfmaxD o => Sys2Proof.Machine.execVfmaxD o s
  | .vfminF o => Sys2Proof.Machine.execVfminF o s
  | .vfmaxF o => Sys2Proof.Machine.execVfmaxF o s
  | .vfdivD o => Sys2Proof.Machine.execVfdivD o s
  | .vfdivF o => Sys2Proof.Machine.execVfdivF o s
  | .vfsqrtD o => Sys2Proof.Machine.execVfsqrtD o s
  | .vfsqrtF o => Sys2Proof.Machine.execVfsqrtF o s
  | .vfcmpEqD o => Sys2Proof.Machine.execVfcmpEqD o s
  | .vfcmpLtD o => Sys2Proof.Machine.execVfcmpLtD o s
  | .vfcmpLeD o => Sys2Proof.Machine.execVfcmpLeD o s
  | .vfcmpUnD o => Sys2Proof.Machine.execVfcmpUnD o s
  | .vfcmpEqF o => Sys2Proof.Machine.execVfcmpEqF o s
  | .vfcmpLtF o => Sys2Proof.Machine.execVfcmpLtF o s
  | .vfcmpLeF o => Sys2Proof.Machine.execVfcmpLeF o s
  | .vfcmpUnF o => Sys2Proof.Machine.execVfcmpUnF o s
  | .vcvt o => Sys2Proof.Machine.execVcvt o s
  | .vfrintD o => Sys2Proof.Machine.execVfrintD o s
  | .vfrintF o => Sys2Proof.Machine.execVfrintF o s
  | .vfclassD o => Sys2Proof.Machine.execVfclassD o s
  | .vfclassF o => Sys2Proof.Machine.execVfclassF o s
  | .vrcpF o => Sys2Proof.Machine.execVrcpF o s
  | .vrsqF o => Sys2Proof.Machine.execVrsqF o s
  | .vexp2F o => Sys2Proof.Machine.execVexp2F o s
  | .vlog2F o => Sys2Proof.Machine.execVlog2F o s
  | .vrng o => Sys2Proof.Machine.execVrng o s
  | .vldD o => Sys2Proof.Machine.execVldD o s
  | .vldW o => Sys2Proof.Machine.execVldW o s
  | .vldH o => Sys2Proof.Machine.execVldH o s
  | .vldB o => Sys2Proof.Machine.execVldB o s
  | .vstD o => Sys2Proof.Machine.execVstD o s
  | .vstW o => Sys2Proof.Machine.execVstW o s
  | .vstH o => Sys2Proof.Machine.execVstH o s
  | .vstB o => Sys2Proof.Machine.execVstB o s
  | .sld o => Sys2Proof.Machine.execSld o s
  | .sst o => Sys2Proof.Machine.execSst o s
  | .pref o => Sys2Proof.Machine.execPref o s
  | .ldkD o => Sys2Proof.Machine.execLdkD o s
  | .ldkW o => Sys2Proof.Machine.execLdkW o s
  | .stkD o => Sys2Proof.Machine.execStkD o s
  | .stkW o => Sys2Proof.Machine.execStkW o s
  | .ldkAcq d a => Sys2Proof.Machine.execLdkAcq d a s
  | .stkRel a b => Sys2Proof.Machine.execStkRel a b s
  | .vldAcq d a b => Sys2Proof.Machine.execVldAcq d a b s
  | .vstRel d a b => Sys2Proof.Machine.execVstRel d a b s
  | .vatomAddI32 o => Sys2Proof.Machine.execVatomAddI32 o s
  | .vatomMinI32 o => Sys2Proof.Machine.execVatomMinI32 o s
  | .vatomMaxI32 o => Sys2Proof.Machine.execVatomMaxI32 o s
  | .vatomXchgI32 o => Sys2Proof.Machine.execVatomXchgI32 o s
  | .vatomAddI64 o => Sys2Proof.Machine.execVatomAddI64 o s
  | .vatomMinI64 o => Sys2Proof.Machine.execVatomMinI64 o s
  | .vatomMaxI64 o => Sys2Proof.Machine.execVatomMaxI64 o s
  | .vatomXchgI64 o => Sys2Proof.Machine.execVatomXchgI64 o s
  | .vatomAddF o => Sys2Proof.Machine.execVatomAddF o s
  | .vatomAddD o => Sys2Proof.Machine.execVatomAddD o s
  | .vatomAndI64 o => Sys2Proof.Machine.execVatomAndI64 o s
  | .vatomOrI64 o => Sys2Proof.Machine.execVatomOrI64 o s
  | .vcasI32 o => Sys2Proof.Machine.execVcasI32 o s
  | .vcasI64 o => Sys2Proof.Machine.execVcasI64 o s
  | .atomkAdd d a b => Sys2Proof.Machine.execAtomkAdd d a b s
  | .atomkXchg d a b => Sys2Proof.Machine.execAtomkXchg d a b s
  | .cask d a b => Sys2Proof.Machine.execCask d a b s
  | .atomkFadd d a b => Sys2Proof.Machine.execAtomkFadd d a b s
  | .lock a => Sys2Proof.Machine.execLock a s
  | .unlock a => Sys2Proof.Machine.execUnlock a s
  | .waitm d a b => Sys2Proof.Machine.execWaitm d a b s
  | .xpect a b => Sys2Proof.Machine.execXpect a b s
  | .waitc a b => Sys2Proof.Machine.execWaitc a b s
  | .arst a => Sys2Proof.Machine.execArst a s
  | .cpyT d a b => Sys2Proof.Machine.execCpyT d a b s
  | .cpyTs d a b => Sys2Proof.Machine.execCpyTs d a b s
  | .cpyRed d a => Sys2Proof.Machine.execCpyRed d a s
  | .cpyRem d a => Sys2Proof.Machine.execCpyRem d a s
  | .cpyL o => Sys2Proof.Machine.execCpyL o s
  | .qntEnc d a => Sys2Proof.Machine.execQntEnc d a s
  | .qntDec d a => Sys2Proof.Machine.execQntDec d a s
  | .gath d a => Sys2Proof.Machine.execGath d a s
  | .gcsr d a b => Sys2Proof.Machine.execGcsr d a b s
  | .mlda n a => Sys2Proof.Machine.execMlda n a s
  | .mldb n a => Sys2Proof.Machine.execMldb n a s
  | .mma d a b => Sys2Proof.Machine.execMma d a b s
  | .mmaC d a b => Sys2Proof.Machine.execMmaC d a b s
  | .mmaS d a => Sys2Proof.Machine.execMmaS d a s
  | .mzero d => Sys2Proof.Machine.execMzero d s
  | .mst d a b => Sys2Proof.Machine.execMst d a b s
  | .mwait a n => Sys2Proof.Machine.execMwait a n s
  | .mprog d n => Sys2Proof.Machine.execMprog d n s
  | .bid a c => Sys2Proof.Machine.execBid a c s
  | .bidr d c => Sys2Proof.Machine.execBidr d c s
  | .price d c => Sys2Proof.Machine.execPrice d c s
  | .lease d c => Sys2Proof.Machine.execLease d c s
  | .peerp d a c => Sys2Proof.Machine.execPeerp d a c s
  | .jnlX d a b => Sys2Proof.Machine.execJnlX d a b s
  | .jmark a b => Sys2Proof.Machine.execJmark a b s
  | .jtrunc a => Sys2Proof.Machine.execJtrunc a s
  | .emit d a b => Sys2Proof.Machine.execEmit d a b s
  | .jstat d a n => Sys2Proof.Machine.execJstat d a n s
  | .exit => Sys2Proof.Machine.execExit s
  | .exitV => Sys2Proof.Machine.execExitV s
  | .nop => Sys2Proof.Machine.execNop s
  | .yield => Sys2Proof.Machine.execYield s
  | .fenceAcq => Sys2Proof.Machine.execFenceAcq s
  | .fenceRel => Sys2Proof.Machine.execFenceRel s
  | .fenceAr => Sys2Proof.Machine.execFenceAr s
  | .fenceEng => Sys2Proof.Machine.execFenceEng s
  | .mfence => Sys2Proof.Machine.execMfence s
  | .hx p => Sys2Proof.Machine.execHx p s
  | .hj p => Sys2Proof.Machine.execHj p s
  | .hs c m => Sys2Proof.Machine.execHs c m s
  | .hp m => Sys2Proof.Machine.execHp m s
  | .hc m => Sys2Proof.Machine.execHc m s
  | .branchResolve tid => Sys2Proof.Machine.execBranchResolve tid s
  | .resultLands flight row => Sys2Proof.Machine.execResultLands flight row s
  | .engineRequestAccept op => Sys2Proof.Machine.execEngineRequestAccept op s
  | .landing op => Sys2Proof.Machine.execLanding op s
  | .tokenFill op => Sys2Proof.Machine.execTokenFill op s
  | .matrixCommandStart clu => Sys2Proof.Machine.execMatrixCommandStart clu s
  | .matrixCommandComplete clu cmd => Sys2Proof.Machine.execMatrixCommandComplete clu cmd s
  | .barrierMessage gang n tid => Sys2Proof.Machine.execBarrierMessage gang n tid s
  | .barrierRelease gang n tid => Sys2Proof.Machine.execBarrierRelease gang n tid s
  | .lockRequest key tid => Sys2Proof.Machine.execLockRequest key tid s
  | .unlockRequest key tid => Sys2Proof.Machine.execUnlockRequest key tid s
  | .lockGrant key tid => Sys2Proof.Machine.execLockGrant key tid s
  | .lockWithdrawal key tid => Sys2Proof.Machine.execLockWithdrawal key tid s
  | .lockReleaseNotice tid slice => Sys2Proof.Machine.execLockReleaseNotice tid slice s
  | .monitorWake tid => Sys2Proof.Machine.execMonitorWake tid s
  | .monitorRelease tid => Sys2Proof.Machine.execMonitorRelease tid s
  | .ownershipRegistration core word => Sys2Proof.Machine.execOwnershipRegistration core word s
  | .registrationAck core word => Sys2Proof.Machine.execRegistrationAck core word s
  | .revocation core word => Sys2Proof.Machine.execRevocation core word s
  | .recall core word => Sys2Proof.Machine.execRecall core word s
  | .writeBack core line => Sys2Proof.Machine.execWriteBack core line s
  | .lineFill core line => Sys2Proof.Machine.execLineFill core line s
  | .atomicAtHome flight idx => Sys2Proof.Machine.execAtomicAtHome flight idx s
  | .reductionContribution op line => Sys2Proof.Machine.execReductionContribution op line s
  | .aliasAccess flight idx => Sys2Proof.Machine.execAliasAccess flight idx s
  | .pageWalkDone ctx va => Sys2Proof.Machine.execPageWalkDone ctx va s
  | .trapRecordWrite die => Sys2Proof.Machine.execTrapRecordWrite die s
  | .contextEnd ctx cause launch => Sys2Proof.Machine.execContextEnd ctx cause launch s
  | .intervalEnd => Sys2Proof.Machine.execIntervalEnd s
  | .timeSlice => Sys2Proof.Machine.execTimeSlice s
  | .leaseChange => Sys2Proof.Machine.execLeaseChange s
  | .sidingTransfer core gang => Sys2Proof.Machine.execSidingTransfer core gang s
  | .depotSave gang => Sys2Proof.Machine.execDepotSave gang s
  | .gangResume gang => Sys2Proof.Machine.execGangResume gang s
  | .cometMigration ctx pkg => Sys2Proof.Machine.execCometMigration ctx pkg s
  | .notifyWrite queue value => Sys2Proof.Machine.execNotifyWrite queue value s
  | .headerPollTimer queue => Sys2Proof.Machine.execHeaderPollTimer queue s
  | .launchPacket queue => Sys2Proof.Machine.execLaunchPacket queue s
  | .bundlePacket queue => Sys2Proof.Machine.execBundlePacket queue s
  | .waitPacket queue => Sys2Proof.Machine.execWaitPacket queue s
  | .waitPollTimer queue => Sys2Proof.Machine.execWaitPollTimer queue s
  | .skipPacket queue => Sys2Proof.Machine.execSkipPacket queue s
  | .copyPacket op => Sys2Proof.Machine.execCopyPacket op s
  | .quantisePacket op => Sys2Proof.Machine.execQuantisePacket op s
  | .launchStart launch => Sys2Proof.Machine.execLaunchStart launch s
  | .blockDispatch launch gang => Sys2Proof.Machine.execBlockDispatch launch gang s
  | .launchRetire launch => Sys2Proof.Machine.execLaunchRetire launch s
  | .mgSemaWrite agent value => Sys2Proof.Machine.execMgSemaWrite agent value s
  | .mgPkgidWrite agent value => Sys2Proof.Machine.execMgPkgidWrite agent value s
  | .mkIntvWrite agent value => Sys2Proof.Machine.execMkIntvWrite agent value s
  | .mkFloorWrite agent num value => Sys2Proof.Machine.execMkFloorWrite agent num value s
  | .cxTenantWrite agent num value => Sys2Proof.Machine.execCxTenantWrite agent num value s
  | .jsCmdOpen agent die value => Sys2Proof.Machine.execJsCmdOpen agent die value s
  | .jsCmdClose agent die value => Sys2Proof.Machine.execJsCmdClose agent die value s
  | .qcCfgWrite agent num value => Sys2Proof.Machine.execQcCfgWrite agent num value s
  | .csrWrite agent num value => Sys2Proof.Machine.execCsrWrite agent num value s
  | .rmaWrite r => Sys2Proof.Machine.execRmaWrite r s
  | .rmaRead r => Sys2Proof.Machine.execRmaRead r s
  | .rodConnectionFailure port => Sys2Proof.Machine.execRodConnectionFailure port s
  | .emitDeliveryAck seq => Sys2Proof.Machine.execEmitDeliveryAck seq s
  | .emitDeliveryTimeout seq => Sys2Proof.Machine.execEmitDeliveryTimeout seq s
  | .journalRecordAccept seq => Sys2Proof.Machine.execJournalRecordAccept seq s
  | .partnerReassign seq pkg accepts => Sys2Proof.Machine.execPartnerReassign seq pkg accepts s
  | .nopartnerTimeout seq => Sys2Proof.Machine.execNopartnerTimeout seq s
  | .partnerSilenceTimer pkg => Sys2Proof.Machine.execPartnerSilenceTimer pkg s
  | .sourceAckTimer seq => Sys2Proof.Machine.execSourceAckTimer seq s
  | .probeTimeout pkg => Sys2Proof.Machine.execProbeTimeout pkg s
  | .liveTimer link => Sys2Proof.Machine.execLiveTimer link s
  | .linkSilenceTimeout link => Sys2Proof.Machine.execLinkSilenceTimeout link s
  | .flitCrcError link => Sys2Proof.Machine.execFlitCrcError link s
  | .linkLockLoss link => Sys2Proof.Machine.execLinkLockLoss link s
  | .linkRetrainDone link good => Sys2Proof.Machine.execLinkRetrainDone link good s
  | .planeAckTimeout pkg plane => Sys2Proof.Machine.execPlaneAckTimeout pkg plane s
  | .planeProbeTimer pkg plane => Sys2Proof.Machine.execPlaneProbeTimer pkg plane s
  | .routeReturn pkg => Sys2Proof.Machine.execRouteReturn pkg s
  | .live link => Sys2Proof.Machine.execLive link s
  | .rdreq p => Sys2Proof.Machine.execRdreq p s
  | .rdrsp p => Sys2Proof.Machine.execRdrsp p s
  | .pwr p => Sys2Proof.Machine.execPwr p s
  | .evict p => Sys2Proof.Machine.execEvict p s
  | .inv p => Sys2Proof.Machine.execInv p s
  | .atom p => Sys2Proof.Machine.execAtom p s
  | .atrsp p => Sys2Proof.Machine.execAtrsp p s
  | .flush p => Sys2Proof.Machine.execFlush p s
  | .flrsp p => Sys2Proof.Machine.execFlrsp p s
  | .mcast p => Sys2Proof.Machine.execMcast p s
  | .red p => Sys2Proof.Machine.execRed p s
  | .pricePacket p => Sys2Proof.Machine.execPricePacket p s
  | .jrec p => Sys2Proof.Machine.execJrec p s
  | .jack p => Sys2Proof.Machine.execJack p s
  | .ewr p => Sys2Proof.Machine.execEwr p s
  | .eack p => Sys2Proof.Machine.execEack p s
  | .probe p => Sys2Proof.Machine.execProbe p s
  | .prsp p => Sys2Proof.Machine.execPrsp p s
  | .powerGood => Sys2Proof.Machine.execPowerGood s
  | .bringupStageDone failed => Sys2Proof.Machine.execBringupStageDone failed s
  | .bringupStageTimeout rejected => Sys2Proof.Machine.execBringupStageTimeout rejected s
  | .illegalWord code word => Sys2Proof.Machine.execIllegalWord code word s
  | .fetchFault code va => Sys2Proof.Machine.execFetchFault code va s
  | .accessAtHome flight idx => Sys2Proof.Machine.execAccessAtHome flight idx s
  | .endToEndAcknowledgement pkg plane seq => Sys2Proof.Machine.execEndToEndAcknowledgement pkg plane seq s
  | .takeoverReportSendComplete good => Sys2Proof.Machine.execTakeoverReportSendComplete good s
  | .attestationRequest nonce => Sys2Proof.Machine.execAttestationRequest nonce s
  | .powerLoss => Sys2Proof.Machine.execPowerLoss s

end Sys2Proof.Machine
end

