-- ==== Sys2Proof/Machine/Schedule.lean ====
section
/-! DEFINITION. What a step of the current thread does before its instruction runs (R36, R56, R92, R103, R375), and the order in
which threads become current (R40, R102, R133). -/
namespace Sys2Proof.Machine

noncomputable section

/-- What the current thread comes to. -/
inductive Turn where
  | idle (s : State)              -- nothing issues
  | trap (s : State) (r : Record) -- its fetch faults
  | hint (s : State) (w : Nat)    -- a hint word that is no instruction use joins the run
  | run (s : State) (i : Instr)   -- an instruction, or a fetched word that is none, is executed
  | replay (s : State) (w : Window) (r : Mask) (e : Recorded)   -- a recorded instruction of a kept window issues again (R66)

/-- A fetched word becomes an instruction, a hint of a run, or a word that is no instruction use. A hint word on which control has landed
waits until the word before it has come from a peer (R375). -/
def turnWord (s : State) (w : Nat) : Turn :=
  match if s.g.landed && s.g.run == [] && isHint w then lineBefore s s.g else none with
  | some (p, off) => .idle (askBefore s s.g p off)
  | none =>
    if insideRun s s.g w then .run s (.illegalWord 8 w)
    else match decodeWord w with
      | .ok i => .run s i
      | .error e => if isHint w then .hint s w else .run s (.illegalWord e.code w)

/-- The path ends before a fetch (R56); inside a run, or in a speculation window, none is performed (R65). -/
def endPaths (s : State) : State :=
  if s.g.run ≠ [] ∨ (windowOf s s.g.tid).isSome then s else { s with g := pathEnds (s.g.stack.length + 1) s.g }

/-- A window's running path has reached its join, or an enclosing one: it ends there and waits for the branch (R65). -/
def windowEnded (s : State) (w : Window) : Bool := s.g.run == [] && (atJoin s.g || s.g.pc == w.join)

/-- A kept window replays the next instruction that it recorded; a scalar store only takes its place among the stores. Once nothing is left,
the stores are performed and the window is over (R66 steps 3 to 5). -/
def replayTurn (s : State) (w : Window) (r : Mask) : Turn :=
  match w.todo with
  | [] => .idle (settleStores s w r)
  | e :: _ =>
    if e.vec then .replay s w r e else .idle { s with windows := mapIf (fun x => x.saved.tid == s.g.tid) (replayed e) s.windows }

/-- The current thread fetches. -/
def fetchTurn (s : State) : Turn :=
  match fetchWord s s.g with
  | .wait s => .idle s
  | .bad r => if r.cause = 0x09 then .run s (.fetchFault r.code (r.addrs.headD 0)) else .trap s r
  | .word s w => turnWord s w

/-- The turn of the current thread outside a speculation window: its deep stack entries are in the save area (R53), and paths that have
ended end. -/
def plainTurn (s : State) : Turn :=
  let s := endPaths (spillStack s s.g)
  if hasEnded s.g then .idle (if released s s.g.core then exitThread s else s) else fetchTurn s

/-- The turn of the current thread. -/
def turn (s : State) : Turn :=
  let s := resumeWait s
  if !mayIssue s s.g then .idle s
  else match windowOf s s.g.tid with
    | none => plainTurn s
    | some w => match w.resolved with
      | some r => replayTurn s w r
      | none => if windowEnded s w then .idle s else fetchTurn s

/-! Which thread is current. -/

/-- Make a thread the current one; the one that was goes to the end of the others. -/
def switchTo (s : State) (tid : Nat) : State :=
  match s.others.find? fun g => g.live && g.tid == tid with
  | none => s
  | some g => { s with g := g, others := s.others.filter (fun x => x.tid != tid) ++ (if s.g.live then [s.g] else []) }

/-- The thread goes on being preferred: a hold of an `HS` word (R102). -/
def holds (s : State) : Bool := s.g.live && s.g.hold != 0 && !s.g.last

/-- The threads in rotating order (R40): the current one, which has issued, after the others, and those that go last behind (R102, R133); one
that is held goes first. -/
def rotation (s : State) : List Group :=
  let mine := if s.g.live then [s.g] else []
  let l := (if holds s then mine ++ s.others else s.others ++ mine).filter Group.live
  l.filter (fun g => !g.last) ++ l.filter Group.last

/-- The partition of a thread. -/
def partKey (g : Group) : Nat := g.core * 12 + g.part

/-- The thread that issues, among those that are ready (R40): the first of the rotation names the partition; there, groups of class-0
contexts go first, in no more than 15 choices of 16 while others are ready. -/
def choose (s : State) (ready : List Group) : Option Group :=
  match ready with
  | [] => none
  | g :: _ =>
    let mine := ready.filter fun x => partKey x == partKey g
    let zero := mine.filter fun x => classZero s x.ctx
    let rest := mine.filter fun x => !classZero s x.ctx
    if zero = [] ∨ (rest ≠ [] ∧ 15 ≤ getT 0 s.streaks (partKey g)) then rest.head? else zero.head?

/-- The chosen thread becomes current. Every other thread that was to go last has done so. -/
def makeCurrent (s : State) (ready : List Group) (g : Group) : State :=
  let mine := ready.filter fun x => partKey x == partKey g
  let many := classZero s g.ctx && mine.any fun x => !classZero s x.ctx
  let t := switchTo s g.tid
  { t with streaks := putT 0 t.streaks (partKey g) (if many then getT 0 t.streaks (partKey g) + 1 else 0)
           g := { t.g with last := false }, others := t.others.map fun x => { x with last := false } }

/-- A group of a core that a fault of another group has just stopped may still fault in the same clock (R362, R371): it comes after that
one in (PART, SLOT). DESIGN CHOICE (log 64): 64 steps of the model stand for that clock. -/
def sameClock (s : State) : Bool :=
  match s.faulted with
  | some (core, place, tick) =>
    s.g.live && s.g.resident && s.g.wait == .none && s.g.core == core && coreStopped s core && decide (place < 8 * s.g.part + s.g.slot)
      && decide (s.tick ≤ tick + 64)
  | none => false

/-! Events. -/

/-- An event that the tape may hold: a row without a word, but for the fates of a fetched word, which only a fetch brings. -/
def isEvent : Instr → Bool
  | .illegalWord _ _ => false
  | .fetchFault _ _ => false
  | i => i.word.isNone

/-! The steps of the part's own agents that may be due, in the order in which the model tries them. The spec fixes no order among
them (log 32). Timers, hosts, peers and firmware act only by the tape. -/

/-- Steps of results, walks, caches and home slices. -/
def memorySteps (s : State) : List Instr :=
  s.windows.map (fun w => .branchResolve w.saved.tid)
    ++ s.walks.map (fun w => .pageWalkDone w.ctx w.va)
    ++ s.pending.flatMap (fun p => [.ownershipRegistration p.core p.word, .registrationAck p.core p.word])
    ++ s.revoking.map (fun x => .revocation x.1 x.2) ++ s.recalls.map (fun x => .recall x.1 x.2)
    ++ s.flights.flatMap (fun f =>
      f.reqs.zipIdx.map (fun r => match r.1.loc, r.1.kind with
        | .window _ _, _ => .aliasAccess f.id r.2
        | loc, .fill => .lineFill f.core (lineKey loc)
        | _, _ => Instr.accessAtHome f.id r.2)
      ++ (List.range f.atoms.length).map (fun i => Instr.atomicAtHome f.id i)
      ++ (List.range 16).map fun i => Instr.resultLands f.id i)

/-- Steps of locks, barriers and monitors. -/
def syncSteps (s : State) : List Instr :=
  s.lockMsgs.map (fun m => match m with
      | .request k t => .lockRequest k t
      | .waiting k t => .lockRequest k t
      | .unlock k t _ => .unlockRequest k t
      | .grant k t => .lockGrant k t
      | .withdraw k t => .lockWithdrawal k t
      | .notice t i => .lockReleaseNotice t i)
    ++ s.barMsgs.map (fun m => .barrierMessage m.1 m.2.1 m.2.2) ++ s.barRels.map (fun m => .barrierRelease m.1 m.2.1 m.2.2)
    ++ (s.monitors.filter Monitor.woken).map (fun m => .monitorWake m.tid)

/-- Steps of engines and matrix units. -/
def engineSteps (s : State) : List Instr :=
  s.engines.flatMap (fun e =>
      [.engineRequestAccept e.id, .copyPacket e.id, .quantisePacket e.id, .landing e.id, .reductionContribution e.id e.pos, .tokenFill e.id])
    ++ s.matrix.flatMap fun m => .matrixCommandStart m.1 :: m.2.queue.map fun c => .matrixCommandComplete m.1 c.id

/-- A header of a queue that was not ready has come to be (R276): a poll finds it. -/
def pollDue (s : State) (q : Nat) : Bool := match readHead (putQueue s q { queueOf s q with look := true }) q with
  | .none => false
  | .notYet => false
  | .ask _ => !(queueOf s q).look
  | _ => !(queueOf s q).look

/-- Steps of trap rings, command queues, launches, gangs and sequences. -/
def systemSteps (s : State) : List Instr :=
  s.trapWait.map (fun r => .trapRecordWrite r.die) ++ s.notifies.map (fun n => .notifyWrite n.1 n.2.1)
    ++ s.queues.flatMap (fun q => [.launchPacket q.1, .bundlePacket q.1, .skipPacket q.1, .waitPacket q.1, .waitPollTimer q.1]
      ++ if pollDue s q.1 then [.headerPollTimer q.1] else [])
    ++ s.launches.flatMap (fun l =>
      [.launchRetire l.id, .launchStart l.id, .blockDispatch l.id l.next] ++ l.ranges.map fun r => Instr.blockDispatch l.id r.2.1)
    ++ (if s.nextLeases.isSome then [.leaseChange] else [])
    ++ s.gangs.flatMap (fun g =>
      .gangResume g.id :: (gangCores s g.id).map (fun c => Instr.sidingTransfer c g.id)
        ++ if (saveAreaBad s (launchOf s g.launch)).isNone then [.depotSave g.id] else [])
    ++ s.seqs.map (fun q => .journalRecordAccept q.id)
    ++ (s.jsCmds.filter fun c => !c.begun).flatMap fun c => [.jsCmdOpen 3 c.die c.value, .jsCmdClose 3 c.die c.value]

/-- The event of a packet that is counted in a stream. -/
def packetEvent (p : Packet) : Option Instr :=
  match p.kind with
  | 0x01 => some (.rdreq p) | 0x02 => some (.rdrsp p) | 0x03 => some (.pwr p) | 0x04 => some (.evict p) | 0x05 => some (.inv p)
  | 0x06 => some (.atom p) | 0x07 => some (.atrsp p) | 0x08 => some (.flush p) | 0x09 => some (.flrsp p) | 0x0C => some (.pricePacket p)
  | 0x0D => some (.jrec p) | 0x0E => some (.jack p) | 0x0F => some (.ewr p) | 0x10 => some (.eack p) | 0x11 => some (.probe p)
  | 0x12 => some (.prsp p)
  | _ => none

/-- Packets of the reorder buffer whose turn has come (R300), and contexts under way between packages (R295). -/
def fabricSteps (s : State) : List Instr :=
  ((s.reorder.filter fun p => ahead s p == 0).filterMap packetEvent)
    ++ s.leaving.map (fun e => .cometMigration e.1 (e.2 - 1)) ++ s.inbound.map fun im => .cometMigration im.ctx (pkgNum s)

/-- All of them. -/
def candidates (s : State) : List Instr := memorySteps s ++ syncSteps s ++ engineSteps s ++ systemSteps s ++ fabricSteps s

end

end Sys2Proof.Machine
end

