-- ==== Sys2Proof/Machine/Step.lean ====
section
/-! DEFINITION. One step of the machine, and the placing of one instruction where the next step fetches. -/
namespace Sys2Proof.Machine

/-- What the current thread comes to happens. -/
noncomputable def runTurn (s : State) : Host.Outcome State Fault Refusal :=
  match turn s with
  | .idle s => .next s
  | .trap s r => fetchTrap s r
  | .hint s w => issueHint s w
  | .run s i => exec i s
  | .replay s w r e => afterReplay s w e (exec e.instr (replayState s w r e))

/-- The current thread takes its turn. A group of a core that has stopped in this clock acts only by a fault of its own (R371). -/
noncomputable def takeTurn (s : State) : Host.Outcome State Fault Refusal :=
  if sameClock s then
    match runTurn (setStopped s s.g.core false) with
    | .next t => .next (if coreStopped t s.g.core then t else s)
    | o => o
  else runTurn s

/-- The first event of a list that changes the state. -/
def firstEvent (s : State) : List Instr → Option State
  | [] => none
  | e :: es => match exec e s with
    | .next t => if t = s then firstEvent s es else some t
    | _ => firstEvent s es

/-- A thread is ready (R40): its turn would change something. -/
noncomputable def isReadyThread (s : State) (g : Group) : Bool :=
  let t := switchTo s g.tid
  match takeTurn t with
  | .next u => u != t
  | _ => false

/-- What happens when the tape names nothing: the first event that is due, else the turn of the thread that is chosen among those that are
ready; nothing when none is. -/
noncomputable def ownStep (s : State) : Host.Outcome State Fault Refusal :=
  match firstEvent s (candidates s) with
  | some t => .next t
  | none =>
    let ready := (rotation s).filter (isReadyThread s)
    match choose s ready with
    | some g => takeTurn (makeCurrent s ready g)
    | none => .next s

/-- One entry of the tape. -/
noncomputable def takeAct (a : Act) (s : State) : Host.Outcome State Fault Refusal :=
  match a with
  | .issue => takeTurn s
  | .switch tid => .next (switchTo s tid)
  | .event e => if isEvent e then exec e s else .next s

/-- One step (log 1). -/
noncomputable def step (s : State) : Host.Outcome State Fault Refusal :=
  match s.tape with
  | [] => ownStep { s with tick := s.tick + 1 }
  | a :: rest => takeAct a { s with tick := s.tick + 1, tape := rest }

/-- Where `State.withFetchWord` puts the word: physical and virtual address. -/
def fetchPlace : Nat := 0x10000

/-- The thread that runs a placed instruction: of a matrix control core for the matrix instructions, else of a tenant core, in
privileged mode, with one row of active lanes. -/
def fetchThread (w : Nat) : Group :=
  { live := true, tid := 1, core := if w / 2 ^ 25 % 128 = 0x60 then 96 else 2, priv := true, rows := 1, allot := 128, resident := true
    pc := fetchPlace, M := BitVec.ofNat 512 (2 ^ 32 - 1) }

/-- The state with the instruction w stored where the next step fetches (log 10). -/
def State.withFetchWord (s : State) (nbits w : Nat) : State :=
  { s with mem := writeN s.mem fetchPlace 4 (w % 2 ^ (min nbits 32)), g := fetchThread (w % 2 ^ (min nbits 32)), others := [], windows := []
           tlb := { ctx := 0, va := fetchPlace, size := 2 ^ 16, r := true, w := true, x := true, fab := false, addr := fetchPlace, pkg := 0, unit := 128 } :: s.tlb
           cores := [], owners := [], oldCode := [], sections := [], bad := [], tape := [.issue] }

end Sys2Proof.Machine
end

