-- ==== Sys2Proof/Safety.lean ====
section
/-! DEFINITION. What claims are stated in terms of: the invariant of every step, when a word may issue and its operands are there,
and what a step leaves as it was. -/
namespace Sys2Proof.Machine

/-- The invariant of every step: memory has its canonical form. -/
def State.Ok (s : State) : Prop := Memory.wf s.mem

/-- The word of `i` may issue for the current thread (R373 steps 3 and 4): the thread runs, its unit of hint run and word has no
defect, a privileged word has a privileged thread, and an open speculation window admits the word (R65). -/
structure Admitted (s : State) (i : Instr) : Prop where
  runs   : mayIssue s s.g = true
  form   : unitDefect s.g (ownDefect i) (wordOf i) = none
  priv   : isPrivileged (wordOf i) = true → s.g.priv = true
  window : windowBlocks s (wordOf i) = false

/-- A scalar register is full and its data is not lost (R34, R391). -/
def scalarFull (g : Group) (n : Fin 64) : Prop := kIsEmpty g n = false ∧ g.kBad.getLsbD n.val = false

/-- The rows of a vector field that hold lanes of a mask are full, and those lanes are not lost (R34, R391). -/
def lanesFull (g : Group) (f : Fin 64) (m : Mask) : Prop :=
  ∀ n, n < laneCount g → m.getLsbD n = true → rowEmpty g (physReg g f) (n / 32) = false ∧ laneKey (physReg g f) n ∉ g.vBad

/-- Every row of a vector field is full, and no lane of it is lost. -/
def fieldFull (g : Group) (f : Fin 64) : Prop :=
  (∀ r, r < g.rows → rowEmpty g (physReg g f) r = false) ∧ ∀ n, n < laneCount g → laneKey (physReg g f) n ∉ g.vBad

/-- A source is there. -/
def sourceFull (g : Group) (act : Mask) : Src → Prop
  | .k n _ => scalarFull g n
  | .v f _ => lanesFull g f act
  | .all f _ => fieldFull g f

/-- The operands are there (R33, R36 to R38): vector fields inside the allotment, predicates complete, sources full, destinations
full. -/
structure OperandsThere (s : State) (u : Use) : Prop where
  bounds : ∀ f ∈ u.bounds, physReg s.g f < s.g.allot
  preds  : ∀ p ∈ u.preds ++ u.late, p = 0 ∨ s.g.qBusy.getLsbD p.val = false
  srcs   : ∀ x ∈ u.srcs, sourceFull s.g u.act x
  dstK   : ∀ n ∈ u.dstK, kIsEmpty s.g n = false
  dstV   : ∀ f ∈ u.dstV, ∀ n, n < laneCount s.g → u.act.getLsbD n = true → rowEmpty s.g (physReg s.g f) (n / 32) = false
  dstAll : ∀ f ∈ u.dstAll, ∀ r, r < s.g.rows → rowEmpty s.g (physReg s.g f) r = false

/-- The whole frame of an instruction that works on its own thread: `t` is `s` with the current thread `g`, gone on to `pc` with its
hint run used up; nothing else of the package changes but the issue counts of a window. -/
def MovesTo (s t : State) (g : Group) (pc : Nat) : Prop :=
  t = { s with g := { g with pc := pc, run := [], landed := t.g.landed, last := t.g.last, hold := t.g.hold }, windows := t.windows }
    ∧ t.windows.map Window.saved = s.windows.map Window.saved

/-- A packet for this package arrives in its turn (R300, R401): its stream expects its number; of a kind without a stream, it has not been
performed before. -/
structure InTurn (s : State) (p : Packet) : Prop where
  up   : fabricUp s = true
  mine : p.dst = pkgNum s ∨ p.kind = 0x0A
  turn : streamed p.kind = true → p.seq = getT 0 s.recvSeq (streamKey p)
  once : streamed p.kind = false → getT 0 s.recvSeq (performedKey p) = 0

/-- The peer can be reached, no header is held back on its account, and no packet waits here for a link, so that a packet from it brings no more
than itself. -/
def Steady (s : State) (p : Packet) : Prop := unreachable s p.src = 0 ∧ s.vetting = [] ∧ s.outbox = []

/-- Who writes control registers without being turned away (R309, R310, R358): firmware that runs (0), or the port that holds MG.SEMA of
a part that is ready. -/
def MayWrite (s : State) (agent : Nat) : Prop :=
  (agent = 0 ∧ firmwareRuns s = true) ∨ ((agent = 1 ∨ agent = 2) ∧ s.powered = true ∧ isReady s = true ∧ ownerPort s = agent)

/-- The next word. -/
def nextPc (s : State) : Nat := s.g.pc + 4

/-- What a thread's registers hold in each lane after lanes of one physical register are written: `val n` in lane n of `phys` where
`m` selects it, the old value everywhere else; the lanes written are no longer lost. -/
def LanesWritten (g h : Group) (phys : Nat) (m : Mask) (val : Nat → BitVec 64) : Prop :=
  (∀ r n, n < 512 →
    getT 0 h.v (laneKey r n) = if r = phys ∧ n < laneCount g ∧ m.getLsbD n = true then val n else getT 0 g.v (laneKey r n))
  ∧ ∀ k, k ∈ h.vBad ↔ k ∈ g.vBad ∧ ¬ ∃ n, n < laneCount g ∧ m.getLsbD n = true ∧ k = laneKey phys n

/-- `t` is `s` in which the current thread has written lanes of a field, raised flags and gone on to the next word: nothing else
changes. -/
def WritesLanes (s t : State) (d : Fin 64) (m : Mask) (val : Nat → BitVec 64) (flags : Flags) : Prop :=
  MovesTo s t { s.g with v := t.g.v, vBad := t.g.vBad, fpflags := s.g.fpflags ||| flags } (nextPc s)
    ∧ LanesWritten s.g t.g (physReg s.g d) m val

/-- One packet more has gone out, or waits at this package for its link (R297, R400). -/
def Sends (s t : State) (q : Packet) : Prop :=
  (mayLeave s q = true ∧ t.sent = s.sent ++ [q] ∧ t.outbox = s.outbox) ∨ (mayLeave s q = false ∧ t.sent = s.sent ∧ t.outbox = s.outbox ++ [q])

/-- A packet answers what has come: it is the last that has gone out, or the last that waits at this package (R297, R302, R400). -/
def Answers (s t : State) (q : Packet) : Prop :=
  (t.sent.getLast? = some q ∨ t.outbox.getLast? = some q) ∧ s.sent.length + s.outbox.length < t.sent.length + t.outbox.length

/-- A table of a core's lines after an acquire: of each line of the core only bytes of words that it owns and of its own stores on their
way are left; the lines of other cores are as they were (R242). -/
def LinesAcquired (s : State) (core : Nat) (a b : Table Line) : Prop :=
  ∀ n l, (n, l) ∈ b ↔ ((n, l) ∈ a ∧ n / 2 ^ 60 ≠ core)
    ∨ (n / 2 ^ 60 = core ∧ l ≠ {} ∧ ∃ m, (n, m) ∈ a ∧ l = keepBytes m (keptWords s core (n % 2 ^ 60) ||| m.fresh))

/-- A core's acquire (R143, R242): its L1 and its RDC share; the lines it has asked peers for are not to be kept when they come. -/
def Acquires (s t : State) (core : Nat) : Prop :=
  LinesAcquired s core s.l1 t.l1 ∧ LinesAcquired s core s.rdc t.rdc ∧ t.kept.map Kept.packet = s.kept.map Kept.packet
    ∧ ∀ k ∈ t.kept, k.core = core → k.packet.kind = 0x01 → k.flag = true

/-- An instruction whose requests `f` carries goes on (R35, R383): without a request to a peer, to the next word with its destination empty,
as `h` has it; with one it stays at its word until the peers' replies have come. `u` is the state with the caches as the issue leaves
them. -/
def Requests (s u t : State) (h : Group) (f : Flight) : Prop :=
  (asksPeer f = false → MovesTo { u with flights := s.flights ++ [f], nextId := s.nextId + 1 } t h (nextPc s)) ∧
  (asksPeer f = true → t.windows.map Window.saved = s.windows.map Window.saved ∧
    t = { u with g := { s.g with wait := .peer s.nextId }, flights := s.flights ++ [f], nextId := s.nextId + 1, kept := t.kept, sent := t.sent
                 outbox := t.outbox, sendSeq := t.sendSeq, windows := t.windows })

/-- The rows that a result brings: those of its lanes, or the one of a scalar (R35). -/
def resultRows (dest : Dest) (lanes : List Nat) : BitVec 16 := match dest with
  | .vector _ => rowsOf lanes
  | _ => 1

/-- A load of the places `l` has issued (R35, R190 to R193, R239, R302): its flight carries the value of every lane that the core's L1, or its
share of the RDC for a peer's line, gives at once, and a request for every other lane; a line of a peer is asked for, or is asked for once the
core has a miss entry free. -/
def LoadsTo (s t : State) (h : Group) (dest : Dest) (signed : Bool) (pol : Policy) (acq : Bool) (size : Nat) (l : List (Nat × Nat × Loc)) : Prop :=
  let home := pol == .bypass
  let u := liftShares s s.g.core home l
  let now (x : Nat × Nat × Loc) : Option Nat := valueNow u s.g.core size home x.2.2
  ((∀ x ∈ l, peerPkg x.2.2 = none) → u = s) ∧
  ∃ f, Requests s u t (if acq then { h with wait := .acquire s.nextId } else h) f ∧
    f.id = s.nextId ∧ f.tid = s.g.tid ∧ f.core = s.g.core ∧ f.dest = dest ∧ f.signed = signed ∧ f.acq = acq ∧ f.low = (pol == .stream) ∧ f.atoms = [] ∧
    f.rows = resultRows dest (l.map fun x => x.1) ∧
    f.lanes = l.filterMap (fun x => (now x).map fun v => (x.1, v)) ∧
    f.reqs = (l.filter fun x => (now x).isNone).map (fun x => ⟨x.1, x.2.2, size, loadKind home x.2.2, 0, false, x.2.1⟩) ∧
    ∀ x ∈ l, ∀ p off, x.2.2 = .peer p off → now x = none → rdcMissRoom t s.g.core = false ∨
      ∃ k ∈ t.kept, lineAsked s.g.core k = true ∧ k.packet.dst = p ∧ k.packet.offset = off / 128 * 128 ∧ k.packet.ctx = s.g.ctx

/-- An atomic on the places `l` has issued (R196 to R199): its flight holds one request for each distinct address, with operands and expected
values of its lanes in ascending order; requests to a peer go out in ATOM packets. -/
def AtomsTo (s t : State) (h : Group) (dest : Dest) (signed : Bool) (size : Nat) (op : AtomOp) (l : List (Nat × Nat × Loc))
    (x e : Nat → Nat) : Prop :=
  let at' (va : Nat) : List (Nat × Nat × Nat) :=
    (l.filter fun y => y.2.1 == va).map fun y => (y.1, x y.1 % 2 ^ (8 * size), e y.1 % 2 ^ (8 * size))
  ∃ f, Requests s s t h f ∧
    f.id = s.nextId ∧ f.tid = s.g.tid ∧ f.core = s.g.core ∧ f.dest = dest ∧ f.signed = signed ∧ f.acq = false ∧ f.lanes = [] ∧ f.reqs = [] ∧
    f.rows = resultRows dest (l.map fun y => y.1) ∧
    f.atoms = (atomGroups l).map (fun a => ⟨a.2, size, op, at' a.1, [], false⟩) ∧
    ((atomGroups l).map fun a => a.1).Nodup ∧ (∀ y ∈ l, ∃ a ∈ atomGroups l, a.1 = y.2.1) ∧
    ∀ a ∈ atomGroups l, ∀ p off, a.2 = .peer p off → ∀ q ∈ atomPackets s.g p off size op (at' a.1), ∃ k ∈ t.kept,
      k.core = s.g.core ∧ k.tid = s.g.tid ∧ k.packet.kind = 0x06 ∧ k.packet.dst = p ∧ k.packet.ctx = s.g.ctx ∧ k.packet.offset = q.offset ∧
      k.packet.mask = q.mask ∧ k.packet.operand = q.operand ∧ k.packet.data = q.data

/-- A store of the lanes `l` (lane, address, place, value) has the outcome `out` (R65, R187, R240): in an open speculation window it is held;
outside one it waits, or the thread goes on and the bytes go out lane by lane. -/
def StoresTo (s : State) (out : Out) (pol : Policy) (size : Nat) (l : List (Nat × Nat × Loc × Nat)) : Prop :=
  let places := l.map fun x => (x.1, x.2.1, x.2.2.1)
  (∀ w, windowOf s s.g.tid = some w → ∃ t, out = .next t ∧ MovesTo s t s.g (nextPc s) ∧
    (w.resolved = none → ∃ w' e, windowOf t s.g.tid = some w' ∧ w'.buffer = w.buffer ++ [e] ∧ e.store = some ⟨pol, size, l⟩)) ∧
  (windowOf s s.g.tid = none → storeWaits s pol size places = true → out = .next s) ∧
  (windowOf s s.g.tid = none → storeWaits s pol size places = false → ∃ u t, MovesTo s u s.g (nextPc s) ∧
    t = makeStore u s.g pol size l ∧ out = .next t ∧
    t.g.pc = nextPc s ∧ t.g.k = s.g.k ∧ t.g.v = s.g.v ∧ t.g.q = s.g.q ∧ t.g.M = s.g.M ∧ t.g.fmt = s.g.fmt)

/-- An access that the checks admit, hold back or turn into a trap (R383): what each means for the outcome `out` of an instruction. -/
def Checks (s : State) (access : Checked) (out : Out) (goes : List (Nat × Nat × Loc) → Prop) : Prop :=
  (∀ u, access = .wait u → out = .next u) ∧ (∀ r, access = .trap r → out = takeTrap s r) ∧ ∀ l, access = .ok l → goes l

end Sys2Proof.Machine
end

