-- ==== Sys2Proof/Certificates/Slice0/Obligations.lean ====
section
/-! DEFINITION. The statements for the provers, one proposition each. The docstrings cite the rules that they rest on; where one rests on
a choice of the model, it names the log entry. -/
open Sys2Proof Sys2Proof.Machine

/-- R113 to R118: the scalar instructions of three registers: their words, and what they write to K[d]; nothing else changes. `BFX` (R120)
has their shape. -/
def Obligations.ScalarResults : Prop :=
  ∀ (s : State) (o : S3) (i : Instr) (v : BitVec 64) (op f : Nat),
    let x := readK s.g o.a
    let y := readK s.g o.b
    (i, v, op, f) ∈ ([
      (.add o, x + y, 0x01, 0), (.sub o, x - y, 0x01, 1), (.mul o, x * y, 0x01, 2),
      (.mulh o, BitVec.ofInt 64 (x.toInt * y.toInt / 2 ^ 64), 0x01, 3),
      (.div o, if y = 0 then BitVec.allOnes 64 else BitVec.ofInt 64 (x.toInt.tdiv y.toInt), 0x02, 0),
      (.divn o, if y = 0 then BitVec.allOnes 64 else BitVec.ofNat 64 (x.toNat / y.toNat), 0x02, 1),
      (.rem o, if y = 0 then x else BitVec.ofInt 64 (x.toInt.tmod y.toInt), 0x02, 2),
      (.remn o, if y = 0 then x else BitVec.ofNat 64 (x.toNat % y.toNat), 0x02, 3),
      (.and o, x &&& y, 0x03, 0), (.or o, x ||| y, 0x03, 1), (.xor o, x ^^^ y, 0x03, 2), (.andn o, x &&& ~~~y, 0x03, 3),
      (.shl o, x <<< (y.toNat % 64), 0x04, 0), (.shr o, x >>> (y.toNat % 64), 0x04, 1), (.sha o, x.sshiftRight (y.toNat % 64), 0x04, 2),
      (.rot o, x.rotateLeft (y.toNat % 64), 0x04, 3),
      (.min o, if x.toInt ≤ y.toInt then x else y, 0x05, 0), (.max o, if y.toInt ≤ x.toInt then x else y, 0x05, 1),
      (.minn o, if x.toNat ≤ y.toNat then x else y, 0x05, 2), (.maxn o, if y.toNat ≤ x.toNat then x else y, 0x05, 3),
      (.seq o, if x = y then 1 else 0, 0x06, 0), (.slt o, if x.toInt < y.toInt then 1 else 0, 0x06, 1),
      (.sltn o, if x.toNat < y.toNat then 1 else 0, 0x06, 2), (.sne o, if x = y then 0 else 1, 0x06, 3),
      (.bfx o, extractField x y, 0x08, 0)] : List (Instr × BitVec 64 × Nat × Nat)) →
    i.word = some (op * 2 ^ 25 + o.d.val * 2 ^ 19 + o.a.val * 2 ^ 13 + o.b.val * 2 ^ 7 + bit o.ea * 2 ^ 3 + bit o.eb * 2 ^ 2 + f) ∧
    (Admitted s i → OperandsThere s { srcs := [.k o.a o.ea, .k o.b o.eb], dstK := [o.d] } →
      ∃ t, exec i s = .next t ∧ MovesTo s t (writeK s.g o.d v) (nextPc s))

/-- R119, R120: POPC, CLZ, CTZ and BREV, their words, and MOV read K[a]; BFI reads K[d] as well.

R119, R120: what the bit functions of a scalar are: BFX gives the field's bits, and above its width zeros or, where the control asks for
it, the field's highest bit; BFI replaces the field's bits and leaves every other bit. -/
def Obligations.ScalarBits : Prop :=
  ((∀ (s : State) (o : S2) (i : Instr) (v : BitVec 64) (op f : Nat),
    let x := readK s.g o.a
    (i, v, op, f) ∈ ([(.popc o, popCount x, 0x07, 0), (.clz o, leadZeros x, 0x07, 1), (.ctz o, trailZeros x, 0x07, 2),
      (.brev o, bitReverse x, 0x07, 3), (.mov o, x, 0x08, 2)] : List (Instr × BitVec 64 × Nat × Nat)) →
    i.word = some (op * 2 ^ 25 + o.d.val * 2 ^ 19 + o.a.val * 2 ^ 13 + bit o.ea * 2 ^ 3 + f) ∧
    (Admitted s i → OperandsThere s { srcs := [.k o.a o.ea], dstK := [o.d] } →
      ∃ t, exec i s = .next t ∧ MovesTo s t (writeK s.g o.d v) (nextPc s))) ∧
  (∀ (s : State) (o : S3), Admitted s (.bfi o) →
    OperandsThere s { srcs := [.k o.a o.ea, .k o.b o.eb, .k o.d false], dstK := [o.d] } →
    ∃ t, exec (.bfi o) s = .next t ∧
      MovesTo s t (writeK s.g o.d (insertField (readK s.g o.d) (readK s.g o.a) (readK s.g o.b))) (nextPc s))) ∧
  (∀ x c : BitVec 64,
    let bitAt (j : Nat) : Bool := decide (j + c.toNat % 64 < 64) && x.getLsbD (j + c.toNat % 64)
    let width := min (c.toNat / 2 ^ 8 % 128) 64
    (popCount x).toNat = (List.range 64).countP (fun i => x.getLsbD i) ∧
    (x ≠ 0 → (leadZeros x).toNat ≤ 63 ∧ x.toNat / 2 ^ (63 - (leadZeros x).toNat) = 1) ∧ leadZeros 0 = 64 ∧
    (x ≠ 0 → x.getLsbD (trailZeros x).toNat = true ∧ ∀ j, j < (trailZeros x).toNat → x.getLsbD j = false) ∧ trailZeros 0 = 64 ∧
    (∀ j, j < 64 → (bitReverse x).getLsbD j = x.getLsbD (63 - j)) ∧
    (∀ j, j < 64 → (extractField x c).getLsbD j
      = if j < width then bitAt j else c.getLsbD 15 && decide (0 < width) && bitAt (width - 1)) ∧
    (∀ old j, j < 64 → (insertField old x c).getLsbD j
      = if c.toNat % 64 ≤ j ∧ j < c.toNat % 64 + width then x.getLsbD (j - c.toNat % 64) else old.getLsbD j))

/-- R100, R121 to R123: immediate forms, with the HX payload where the hint run has one. -/
def Obligations.ScalarImmediates : Prop :=
  (∀ (s : State) (o : SI) (i : Instr) (v : BitVec 64),
    let x := readK s.g o.a
    let m := immS s.g o.imm
    (i, v) ∈ ([(.addi o, x + m), (.andi o, x &&& m), (.ori o, x ||| m), (.xori o, x ^^^ m),
      (.lih o, ((imm34 s.g o.imm).zeroExtend 64 <<< 30) ||| (x &&& 0x3FFFFFFF))] : List (Instr × BitVec 64)) →
    Admitted s i → OperandsThere s { srcs := [.k o.a false], dstK := [o.d] } →
    ∃ t, exec i s = .next t ∧ MovesTo s t (writeK s.g o.d v) (nextPc s)) ∧
  (∀ (s : State) (o : Sh) (i : Instr) (v : BitVec 64),
    let x := readK s.g o.a
    (i, v) ∈ ([(.shli o, x <<< o.n.val), (.shri o, x >>> o.n.val), (.shai o, x.sshiftRight o.n.val), (.roti o, x.rotateLeft o.n.val)]
      : List (Instr × BitVec 64)) →
    Admitted s i → OperandsThere s { srcs := [.k o.a false], dstK := [o.d] } →
    ∃ t, exec i s = .next t ∧ MovesTo s t (writeK s.g o.d v) (nextPc s)) ∧
  (∀ (s : State) (d : Fin 64) (imm : BitVec 13), Admitted s (.li d imm) → OperandsThere s { dstK := [d] } →
    ∃ t, exec (.li d imm) s = .next t ∧ MovesTo s t (writeK s.g d (immS s.g imm)) (nextPc s)) ∧
  (∀ (g : Group) (imm : BitVec 13), g.run = [] → immS g imm = imm.signExtend 64) ∧
  (∀ (g : Group) (imm : BitVec 13) (p : BitVec 21), g.run = [wordH 0 p.toNat] → immS g imm = (p ++ imm).signExtend 64)

/-- R6: k0 reads zero and a write of it is discarded; a write of any other scalar is what a later read of it gives, and no other
scalar changes. The same of predicates, where q0 reads 1 in every lane. -/
def Obligations.HardwiredRegisters : Prop :=
  ∀ (g : Group),
    readK g 0 = 0 ∧ (∀ x, writeK g 0 x = g) ∧
    (∀ n m x, n ≠ 0 → readK (writeK g n x) m = if m = n then x else readK g m) ∧
    readQ g 0 = BitVec.allOnes 512 ∧ (∀ x, writeQ g 0 x = g) ∧
    (∀ n m x, n ≠ 0 → readQ (writeQ g n x) m = if m = n then x else readQ g m)

/-- R124, R125: jumps and calls: where control goes, and the link; a JR to an address that is no word address, or has bits [63:57], traps.

R55, R64, R126: a BR.V or BR.VN. Its predicate complete, it resolves: with no lane taken it falls through; with every lane of M taken
it goes to the target; else the not-taken lanes and a join entry are pushed and the taken lanes go on at the target; a stack that would pass
1,024 entries raises STACK_DEPTH 0. The predicate not complete, it opens a speculation window on the predicted taken set, or waits.

R57, R127, R368: BR.U and BR.UN go where the lanes of M agree to go; lanes that disagree raise UNIFORMITY with the taken lanes. -/
def Obligations.Transfers : Prop :=
  ((∀ (s : State) (disp : BitVec 19), Admitted s (.jmp disp) →
    ∃ t, exec (.jmp disp) s = .next t ∧ MovesTo s t s.g (target s.g.pc disp.toInt)) ∧
  (∀ (s : State) (c : Fin 64) (disp : BitVec 19), Admitted s (.call c disp) → OperandsThere s { dstK := [c] } →
    ∃ t, exec (.call c disp) s = .next t ∧
      MovesTo s t (writeK s.g c (BitVec.ofNat 64 (s.g.pc + 4))) (target s.g.pc disp.toInt)) ∧
  (∀ (s : State) (c : Fin 64) (disp : BitVec 19), Admitted s (.bz c disp) → OperandsThere s { srcs := [.k c false] } →
    ∃ t, exec (.bz c disp) s = .next t ∧
      MovesTo s t s.g (if readK s.g c = 0 then target s.g.pc disp.toInt else nextPc s)) ∧
  (∀ (s : State) (c : Fin 64) (disp : BitVec 19), Admitted s (.bnz c disp) → OperandsThere s { srcs := [.k c false] } →
    ∃ t, exec (.bnz c disp) s = .next t ∧
      MovesTo s t s.g (if readK s.g c = 0 then nextPc s else target s.g.pc disp.toInt)) ∧
  (∀ (s : State) (d a : Fin 64), Admitted s (.jr d a) → OperandsThere s { srcs := [.k a false], dstK := [d] } →
    let x := (readK s.g a).toNat
    (x % 4 = 0 → x < 2 ^ 57 →
      ∃ t, exec (.jr d a) s = .next t ∧ MovesTo s t (writeK s.g d (BitVec.ofNat 64 (s.g.pc + 4))) x) ∧
    (x % 4 ≠ 0 → exec (.jr d a) s = takeTrap s { cause := 0x0A, code := 1, addrs := [x % 2 ^ 57] }) ∧
    (x % 4 = 0 → 2 ^ 57 ≤ x → exec (.jr d a) s = takeTrap s { cause := 0x09, code := 5, value := 3, addrs := [x % 2 ^ 57] }))) ∧
  (∀ (s : State) (p : Fin 8) (neg : Bool) (disp : BitVec 19) (i : Instr),
    (i, neg) ∈ ([(.brV p disp, false), (.brVn p disp, true)] : List (Instr × Bool)) → Admitted s i →
    let dst := target s.g.pc disp.toInt
    let join := target s.g.pc ((hjDisp s.g).getD 0)
    ((p = 0 ∨ s.g.qBusy.getLsbD p.val = false) →
      let taken := s.g.M &&& (if neg then ~~~(readQ s.g p) else readQ s.g p)
      let left := s.g.M &&& ~~~taken
      (taken = 0 ∨ left = 0 ∨ s.g.stack.length < 1023 →
        ∃ t, exec i s = .next { t with points := (updatePoints s s.g taken).points, csr := (countBranch s s.g 3).csr } ∧
          (taken = 0 → MovesTo s t s.g (nextPc s)) ∧
          (taken ≠ 0 → left = 0 → MovesTo s t s.g dst) ∧
          (taken ≠ 0 → left ≠ 0 → MovesTo s t { s.g with
            M := taken, stack := ⟨false, left, nextPc s, s.g.fmt⟩ :: ⟨true, s.g.M, join, s.g.fmt⟩ :: s.g.stack } dst)) ∧
      (taken ≠ 0 → left ≠ 0 → 1023 ≤ s.g.stack.length →
        exec i s = takeTrap s { cause := 0x06, code := 0, value := s.g.stack.length, mask := s.g.M })) ∧
    (p ≠ 0 → s.g.qBusy.getLsbD p.val = true →
      (1023 ≤ s.g.stack.length ∨ predict s s.g (hpMode s.g) = none → exec i s = .next s) ∧
      (∀ pt, s.g.stack.length < 1023 → predict s s.g (hpMode s.g) = some pt →
        exec i s = .next { s with g := diverge s.g pt dst join
                                  windows := s.windows ++ [{ saved := s.g, pred := p, neg := neg, pt := pt, target := dst, join := join
                                                             issued := 0 }] }))) ∧
  (∀ (s : State) (p : Fin 8) (neg : Bool) (disp : BitVec 19) (i : Instr),
    (i, neg) ∈ ([(.brU p disp, false), (.brUn p disp, true)] : List (Instr × Bool)) →
    Admitted s i → OperandsThere s { preds := [p] } →
    let taken := s.g.M &&& (if neg then ~~~(readQ s.g p) else readQ s.g p)
    (taken = s.g.M ∨ taken = 0 →
      ∃ t, exec i s = .next t ∧
        MovesTo s t s.g (if taken = s.g.M then target s.g.pc disp.toInt else nextPc s)) ∧
    (taken ≠ s.g.M → taken ≠ 0 → exec i s = takeTrap s { cause := 0x05, reg := p.val, rfile := 2, mask := taken }))

/-- R58, R128, R369: BRK takes the selected lanes out of M and of the n innermost regions, whose entries without lanes go, and puts them
into a path entry at the target below those regions, joined to one that stands there for the same address. M keeps its other lanes;
with none left the running path ends. Fewer than n regions, or no room for an entry, raises STACK_DEPTH.

R56, R59, R129: EXIT.V: the lanes of M have exited, and the running path ends: the next entry with live lanes goes on; with none the
group ends once its release is done, and stands at the unit of the word that ended it (R372).

R46, R130, R380: EXIT waits for the release of the core; then the thread is a member of no barrier of its block and gang, and it drains,
or is gone when nothing of it is in flight; its program counter stays at the unit of the word (R372). One that still holds locks is reported
with ILLEGAL 14: its core stops, and every slice is told. -/
def Obligations.LanePaths : Prop :=
  (∀ (s : State) (n p : Fin 8) (disp : BitVec 19), Admitted s (.brk n p disp) → OperandsThere s { preds := [p] } →
    let l := s.g.M &&& readQ s.g p
    let dst := target s.g.pc disp.toInt
    (∃ t, exec (.brk n p disp) s = .next t) ∧
    (depth s.g.stack ≤ n.val → exec (.brk n p disp) s = takeTrap s { cause := 0x06, code := 1, value := depth s.g.stack, mask := l }) ∧
    (n.val < depth s.g.stack → l = 0 → ∃ t, exec (.brk n p disp) s = .next t ∧ MovesTo s t s.g (nextPc s)) ∧
    (∀ inner paths rest : List Entry, l ≠ 0 → s.g.stack = inner ++ paths ++ rest → depth inner = n.val →
      (inner = [] ∨ inner.getLast?.any Entry.join = true) → paths.all (fun e => !e.join) = true → rest.head?.any Entry.join = true →
      let above := (inner.map fun e => { e with mask := e.mask &&& ~~~l }).filter (fun e => e.mask != 0) ++ paths
      let standing := above.getLast?.any fun e => !e.join && e.pc == dst
      let st := (if standing then above.dropLast ++ above.getLast?.toList.map fun e => { e with mask := e.mask ||| l }
                 else above ++ [⟨false, l, dst, s.g.fmt⟩]) ++ rest
      (standing = false → 1024 ≤ above.length + rest.length → exec (.brk n p disp) s =
        takeTrap s { cause := 0x06, code := 0, value := above.length + rest.length, mask := s.g.M }) ∧
      (standing = true ∨ above.length + rest.length < 1024 →
        (s.g.M &&& ~~~l ≠ 0 → ∃ t, exec (.brk n p disp) s = .next t ∧
          MovesTo s t { s.g with M := s.g.M &&& ~~~l, stack := st } (nextPc s)) ∧
        (s.g.M &&& ~~~l = 0 → ∀ e rest', pathEnd s.g.X st = some (e, rest') → ∃ t, exec (.brk n p disp) s = .next t ∧
          MovesTo s t { s.g with M := e.mask, fmt := e.fmt, stack := rest' } e.pc)))) ∧
  (∀ (s : State), Admitted s .exitV →
    let x := s.g.X ||| s.g.M
    (∀ e st, 0 < depth s.g.stack → pathEnd x s.g.stack = some (e, st) →
      ∃ t, exec .exitV s = .next t ∧ MovesTo s t { s.g with X := x, M := e.mask, fmt := e.fmt, stack := st } e.pc) ∧
    (depth s.g.stack = 0 ∨ pathEnd x s.g.stack = none →
      ∃ t, MovesTo s t { s.g with X := x, M := 0, stack := [], ender := wordOf .exitV } (unitPc s.g) ∧
        exec .exitV s = .next (if released t s.g.core then exitThread t else t))) ∧
  (∀ (s : State), Admitted s .exit →
    (released s s.g.core = false → exec .exit s = .next s) ∧
    (released s s.g.core = true → ∃ t, exec .exit s = .next t ∧
      (∀ n, n < 16 → s.g.tid ∉ (getT {} (blockOf t s.g.block).bars n).members) ∧
      (∀ n, n < 4 → s.g.tid ∉ (getT {} (gangOf t s.g.gang).bars n).members) ∧
      (s.g.locks = [] → t.mem = s.mem ∧ t.lockMsgs = s.lockMsgs ∧
        (drained s s.g.tid = true → t.g.live = false ∧ t.past = s.past ++ [{ s.g with wait := .draining, landed := false, ender := wordOf .exit }]) ∧
        (drained s s.g.tid = false → t.g = { s.g with wait := .draining, landed := false, ender := wordOf .exit })) ∧
      (s.g.locks ≠ [] → (∀ k, k < 128 → .notice s.g.tid k ∈ t.lockMsgs) ∧ (ctxEnded s s.g.ctx = false → coreStopped t s.g.core = true) ∧
        ((∃ c, t.causes = s.causes ++ [c] ∧ c.ctx = s.g.ctx ∧ c.cause = 0x01 ∧ c.code = 14 ∧ c.launch = s.g.launch) ∨ ∃ r ∈ t.trapWait, r.cause = 0x01 ∧ r.code = 14 ∧ r.ctx = s.g.ctx ∧ r.async = true))))

/-- R131 to R133: SETFMT and WIN write the group register and return what the entry says; a format that does not exist raises ILLEGAL 7.
NOP does nothing but go on; YIELD puts the group last in the rotation.

R24, R134 to R136: GET reads a special register; two reads of `s.clock` on one core return its own cycle count, which does not fall
(how far it has moved on is free, log 5). SET writes `fmt`, `wv` or `fpflags`; a value they cannot hold raises ILLEGAL 7. Both wait, at
`fpflags`, for earlier instructions that can raise a flag.

R102, R103: a hint word joins the run of the instruction after it; it waits for nothing and changes no register. That it is none of the 64
instructions of an open window, whose count stays as it was, is the model's choice (log 61). -/
def Obligations.GroupRegisters : Prop :=
  ((∀ (s : State) (d a : Fin 64), Admitted s (.setfmt d a) → OperandsThere s { srcs := [.k a false], dstK := [d] } →
    ((readK s.g a).toNat < 5 → ∃ t, exec (.setfmt d a) s = .next t ∧
      MovesTo s t { writeK s.g d (s.g.fmt.zeroExtend 64) with fmt := (readK s.g a).truncate 16 } (nextPc s)) ∧
    (5 ≤ (readK s.g a).toNat → exec (.setfmt d a) s =
      takeTrap s { cause := 0x01, code := 7, value := wordOf (.setfmt d a), reg := a.val, rfile := 0 })) ∧
  (∀ (s : State) (d a n : Fin 64), Admitted s (.win d a n) → OperandsThere s { srcs := [.k a false], dstK := [d] } →
    let w : BitVec 8 := BitVec.ofNat 8 ((readK s.g a).toNat + n.val)
    ∃ t, exec (.win d a n) s = .next t ∧ MovesTo s t { writeK s.g d (w.zeroExtend 64) with wv := w } (nextPc s)) ∧
  (∀ (s : State), Admitted s .nop → ∃ t, exec .nop s = .next t ∧ MovesTo s t s.g (nextPc s)) ∧
  (∀ (s : State), Admitted s .yield →
    ∃ t, exec .yield s = .next t ∧ MovesTo s t s.g (nextPc s) ∧ t.g.last = true)) ∧
  ((∀ (s : State) (d num : Fin 64), Admitted s (.get d num) → OperandsThere s { dstK := [d] } →
    (num.val = 2 → pendingFlags s s.g = true → exec (.get d num) s = .next s) ∧
    (num.val ≠ 0x12 → (num.val = 2 → pendingFlags s s.g = false) →
      ∃ t, exec (.get d num) s = .next t ∧ MovesTo s t (writeK s.g d (specialValue s s.g num.val)) (nextPc s)) ∧
    (num.val = 0x12 → ∃ t, exec (.get d num) s = .next t ∧
      MovesTo { s with free := s.free + 1, clocks := t.clocks } t (writeK s.g d (BitVec.ofNat 64 (getT 0 t.clocks s.g.core))) (nextPc s) ∧
      getT 0 s.clocks s.g.core ≤ getT 0 t.clocks s.g.core ∧
      ∀ c, c ≠ s.g.core → getT 0 t.clocks c = getT 0 s.clocks c)) ∧
  (∀ (s : State) (num a : Fin 64), Admitted s (.set num a) → OperandsThere s { srcs := [.k a false] } →
    let x := readK s.g a
    let limit := if num.val = 0 then 5 else if num.val = 1 then 256 else 32
    (limit ≤ x.toNat → exec (.set num a) s =
      takeTrap s { cause := 0x01, code := 7, value := wordOf (.set num a), reg := a.val, rfile := 0 }) ∧
    (num.val = 0 → x.toNat < 5 → ∃ t, exec (.set num a) s = .next t ∧ MovesTo s t { s.g with fmt := x.truncate 16 } (nextPc s)) ∧
    (num.val = 1 → x.toNat < 256 → ∃ t, exec (.set num a) s = .next t ∧ MovesTo s t { s.g with wv := x.truncate 8 } (nextPc s)) ∧
    (num.val = 2 → x.toNat < 32 → pendingFlags s s.g = true → exec (.set num a) s = .next s) ∧
    (num.val = 2 → x.toNat < 32 → pendingFlags s s.g = false →
      ∃ t, exec (.set num a) s = .next t ∧ MovesTo s t { s.g with fpflags := x.truncate 5 } (nextPc s))) ∧
  (∀ (s : State) (g : Group), specialValue s g 0 = g.fmt.zeroExtend 64 ∧ specialValue s g 1 = g.wv.zeroExtend 64 ∧
    specialValue s g 2 = g.fpflags.zeroExtend 64 ∧ specialValue s g 0x0D = BitVec.ofNat 64 g.core ∧
    specialValue s g 0x10 = BitVec.ofNat 64 (pkgNum s) ∧ specialValue s g 0x11 = BitVec.ofNat 64 g.ctx ∧
    specialValue s g 0x0A = BitVec.ofNat 64 g.blk ∧ specialValue s g 0x0B = BitVec.ofNat 64 g.nblk ∧
    specialValue s g 0x14 = BitVec.ofNat 64 g.shape0 ∧ specialValue s g 0x15 = BitVec.ofNat 64 g.shape1 ∧
    specialValue s g 0x16 = BitVec.ofNat 64 g.shape2 ∧ specialValue s g 0x17 = BitVec.ofNat 64 g.shape3 ∧
    (g.core < 96 → specialValue s g 0x08 = BitVec.ofNat 64 g.lane0 ∧ specialValue s g 0x09 = BitVec.ofNat 64 g.grp ∧
      specialValue s g 0x0C = BitVec.ofNat 64 g.rows ∧ specialValue s g 0x18 = BitVec.ofNat 64 g.pad ∧
      specialValue s g 0x0E = BitVec.ofNat 64 (g.core / 3) ∧ specialValue s g 0x0F = BitVec.ofNat 64 (g.core / 24)) ∧
    (96 ≤ g.core → specialValue s g 0x08 = 0 ∧ specialValue s g 0x09 = 0 ∧ specialValue s g 0x0C = 0 ∧ specialValue s g 0x18 = 0 ∧
      specialValue s g 0x0E = BitVec.ofNat 64 (g.core - 96) ∧ specialValue s g 0x0F = BitVec.ofNat 64 ((g.core - 96) / 8)))) ∧
  (∀ (s : State) (i : Instr) (w : Nat) (p : BitVec 21) (c : Fin 32) (m : Fin 4) (k : Fin 8),
    (i, w) ∈ ([(.hx p, wordH 0 p.toNat), (.hj p, wordH 1 p.toNat), (.hs c m, wordH 2 (4 * c.val + m.val)), (.hp k, wordH 3 k.val),
      (.hc m, wordH 4 m.val)] : List (Instr × Nat)) →
    mayIssue s s.g = true →
    exec i s = .next { s with g := { s.g with run := s.g.run ++ [w], runPc := if s.g.run = [] then s.g.pc else s.g.runPc
                                              pc := s.g.pc + 4, landed := false } })

/-- R137, R359, R361: TRAP. The core stops, the thread goes on at the next word, and one record with cause SOFTWARE, the code, the
value K[a] and the address of the next word is posted. The thread's registers are unchanged.

R67, R103, R359, R361: taking a synchronous trap. The instruction has no effect: the program counter names the first word of its unit and
the registers are as they were; the core stops, and the record goes to the ring of the die. In a speculation window whose branch is not
resolved the instruction does not issue, and the window has ended (R65); in one that is replayed the window starts again. -/
def Obligations.TrapEntry : Prop :=
  (∀ (s : State) (a n : Fin 64), Admitted s (.trap a n) → OperandsThere s { srcs := [.k a false] } →
    ∃ t r u, exec (.trap a n) s = .next t ∧ t = postRecord u r ∧
      r.cause = 0x11 ∧ r.code = n.val ∧ r.value = (readK s.g a).toNat ∧ r.pc = (s.g.pc + 4) % 2 ^ 64 ∧ r.ctx = s.g.ctx ∧ r.async = false ∧
      r.part = s.g.part ∧ r.slot = s.g.slot ∧ r.die = dieOfCore s.g.core ∧
      coreStopped u s.g.core = true ∧ (∀ c, c ≠ s.g.core → coreStopped u c = coreStopped s c) ∧ u.mem = s.mem ∧
      u.g.pc = nextPc s ∧ u.g.run = [] ∧ u.g.wait = .none ∧ u.g.k = s.g.k ∧ u.g.v = s.g.v ∧ u.g.q = s.g.q ∧ u.g.M = s.g.M ∧
      u.g.X = s.g.X ∧ u.g.stack = s.g.stack ∧ u.g.fmt = s.g.fmt ∧ u.g.wv = s.g.wv ∧ u.g.fpflags = s.g.fpflags) ∧
  ((∀ (s : State) (r : Record), windowOf s s.g.tid = none → s.g.live = true →
    ∃ u, takeTrap s r = .next (postRecord u (recordOf s.g r)) ∧
      coreStopped u s.g.core = true ∧ (∀ c, c ≠ s.g.core → coreStopped u c = coreStopped s c) ∧ u.mem = s.mem ∧
      u.g.pc = unitPc s.g ∧ u.g.run = [] ∧ u.g.k = s.g.k ∧ u.g.v = s.g.v ∧ u.g.q = s.g.q ∧ u.g.M = s.g.M ∧ u.g.X = s.g.X ∧
      u.g.stack = s.g.stack ∧ u.g.fmt = s.g.fmt ∧ u.g.wv = s.g.wv ∧ u.g.fpflags = s.g.fpflags ∧
      (recordOf s.g r).pc = unitPc s.g ∧ (recordOf s.g r).ctx = s.g.ctx ∧ (recordOf s.g r).part = s.g.part ∧
      (recordOf s.g r).slot = s.g.slot ∧ (recordOf s.g r).cause = r.cause ∧ (recordOf s.g r).code = r.code) ∧
  (∀ (s : State) (r : Record) (w : Window), windowOf s s.g.tid = some w → w.resolved = none →
    takeTrap s r = .next { s with windows := mapIf (fun x => x.saved.tid == s.g.tid) (fun x => { x with ended := true }) s.windows }) ∧
  (∀ (s : State) (r : Record) (w : Window), windowOf s s.g.tid = some w → w.resolved ≠ none → takeTrap s r = .next (restartWindow s w)))

/-- R65, R67, R372 to R374, R383: a word that is no instruction use takes ILLEGAL with the lowest sub-cause of its unit and the word it stands in;
a fetch that faults takes XLATE with kind 3 and the address of the word. In both the core stops and no register changes. In an open speculation
window either ends the window and is not reported; a thread that may not issue reports nothing. DEDUCED (log 24): after a fetch that faults the
thread's counter is the first word of its run, while the record names the word.

R106, Table 23.2: a privileged word of a thread without privilege takes PRIV, with the word in VALUE, and has no other effect. -/
def Obligations.FaultingWords : Prop :=
  ((∀ (s : State) (code word : Nat) (d : Nat × Nat), mayIssue s s.g = true → windowOf s s.g.tid = none →
    (code = 8 → d = (8, word)) → (code ≠ 8 → unitDefect s.g code word = some d) →
    ∃ t u r, exec (.illegalWord code word) s = .next t ∧ t = postRecord u r ∧ r.cause = 0x01 ∧ r.code = d.1 ∧ r.value = d.2 ∧
      r.pc = unitPc s.g ∧ coreStopped u s.g.core = true ∧ u.mem = s.mem ∧ u.g.k = s.g.k ∧ u.g.v = s.g.v ∧ u.g.pc = unitPc s.g) ∧
  (∀ (s : State) (code va : Nat), mayIssue s s.g = true → windowOf s s.g.tid = none →
    ∃ t u r, exec (.fetchFault code va) s = .next t ∧ t = postRecord u r ∧ r.cause = 0x09 ∧ r.code = code ∧ r.value = 3 ∧ r.pc = s.g.pc ∧
      r.addrs.length = 1 ∧ coreStopped u s.g.core = true ∧ u.mem = s.mem ∧ u.g.k = s.g.k ∧ u.g.v = s.g.v ∧ u.g.pc = unitPc s.g) ∧
  (∀ (s : State) (i : Instr), (∃ code x, i = .illegalWord code x ∨ i = .fetchFault code x) →
    (mayIssue s s.g = false → exec i s = .next s) ∧
    (∀ w, mayIssue s s.g = true → windowOf s s.g.tid = some w → w.resolved = none →
      ∃ t, exec i s = .next t ∧ t = { s with windows := t.windows } ∧ windowOf t s.g.tid = some { w with ended := true }))) ∧
  (∀ (s : State) (i : Instr) (d a b m : Fin 64),
    i ∈ ([.rett d a, .csrr d a, .csrw a b, .tlbinv m a b, .halt d a] : List Instr) →
    mayIssue s s.g = true → s.g.priv = false → unitDefect s.g (ownDefect i) (wordOf i) = none →
    exec i s = takeTrap s { cause := 0x02, value := wordOf i })

/-- R138, R362, R364: RETT returns the status in K[d]: 2 for no core of the die, 1 for one that runs. Status 0 lets a stopped core run
again, and each of its threads goes on at the program counter its stop recorded. That the instruction waits while a record of the core waits
for its ring is the model's (log 52, DEDUCED), and that it waits for the answers to the withdrawals of the core's LOCKs (R48 step 4).

R141: HALT of a core of the die that runs stops it and returns 0, and the thread waits until every thread there has stopped; of one
that is stopped, 1; of no core of the die, 2; of its own core, the thread sleeps with 3, and no thread of the core may issue. -/
def Obligations.CoreControl : Prop :=
  (∀ (s : State) (d a : Fin 64), Admitted s (.rett d a) → OperandsThere s { srcs := [.k a false], dstK := [d] } →
    let x := (readK s.g a).toNat
    (coreHere s.g x = false → ∃ t, exec (.rett d a) s = .next t ∧ MovesTo s t (writeK s.g d 2) (nextPc s)) ∧
    (coreHere s.g x = true → coreStopped s x = false → ∃ t, exec (.rett d a) s = .next t ∧ MovesTo s t (writeK s.g d 1) (nextPc s)) ∧
    (coreHere s.g x = true → coreStopped s x = true → recordWaits s x = true ∨ withdrawing s (fun g => g.core == x) = true →
      exec (.rett d a) s = .next s) ∧
    (coreHere s.g x = true → coreStopped s x = true → recordWaits s x = false → withdrawing s (fun g => g.core == x) = false →
      ∃ t, exec (.rett d a) s = .next t ∧
        MovesTo { s with cores := t.cores, faulted := t.faulted, engines := t.engines, kept := t.kept, sent := t.sent, outbox := t.outbox
                         sendSeq := t.sendSeq } t (writeK s.g d 0) (nextPc s) ∧
        coreStopped t x = false ∧ (∀ c, c ≠ x → coreStopped t c = coreStopped s c) ∧ (∀ e ∈ t.engines, e.core = x → e.fault = none) ∧
        (∀ e ∈ t.engines, e.core ≠ x → e ∈ s.engines))) ∧
  (∀ (s : State) (d a : Fin 64), Admitted s (.halt d a) → OperandsThere s { srcs := [.k a false], dstK := [d] } →
    let x := (readK s.g a).toNat
    (coreHere s.g x = false → ∃ t, exec (.halt d a) s = .next t ∧ MovesTo s t (writeK s.g d 2) (nextPc s)) ∧
    (coreHere s.g x = true → x = s.g.core → windowOf s s.g.tid = none → (∀ y ∈ s.others, y.tid ≠ s.g.tid) → ∃ t, exec (.halt d a) s = .next t ∧
      MovesTo { s with others := t.others, flights := t.flights, monitors := t.monitors, seqs := t.seqs, lockMsgs := t.lockMsgs
                       walks := t.walks, points := t.points, csr := t.csr, windows := t.windows }
        t { writeK s.g d 3 with wait := .sleep } (nextPc s) ∧
      coreAsleep t x = true ∧ ∀ g ∈ threads t, g.core = x → mayIssue t g = false) ∧
    (coreHere s.g x = true → x ≠ s.g.core → coreStopped s x = true →
      ∃ t, exec (.halt d a) s = .next t ∧ MovesTo s t (writeK s.g d 1) (nextPc s)) ∧
    (coreHere s.g x = true → x ≠ s.g.core → coreStopped s x = false →
      ∃ t, exec (.halt d a) s = .next t ∧ coreStopped t x = true ∧ (∀ c, c ≠ x → coreStopped t c = coreStopped s c) ∧ t.mem = s.mem ∧
        readK t.g d = 0 ∧ (∀ n, n ≠ d → readK t.g n = readK s.g n) ∧ t.g.pc = nextPc s ∧
        t.g.wait = if haltDone t x then .none else .halting x))

/-- R139, R358, R297, R309: CSRR reads a control register. CSRW writes one, and a register without an effect of its own changes alone; at
JS.CMD, MK.INTV and the notify registers the thread waits until the write has taken effect. That MK.INTV reads its old value until then is
the model's choice (log 61). A write of 0 frees MG.SEMA, and one of another value takes it while it is free. A number without a register, a
write of a read-only one, and a value out of range raise ILLEGAL 7.

R140, R248: TLBINV waits for the walks in flight; then the translations its mode names are gone and no other is, and with them what
walks that found no leaf left; mode 3 empties the fabric MMU alone. -/
def Obligations.ControlRegisters : Prop :=
  ((∀ (s : State) (d a : Fin 64), Admitted s (.csrr d a) → OperandsThere s { srcs := [.k a false], dstK := [d] } →
    let n := (readK s.g a).toNat % 2 ^ 32
    (csrAccess n ≠ .none →
      ∃ t, exec (.csrr d a) s = .next t ∧ MovesTo s t (writeK s.g d (BitVec.ofNat 64 (csrRead s n))) (nextPc s)) ∧
    (csrAccess n = .none → exec (.csrr d a) s =
      takeTrap s { cause := 0x01, code := 7, value := wordOf (.csrr d a), reg := a.val, rfile := 0 })) ∧
  (∀ (s : State) (a b : Fin 64), Admitted s (.csrw a b) → OperandsThere s { srcs := [.k a false, .k b false] } →
    let n := (readK s.g a).toNat % 2 ^ 32
    let v := (readK s.g b).toNat
    let i := Instr.csrw a b
    let own := n = csrSema ∨ n = csrIntv ∨ n = csrPkgid ∨ (0x400 ≤ n ∧ n < 0x800 ∧ n % 16 < 5) ∨ (0x800 ≤ n ∧ n < 0x840 ∧ n % 16 = 1) ∨
      (0x100000 ≤ n ∧ n < 0x104000 ∧ n % 4 = 2) ∨ (0x200000 ≤ n ∧ n < 0x300000 ∧ n % 16 = 1) ∨ 0x1000000 ≤ n
    (csrAccess n = .none ∨ csrAccess n = .ro →
      exec i s = takeTrap s { cause := 0x01, code := 7, value := wordOf i, reg := a.val, rfile := 0 }) ∧
    (csrAccess n ≠ .none → csrAccess n ≠ .ro → csrValueOk n v = false →
      exec i s = takeTrap s { cause := 0x01, code := 7, value := wordOf i, reg := b.val, rfile := 0 }) ∧
    (csrAccess n ≠ .none → csrAccess n ≠ .ro → csrValueOk n v = true →
      ∃ t, exec i s = .next t ∧ t.g.k = s.g.k ∧ t.g.pc = nextPc s ∧
        t.g.wait = (if n = csrIntv ∨ (0x800 ≤ n ∧ n < 0x840 ∧ n % 16 = 1) ∨ 0x1000000 ≤ n then .command n else .none) ∧
        (n = csrIntv → t.intvNext = v ∧ t.csr = s.csr) ∧
        (n = csrSema → ownerPort t = if v = 0 then 0 else if ownerPort s = 0 then v else ownerPort s) ∧
        (n = csrPkgid → csrRaw t n = v ∧ (∀ m, m ≠ n → csrRaw t m = csrRaw s m) ∧
          MovesTo { s with csr := t.csr, sent := t.sent, outbox := t.outbox, kept := t.kept } t s.g (nextPc s)) ∧
        (¬ own → csrRaw t n = v ∧ (∀ m, m ≠ n → csrRaw t m = csrRaw s m) ∧ MovesTo { s with csr := t.csr } t s.g (nextPc s))))) ∧
  (∀ (s : State) (mode a b : Fin 64), Admitted s (.tlbinv mode a b) → OperandsThere s { srcs := [.k a false, .k b false] } →
    ((∃ w ∈ s.walks, w.code = 0) → exec (.tlbinv mode a b) s = .next s) ∧
    ((∀ w ∈ s.walks, w.code ≠ 0) →
      let va := (readK s.g a).toNat
      let ctx := (readK s.g b).toNat % 2 ^ 16
      ∃ t, exec (.tlbinv mode a b) s = .next t ∧ MovesTo { s with tlb := t.tlb, walks := t.walks, fmTlb := t.fmTlb } t s.g (nextPc s) ∧
        (∀ e, e ∈ t.tlb ↔
          e ∈ s.tlb ∧ ¬ ((mode.val = 0 ∧ e.ctx = ctx ∧ e.va ≤ va ∧ va < e.va + e.size) ∨ (mode.val = 1 ∧ e.ctx = ctx) ∨ mode.val = 2)) ∧
        (∀ w, w ∈ t.walks ↔
          w ∈ s.walks ∧ ¬ ((mode.val = 0 ∧ w.ctx = ctx ∧ w.va = va / 2 ^ 16 * 2 ^ 16) ∨ (mode.val = 1 ∧ w.ctx = ctx) ∨ mode.val = 2)) ∧
        t.fmTlb = if mode.val = 3 then [] else s.fmTlb))

/-- R44, R45, R142, R376: BARA waits for the release, for the thread's loads, and for an earlier arrival of its own in this phase; then it
counts one arrival of a member, and the last one completes the phase; at the gang barrier of another cluster the arrival is a message.
BAR arrives likewise and then waits as BARW does: until the phase of the thread's last arrival has completed and its accesses have landed,
when it acquires. A thread that is no member raises ILLEGAL 9. What a message on its way stands for, a thread that waits, is the model's
(log 55, DEDUCED).

R44, R45: BARRIER_MESSAGE and BARRIER_RELEASE. The home cluster counts an arrival that comes by message, and the thread has arrived in the
home's phase; a phase is over with its last member's arrival. A release tells a group that its phase has completed. -/
def Obligations.Barriers : Prop :=
  ((∀ (s : State) (n : Fin 64) (gang : Bool) (i : Instr),
    (i, gang) ∈ ([(.baraB n, false), (.barB n, false), (.barwB n, false), (.baraG n, true), (.barG n, true), (.barwG n, true)] :
      List (Instr × Bool)) →
    Admitted s i → isMember s s.g gang n.val = false → exec i s = takeTrap s { cause := 0x01, code := 9, value := wordOf i }) ∧
  (∀ (s : State) (n : Fin 64) (gang both : Bool) (i : Instr),
    (i, gang, both) ∈ ([(.baraB n, false, false), (.barB n, false, true), (.baraG n, true, false), (.barG n, true, true)] :
      List (Instr × Bool × Bool)) →
    Admitted s i → isMember s s.g gang n.val = true →
    let b := barrierOf s s.g gang n.val
    let key := barKey gang n.val
    let goes := released s s.g.core = true ∧ readsDone s s.g.tid = true ∧ awaiting s s.g gang n.val = false
    (¬ goes → exec i s = .next s) ∧
    (goes → ∃ t, exec i s = .next t ∧
      MovesTo { s with blocks := t.blocks, gangs := t.gangs, barMsgs := t.barMsgs, barRels := t.barRels, l1 := t.l1, rdc := t.rdc, kept := t.kept }
        t { s.g with barA := s.g.barA ||| BitVec.ofNat 20 (2 ^ key), barP := putT 0 s.g.barP key b.phase, wait := t.g.wait } (nextPc s) ∧
      (let c := barrierOf t s.g gang n.val
       let far := farFrom s s.g gang = true
       let last := ¬ far ∧ b.count + 1 = b.members.length
       c.members = b.members ∧ (far → c = b) ∧ (last → c.phase = b.phase + 1 ∧ c.count = 0) ∧
       (¬ far → ¬ last → c.phase = b.phase ∧ c.count = b.count + 1) ∧
       t.barMsgs = s.barMsgs ++ (if farFrom s s.g gang then [(s.g.gang, n.val, s.g.tid)] else []) ∧
       (¬ last ∨ gang = false → t.barRels = s.barRels)) ∧
      (∀ gang' n', (gang', n') ≠ (gang, n.val) → barrierOf t s.g gang' n' = barrierOf s s.g gang' n') ∧
      (let ends := both = true ∧ awaiting t t.g gang n.val = false ∧ quiet s s.g.tid = true
       (ends → Acquires s t s.g.core) ∧ (¬ ends → t.l1 = s.l1 ∧ t.rdc = s.rdc ∧ t.kept = s.kept) ∧
       t.g.wait = if both && (awaiting t t.g gang n.val || !quiet s s.g.tid) then .barrier gang n.val b.phase else .none))) ∧
  (∀ (s : State) (n : Fin 64) (gang : Bool) (i : Instr),
    (i, gang) ∈ ([(.barwB n, false), (.barwG n, true)] : List (Instr × Bool)) →
    Admitted s i → isMember s s.g gang n.val = true →
    let ends := awaiting s s.g gang n.val = false ∧ quiet s s.g.tid = true
    (ends → ∃ t, exec i s = .next t ∧ MovesTo { s with l1 := t.l1, rdc := t.rdc, kept := t.kept } t s.g (nextPc s) ∧ Acquires s t s.g.core) ∧
    (¬ ends → ∃ t, exec i s = .next t ∧
      MovesTo s t { s.g with wait := .barrier gang n.val (getT 0 s.g.barP (barKey gang n.val)) } (nextPc s)))) ∧
  (∀ (s : State) (gang n tid : Nat),
    ((gang, n, tid) ∉ s.barMsgs → exec (.barrierMessage gang n tid) s = .next s) ∧
    ((gang, n, tid) ∈ s.barMsgs → s.gangs.any (fun b => b.id == gang) = true →
      let b := getT {} (gangOf s gang).bars n
      ∃ t, exec (.barrierMessage gang n tid) s = .next t ∧ t.barMsgs = s.barMsgs.erase (gang, n, tid) ∧
        t = { s with g := t.g, others := t.others, gangs := t.gangs, barMsgs := t.barMsgs, barRels := t.barRels } ∧
        (∀ g, thread? s tid = some g → thread? t tid = some (markArrival g true n b.phase)) ∧
        (let c := getT {} (gangOf t gang).bars n
         c.members = b.members ∧
         if b.count + 1 = b.members.length then c.phase = b.phase + 1 ∧ c.count = 0 else c.phase = b.phase ∧ c.count = b.count + 1)) ∧
    exec (.barrierRelease gang n tid) s = .next { s with barRels := s.barRels.erase (gang, n, tid) })

/-- R143, R144, R242: the fences. A release completes when every store and atomic of the core is registered or performed; FENCE.ENG also
waits for the group's posted and multicast stores, its atomics at peers and its flags; an acquire waits for the thread's accesses and keeps in the core's L1 and RDC
share no byte but of words it owns and of its own stores on their way. No memory and no register changes.

R145: FENCE.FLAG writes K[b] at K[a] once the core's earlier stores to the flag's package and to its own are performed, and the thread
goes on at once: until then the flag waits. In this package's memory the eight bytes then read as K[b], and no other byte changes but
those that an owner of a touched word still held; to a peer the flag goes as a posted write.

R146: FLUSHR at this package waits for the core's release; at a peer it asks with one FLUSH packet once everything the core sent there
has been performed and no flag of the core for it still waits, and the thread waits. The check of the address is the model's (log 54,
DEDUCED), and so is that a multicast store does not count (log 61). -/
def Obligations.Fences : Prop :=
  (∀ (s : State) (i : Instr) (rel acq eng : Bool),
    (i, rel, acq, eng) ∈ ([(.fenceRel, true, false, false), (.fenceEng, true, false, true), (.fenceAcq, false, true, false),
      (.fenceAr, true, true, false)] : List (Instr × Bool × Bool × Bool)) → Admitted s i →
    let goes := (rel = true → released s s.g.core = true) ∧ (acq = true → quiet s s.g.tid = true) ∧
      (eng = true → (∀ k ∈ s.kept, k.tid = s.g.tid → k.packet.kind ≠ 0x03 ∧ k.packet.kind ≠ 0x06 ∧ k.packet.kind ≠ 0x0A) ∧
        ∀ w ∈ s.flagWrites, w.tid ≠ s.g.tid)
    (¬ goes → exec i s = .next s) ∧
    (goes → acq = false → ∃ t, exec i s = .next t ∧ MovesTo s t s.g (nextPc s)) ∧
    (goes → acq = true → ∃ t, exec i s = .next t ∧ MovesTo { s with l1 := t.l1, rdc := t.rdc, kept := t.kept } t s.g (nextPc s) ∧
      Acquires s t s.g.core)) ∧
  (∀ (s : State) (a b : Fin 64), Admitted s (.fenceFlag a b) → OperandsThere s { srcs := [.k a false, .k b false] } →
    let i := Instr.fenceFlag a b
    let access := checkAccess s s.g ⟨1, 8, 8, false, false⟩ [(0, (readK s.g a).toNat)]
    (∃ t, exec i s = .next t) ∧ (∀ u, access = .wait u → exec i s = .next u) ∧ (∀ r, access = .trap r → exec i s = takeTrap s r) ∧
    (∀ l, access = .ok l → readsDone s s.g.tid = false → exec i s = .next s) ∧
    (∀ va loc, access = .ok [(0, va, loc)] → readsDone s s.g.tid = true → s.flagWrites = [] →
      let ready := released s s.g.core = true ∧ settledAt s s.g.core (peerPkg loc) = true
      (¬ ready → ∃ t, exec i s = .next t ∧
        MovesTo { s with flagWrites := [⟨s.g.core, s.g.tid, s.g.ctx, va, loc, readK s.g b⟩] } t s.g (nextPc s)) ∧
      (ready → ∃ t, exec i s = .next t ∧ t.flagWrites = [] ∧
        (∀ pa, loc = .hbm pa → readN t.mem pa 8 = (readK s.g b).toNat ∧
          t.g.k = s.g.k ∧ t.g.v = s.g.v ∧ t.g.q = s.g.q ∧ t.g.pc = nextPc s ∧
          ∀ x, x < pa ∨ pa + 8 ≤ x → ownerOf s (x / 4) = 0 → readByte t.mem x = readByte s.mem x) ∧
        (∀ p off, loc = .peer p off → unreachable s p = 0 → ∃ q, Sends s t q ∧ q.kind = 0x03 ∧ q.dst = p ∧ q.ctx = s.g.ctx ∧
          q.offset = off / 128 * 128 ∧ q.mask = byteMask off 8 ∧ q.data = (readK s.g b).toNat * 2 ^ (8 * (off % 128)) ∧ t.mem = s.mem ∧
          t.g.k = s.g.k ∧ t.g.v = s.g.v ∧ t.g.q = s.g.q ∧ t.g.pc = nextPc s)))) ∧
  (∀ (s : State) (a : Fin 64), Admitted s (.flushr a) → OperandsThere s { srcs := [.k a false] } →
    let i := Instr.flushr a
    let access := checkAccess s s.g ⟨0, 0, 1, false, false⟩ [(0, (readK s.g a).toNat / 8 * 8)]
    (∀ u, access = .wait u → exec i s = .next u) ∧ (∀ r, access = .trap r → exec i s = takeTrap s r) ∧
    (∀ x va loc, access = .ok [(x, va, loc)] → peerPkg loc = none →
      (released s s.g.core = false → exec i s = .next s) ∧
      (released s s.g.core = true → ∃ t, exec i s = .next t ∧ MovesTo s t s.g (nextPc s))) ∧
    (∀ x va p off, access = .ok [(x, va, .peer p off)] →
      let goes := settledAt s s.g.core (some p) = true ∧ ∀ w ∈ s.flagWrites, w.core = s.g.core → peerPkg w.loc ≠ some p
      (¬ goes → exec i s = .next s) ∧
      (goes → ∃ t q, exec i s = .next t ∧ Sends s t q ∧ q.kind = 0x08 ∧ q.dst = p ∧ q.ctx = s.g.ctx ∧
        q.offset = off ∧ (∃ k ∈ t.kept, k.packet = q ∧ k.core = s.g.core ∧ k.tid = s.g.tid) ∧
        t = { s with g := { s.g with wait := .flush p }, sent := t.sent, outbox := t.outbox, sendSeq := t.sendSeq, kept := t.kept })))

/-- R152 to R156, R184: the lane instructions of two sources write each active lane of d and change nothing else. Packed forms work on
each 16-bit or 8-bit element; 32-bit forms on the low half, sign-extended.

R73, R152: a packed form works element by element: element j of the result is the function of elements j, and no carry crosses.

R159 to R165, R170: selection, bit select, sign packing, lane counts, moves and broadcasts.

R184: one round after another of the generator, six in all, the key turned left by 19 after each. -/
def Obligations.LaneResults : Prop :=
  (∀ (s : State) (o : V3) (i : Instr) (f : BitVec 64 → BitVec 64 → BitVec 64),
    (i, f) ∈ ([
      (.vaddI64 o, fun x y => x + y), (.vsubI64 o, fun x y => x - y), (.vmulI64 o, fun x y => x * y),
      (.vaddI32 o, fun x y => (x.truncate 32 + y.truncate 32 : BitVec 32).signExtend 64),
      (.vsubI32 o, fun x y => (x.truncate 32 - y.truncate 32 : BitVec 32).signExtend 64),
      (.vmulI32 o, fun x y => (x.truncate 32 * y.truncate 32 : BitVec 32).signExtend 64),
      (.vaddP16 o, zipLane 16 fun x y => x + y), (.vaddP8 o, zipLane 8 fun x y => x + y),
      (.vsubP16 o, zipLane 16 fun x y => x - y), (.vsubP8 o, zipLane 8 fun x y => x - y), (.vmulP16 o, zipLane 16 fun x y => x * y),
      (.vmulhI64 o, fun x y => BitVec.ofInt 64 (x.toInt * y.toInt / 2 ^ 64)),
      (.vrng o, rngRounds 6 0)] : List (Instr × (BitVec 64 → BitVec 64 → BitVec 64))) ++ ([
      (.vminI64 o, fun x y => if x.toInt ≤ y.toInt then x else y), (.vmaxI64 o, fun x y => if y.toInt ≤ x.toInt then x else y),
      (.vminI32 o, fun x y => (if (x.truncate 32).toInt ≤ (y.truncate 32).toInt then x.truncate 32 else y.truncate 32 : BitVec 32).signExtend 64),
      (.vmaxI32 o, fun x y => (if (y.truncate 32).toInt ≤ (x.truncate 32).toInt then x.truncate 32 else y.truncate 32 : BitVec 32).signExtend 64),
      (.vminN32 o, fun x y => BitVec.ofNat 64 (min (x.toNat % 2 ^ 32) (y.toNat % 2 ^ 32))),
      (.vmaxN32 o, fun x y => BitVec.ofNat 64 (max (x.toNat % 2 ^ 32) (y.toNat % 2 ^ 32))),
      (.vminP16 o, zipLane 16 fun x y => if x.toInt ≤ y.toInt then x else y),
      (.vmaxP16 o, zipLane 16 fun x y => if y.toInt ≤ x.toInt then x else y),
      (.vaddsP16 o, zipLane 16 fun x y => BitVec.ofInt 16 (max (-32768) (min (x.toInt + y.toInt) 32767))),
      (.vaddsP8 o, zipLane 8 fun x y => BitVec.ofInt 8 (max (-128) (min (x.toInt + y.toInt) 127))),
      (.vaddsP16n o, zipLane 16 fun x y => BitVec.ofNat 16 (min (x.toNat + y.toNat) 65535)),
      (.vaddsP8n o, zipLane 8 fun x y => BitVec.ofNat 8 (min (x.toNat + y.toNat) 255)),
      (.vcmpmGtP16 o, zipLane 16 fun x y => if y.toInt < x.toInt then 0xFFFF else 0),
      (.vcmpmEqP16 o, zipLane 16 fun x y => if x = y then 0xFFFF else 0)] : List (Instr × (BitVec 64 → BitVec 64 → BitVec 64))) ++ ([
      (.vand o, fun x y => x &&& y), (.vor o, fun x y => x ||| y), (.vxor o, fun x y => x ^^^ y), (.vandn o, fun x y => x &&& ~~~y),
      (.vshl o, fun x y => x <<< (y.toNat % 64)), (.vshr o, fun x y => x >>> (y.toNat % 64)),
      (.vsha o, fun x y => x.sshiftRight (y.toNat % 64)), (.vrot o, fun x y => x.rotateLeft (y.toNat % 64))]
      : List (Instr × (BitVec 64 → BitVec 64 → BitVec 64))) →
    let act := activeMask s.g o.q
    Admitted s i →
    OperandsThere s { bounds := [o.d, o.a, o.b], preds := [o.q], act := act, dstV := [o.d], srcs := [.v o.a o.ea, .v o.b o.eb] } →
    ∃ t, exec i s = .next t ∧ WritesLanes s t o.d act (fun n => f (readV s.g o.a n) (readV s.g o.b n)) 0) ∧
  ((∀ (f : BitVec 16 → BitVec 16 → BitVec 16) (x y : BitVec 64) (j : Nat), j < 4 →
    elemOf 16 (zipLane 16 f x y) j = f (elemOf 16 x j) (elemOf 16 y j)) ∧
  (∀ (f : BitVec 8 → BitVec 8 → BitVec 8) (x y : BitVec 64) (j : Nat), j < 8 →
    elemOf 8 (zipLane 8 f x y) j = f (elemOf 8 x j) (elemOf 8 y j))) ∧
  ((∀ (s : State) (o : V3), Admitted s (.vsel o) →
    OperandsThere s { bounds := [o.d, o.a, o.b], preds := [o.q], act := s.g.M, dstV := [o.d], srcs := [.v o.a o.ea, .v o.b o.eb] } →
    ∃ t, exec (.vsel o) s = .next t ∧
      WritesLanes s t o.d s.g.M (fun n => if (readQ s.g o.q).getLsbD n then readV s.g o.a n else readV s.g o.b n) 0) ∧
  (∀ (s : State) (o : V3), Admitted s (.vbsl o) →
    OperandsThere s { bounds := [o.d, o.a, o.b], preds := [o.q], act := activeMask s.g o.q, dstV := [o.d]
                      srcs := [.v o.a o.ea, .v o.b o.eb, .v o.d false] } →
    ∃ t, exec (.vbsl o) s = .next t ∧ WritesLanes s t o.d (activeMask s.g o.q)
      (fun n => (readV s.g o.d n &&& readV s.g o.a n) ||| (~~~(readV s.g o.d n) &&& readV s.g o.b n)) 0) ∧
  (∀ (s : State) (o : V2), Admitted s (.vpackmP16 o) →
    OperandsThere s { bounds := [o.d, o.a], preds := [o.q], act := activeMask s.g o.q, dstV := [o.d], srcs := [.v o.a o.ea, .v o.d false] } →
    ∃ t, exec (.vpackmP16 o) s = .next t ∧ WritesLanes s t o.d (activeMask s.g o.q)
      (fun n => let x := readV s.g o.a n
        readV s.g o.d n * 16 + BitVec.ofNat 64 (bit (x.getLsbD 15) + 2 * bit (x.getLsbD 31) + 4 * bit (x.getLsbD 47) + 8 * bit (x.getLsbD 63))) 0) ∧
  (∀ (s : State) (o : PA), Admitted s (.vpopc o) →
    OperandsThere s { bounds := [o.d], preds := [o.q, o.a], act := activeMask s.g o.q, dstV := [o.d] } →
    ∃ t, exec (.vpopc o) s = .next t ∧ WritesLanes s t o.d (activeMask s.g o.q)
      (fun n => BitVec.ofNat 64 ((lanesOf s.g (activeMask s.g o.q)).countP fun m => decide (m < n) && (readQ s.g o.a).getLsbD m)) 0) ∧
  (∀ (s : State) (o : V2), Admitted s (.vmov o) →
    OperandsThere s { bounds := [o.d, o.a], preds := [o.q], act := activeMask s.g o.q, dstV := [o.d], srcs := [.v o.a o.ea] } →
    ∃ t, exec (.vmov o) s = .next t ∧ WritesLanes s t o.d (activeMask s.g o.q) (readV s.g o.a) 0) ∧
  (∀ (s : State) (o : V2), Admitted s (.vbcast o) →
    OperandsThere s { bounds := [o.d], preds := [o.q], act := activeMask s.g o.q, dstV := [o.d], srcs := [.k o.a o.ea] } →
    ∃ t, exec (.vbcast o) s = .next t ∧ WritesLanes s t o.d (activeMask s.g o.q) (fun _ => readK s.g o.a) 0)) ∧
  (∀ (key x : BitVec 64), rngRounds 6 0 key x =
    ((List.range 6).foldl (fun (st : BitVec 64 × BitVec 64) r =>
      let a := st.2 + (st.1 ^^^ BitVec.ofNat 64 ((r + 1) * 0x8F3A61D4C25BE917))
      let b := (a ^^^ BitVec.ofNat 64 (a.toNat / 2 ^ 29)) * 0xA3C59E1B6D274F8B
      (BitVec.ofNat 64 (st.1.toNat * 2 ^ 19 + st.1.toNat / 2 ^ 45), b ^^^ BitVec.ofNat 64 (b.toNat / 2 ^ 32))) (key, x)).2)

/-- R164, R165: one lane to a scalar, whatever the mask, and a scalar to one active lane.

R166 to R169: lane exchange. A source lane that does not exist gives 0 for VLANE and leaves the lane as it was for VSHUP. -/
def Obligations.LaneMoves : Prop :=
  ((∀ (s : State) (o : S3), Admitted s (.vext o) →
    OperandsThere s { bounds := [o.a], act := s.g.M, dstK := [o.d], srcs := [.all o.a o.ea, .k o.b o.eb] } →
    let n := (readK s.g o.b).toNat
    ∃ t, exec (.vext o) s = .next t ∧ MovesTo s t (writeK s.g o.d (if n < laneCount s.g then readV s.g o.a n else 0)) (nextPc s)) ∧
  (∀ (s : State) (o : V3), Admitted s (.vins o) →
    OperandsThere s { bounds := [o.d], preds := [o.q], act := activeMask s.g o.q, dstV := [o.d], srcs := [.k o.a o.ea, .k o.b o.eb] } →
    let n := (readK s.g o.b).toNat
    ∃ t, exec (.vins o) s = .next t ∧
      WritesLanes s t o.d (activeMask s.g o.q &&& BitVec.ofNat 512 (if n < 512 then 2 ^ n else 0)) (fun _ => readK s.g o.a) 0)) ∧
  ((∀ (s : State) (o : V3) (i : Instr) (f : Nat → BitVec 64),
    (i, f) ∈ ([
      (.vshfl o, fun n => readV s.g o.a (32 * (n / 32) + (readV s.g o.b n).toNat % 32)),
      (.vlane o, fun n => if (readV s.g o.b n).toNat < laneCount s.g then readV s.g o.a (readV s.g o.b n).toNat else 0)]
      : List (Instr × (Nat → BitVec 64))) →
    Admitted s i →
    OperandsThere s { bounds := [o.d, o.a, o.b], preds := [o.q], act := activeMask s.g o.q, dstV := [o.d]
                      srcs := [.all o.a o.ea, .all o.b o.eb] } →
    ∃ t, exec i s = .next t ∧ WritesLanes s t o.d (activeMask s.g o.q) f 0) ∧
  (∀ (s : State) (o : V3),
    OperandsThere s { bounds := [o.d, o.a], preds := [o.q], act := activeMask s.g o.q, dstV := [o.d], srcs := [.all o.a o.ea, .k o.b o.eb] } →
    (Admitted s (.vshup o) → ∃ t, exec (.vshup o) s = .next t ∧ WritesLanes s t o.d 
      (activeMask s.g o.q &&& (BitVec.allOnes 512 <<< (readK s.g o.b).toNat)) (fun n => readV s.g o.a (n - (readK s.g o.b).toNat)) 0) ∧
    (Admitted s (.vswzP16 o) → ∃ t, exec (.vswzP16 o) s = .next t ∧ WritesLanes s t o.d (activeMask s.g o.q)
      (fun n => packLane 16 4 fun j => elemOf 16 (readV s.g o.a n) ((readK s.g o.b).toNat / 4 ^ j % 4)) 0)))

/-- R157, R179, R55: a compare sets the bits of the active lanes of Q[d] and leaves the others; d = 0 discards. The predicate is busy
until its rows complete. Floating-point compares raise NV as their entry says.

R87, R171 to R175: reductions write a scalar: the fold of the active lanes in the tree of R87 with the identity when no lane is
active; VCOUNT counts lanes; VSCAN writes inclusive prefix sums.

R171, R87: the integer sum over the lanes is their sum modulo 2^64, in whatever order the tree adds them. -/
def Obligations.ComparesReductions : Prop :=
  ((∀ (s : State) (o : P3) (i : Instr) (f : BitVec 64 → BitVec 64 → Bool × Flags),
    (i, f) ∈ ([
      (.vcmpEqI64 o, fun x y => (x == y, 0)), (.vcmpLtI64 o, fun x y => (decide (x.toInt < y.toInt), 0)),
      (.vcmpLtnI64 o, fun x y => (decide (x.toNat < y.toNat), 0)), (.vcmpLeI64 o, fun x y => (decide (x.toInt ≤ y.toInt), 0)),
      (.vcmpEqI32 o, fun x y => (x.truncate 32 == (y.truncate 32 : BitVec 32), 0)),
      (.vcmpLtI32 o, fun x y => (decide ((x.truncate 32 : BitVec 32).toInt < (y.truncate 32 : BitVec 32).toInt), 0)),
      (.vfcmpEqD o, fun x y => fcmpBits fmtD 0 x.toNat y.toNat), (.vfcmpLtD o, fun x y => fcmpBits fmtD 1 x.toNat y.toNat),
      (.vfcmpLeD o, fun x y => fcmpBits fmtD 2 x.toNat y.toNat), (.vfcmpUnD o, fun x y => fcmpBits fmtD 3 x.toNat y.toNat),
      (.vfcmpEqF o, fun x y => fcmpBits fmtF 0 (x.toNat % 2 ^ 32) (y.toNat % 2 ^ 32)),
      (.vfcmpLtF o, fun x y => fcmpBits fmtF 1 (x.toNat % 2 ^ 32) (y.toNat % 2 ^ 32)),
      (.vfcmpLeF o, fun x y => fcmpBits fmtF 2 (x.toNat % 2 ^ 32) (y.toNat % 2 ^ 32)),
      (.vfcmpUnF o, fun x y => fcmpBits fmtF 3 (x.toNat % 2 ^ 32) (y.toNat % 2 ^ 32))]
      : List (Instr × (BitVec 64 → BitVec 64 → Bool × Flags))) →
    let act := activeMask s.g o.q
    Admitted s i →
    OperandsThere s { bounds := [o.a, o.b], preds := [o.q], late := [o.d], act := act, srcs := [.v o.a o.ea, .v o.b o.eb] } →
    ∃ t, exec i s = .next t ∧
      MovesTo { s with flights := t.flights, nextId := t.nextId } t { s.g with q := t.g.q, qBusy := t.g.qBusy, fpflags := t.g.fpflags } (nextPc s) ∧
      (∀ p, p ≠ o.d → readQ t.g p = readQ s.g p) ∧
      (o.d ≠ 0 → ∀ n, n < 512 → (readQ t.g o.d).getLsbD n =
        if n < laneCount s.g ∧ act.getLsbD n = true then (f (readV s.g o.a n) (readV s.g o.b n)).1 else (readQ s.g o.d).getLsbD n) ∧
      (o.d = 0 ∨ act = 0 → t.flights = s.flights ∧ t.g.qBusy = s.g.qBusy) ∧
      (o.d ≠ 0 → act ≠ 0 → t.g.qBusy = s.g.qBusy ||| BitVec.ofNat 8 (2 ^ o.d.val) ∧
        ∃ fl, t.flights = s.flights ++ [fl] ∧ fl.tid = s.g.tid ∧ fl.dest = .pred o.d ∧ fl.rows = rowsOf (lanesOf s.g act) ∧ fl.reqs = []) ∧
      t.g.fpflags = ((lanesOf s.g act).map fun n => (f (readV s.g o.a n) (readV s.g o.b n)).2).foldl (fun a b => a ||| b) s.g.fpflags)) ∧
  ((∀ (s : State) (o : V2) (i : Instr) (r : BitVec 64 × Flags),
    let act := activeMask s.g o.q
    (i, r) ∈ ([
      (.vrsumI64 o, ((tree (leafOf s.g o.a act) (fun x y => x + y) (treeHeight s.g) 0).getD 0, 0)),
      (.vrminI64 o, ((tree (leafOf s.g o.a act) (fun x y => if x.toInt < y.toInt then x else y) (treeHeight s.g) 0).getD 0x7FFFFFFFFFFFFFFF, 0)),
      (.vrmaxI64 o, ((tree (leafOf s.g o.a act) (fun x y => if x.toInt < y.toInt then y else x) (treeHeight s.g) 0).getD 0x8000000000000000, 0)),
      (.vrsumD o, sumTree s.g fmtD o.a act), (.vrsumF o, sumTree s.g fmtF o.a act),
      (.vargmaxF o, (match argMax (((lanesOf s.g act).map fun n => (n, unpack fmtF ((readV s.g o.a n).toNat % 2 ^ 32))).filter
          fun x => !isNan x.2) with
        | none => BitVec.allOnes 64
        | some x => BitVec.ofNat 64 x.1, 0))] : List (Instr × (BitVec 64 × Flags))) →
    Admitted s i → OperandsThere s { bounds := [o.a], preds := [o.q], act := act, dstK := [o.d], srcs := [.all o.a o.ea] } →
    ∃ t, exec i s = .next t ∧ MovesTo s t { writeK s.g o.d r.1 with fpflags := s.g.fpflags ||| r.2 } (nextPc s)) ∧
  (∀ (s : State) (o : PA), Admitted s (.vcount o) →
    OperandsThere s { preds := [o.q, o.a], act := activeMask s.g o.q, dstK := [o.d] } →
    ∃ t, exec (.vcount o) s = .next t ∧
      MovesTo s t (writeK s.g o.d (BitVec.ofNat 64 (lanesOf s.g (activeMask s.g o.q &&& readQ s.g o.a)).length)) (nextPc s)) ∧
  (∀ (s : State) (o : V2), Admitted s (.vscanI32 o) →
    OperandsThere s { bounds := [o.d, o.a], preds := [o.q], act := activeMask s.g o.q, dstV := [o.d], srcs := [.all o.a o.ea] } →
    ∃ t, exec (.vscanI32 o) s = .next t ∧ WritesLanes s t o.d (activeMask s.g o.q)
      (fun n => (((lanesOf s.g (activeMask s.g o.q)).filter (· ≤ n)).foldl
        (fun (acc : BitVec 32) m => acc + (readV s.g o.a m).truncate 32) 0).signExtend 64) 0)) ∧
  (∀ (g : Group) (a : Fin 64) (act : Mask), g.rows ≤ 16 →
    (tree (leafOf g a act) (fun x y => x + y) (treeHeight g) 0).getD 0 = ((lanesOf g act).map (readV g a)).foldl (fun x y => x + y) 0)

/-- R176 to R178: elementwise floating-point arithmetic: each active lane of d, and the flags of every element OR-ed into fpflags. What each
operation gives is said by FloatRounding.

R178, R180 to R183: one-source floating-point instructions, conversions and approximations. `VEXP2.f` and `VLOG2.f` give what the 256-bit
computation of log 8 (DEDUCED) gives; FloatRounding says the rest. -/
def Obligations.FloatLanes : Prop :=
  (∀ (s : State) (o : V3) (i : Instr) (f : FloatFmt) (third : Bool) (k : Nat → Nat → Nat → Nat × Flags),
    let m := modeOf s.g
    (i, f, third, k) ∈ ([
      (.vfaddD o, fmtD, false, fun a b _ => addReal fmtD m (unpack fmtD a) (unpack fmtD b)),
      (.vfaddF o, fmtF, false, fun a b _ => addReal fmtF m (unpack fmtF a) (unpack fmtF b)),
      (.vfaddH4 o, fmtH, false, fun a b _ => addReal fmtH m (unpack fmtH a) (unpack fmtH b)),
      (.vfaddB4 o, fmtB, false, fun a b _ => addReal fmtB m (unpack fmtB a) (unpack fmtB b)),
      (.vfsubD o, fmtD, false, fun a b _ => addReal fmtD m (unpack fmtD a) (negate (unpack fmtD b))),
      (.vfsubF o, fmtF, false, fun a b _ => addReal fmtF m (unpack fmtF a) (negate (unpack fmtF b))),
      (.vfsubH4 o, fmtH, false, fun a b _ => addReal fmtH m (unpack fmtH a) (negate (unpack fmtH b))),
      (.vfsubB4 o, fmtB, false, fun a b _ => addReal fmtB m (unpack fmtB a) (negate (unpack fmtB b))),
      (.vfmulD o, fmtD, false, fun a b _ => mulReal fmtD m (unpack fmtD a) (unpack fmtD b)),
      (.vfmulF o, fmtF, false, fun a b _ => mulReal fmtF m (unpack fmtF a) (unpack fmtF b)),
      (.vfmulH4 o, fmtH, false, fun a b _ => mulReal fmtH m (unpack fmtH a) (unpack fmtH b)),
      (.vfmulB4 o, fmtB, false, fun a b _ => mulReal fmtB m (unpack fmtB a) (unpack fmtB b)),
      (.vfmaD o, fmtD, true, fun a b d => fmaReal fmtD m (unpack fmtD a) (unpack fmtD b) (unpack fmtD d)),
      (.vfmaF o, fmtF, true, fun a b d => fmaReal fmtF m (unpack fmtF a) (unpack fmtF b) (unpack fmtF d)),
      (.vfmaH4 o, fmtH, true, fun a b d => fmaReal fmtH m (unpack fmtH a) (unpack fmtH b) (unpack fmtH d)),
      (.vfmaB4 o, fmtB, true, fun a b d => fmaReal fmtB m (unpack fmtB a) (unpack fmtB b) (unpack fmtB d)),
      (.vfminD o, fmtD, false, fun a b _ => minMaxBits fmtD false a b), (.vfmaxD o, fmtD, false, fun a b _ => minMaxBits fmtD true a b),
      (.vfminF o, fmtF, false, fun a b _ => minMaxBits fmtF false a b), (.vfmaxF o, fmtF, false, fun a b _ => minMaxBits fmtF true a b),
      (.vfdivD o, fmtD, false, fun a b _ => divReal fmtD m (unpack fmtD a) (unpack fmtD b)),
      (.vfdivF o, fmtF, false, fun a b _ => divReal fmtF m (unpack fmtF a) (unpack fmtF b))]
      : List (Instr × FloatFmt × Bool × (Nat → Nat → Nat → Nat × Flags))) →
    let act := activeMask s.g o.q
    let lane (n : Nat) : BitVec 64 × Flags := mapElems f fun e =>
      k (rawElem f (readV s.g o.a n) e) (rawElem f (readV s.g o.b n) e) (rawElem f (readV s.g o.d n) e)
    Admitted s i →
    OperandsThere s { bounds := [o.d, o.a, o.b], preds := [o.q], act := act, dstV := [o.d]
                      srcs := [.v o.a o.ea, .v o.b o.eb] ++ (if third then [.v o.d false] else []) } →
    ∃ t, exec i s = .next t ∧
      WritesLanes s t o.d act (fun n => (lane n).1) ((lanesOf s.g act).foldl (fun acc n => acc ||| (lane n).2) 0)) ∧
  ((∀ (s : State) (o : V2) (i : Instr) (k : Nat → Nat × Flags),
    let m := modeOf s.g
    (i, k) ∈ ([
      (.vfsqrtD o, fun x => sqrtReal fmtD m (unpack fmtD x)), (.vfsqrtF o, fun x => sqrtReal fmtF m (unpack fmtF (x % 2 ^ 32))),
      (.vfrintD o, fun x => rintReal fmtD m (unpack fmtD x)), (.vfrintF o, fun x => rintReal fmtF m (unpack fmtF (x % 2 ^ 32))),
      (.vfclassD o, fun x => (classOf fmtD x, 0)), (.vfclassF o, fun x => (classOf fmtF (x % 2 ^ 32), 0)),
      (.vrcpF o, fun x => rcpF12 (unpack fmtF (x % 2 ^ 32))), (.vrsqF o, fun x => rsqF12 (unpack fmtF (x % 2 ^ 32))),
      (.vexp2F o, fun x => exp2F12 (unpack fmtF (x % 2 ^ 32))), (.vlog2F o, fun x => log2F12 (unpack fmtF (x % 2 ^ 32)))]
      : List (Instr × (Nat → Nat × Flags))) →
    let act := activeMask s.g o.q
    Admitted s i → OperandsThere s { bounds := [o.d, o.a], preds := [o.q], act := act, dstV := [o.d], srcs := [.v o.a o.ea] } →
    ∃ t, exec i s = .next t ∧
      WritesLanes s t o.d act (fun n => BitVec.ofNat 64 (k (readV s.g o.a n).toNat).1)
        ((lanesOf s.g act).foldl (fun acc n => acc ||| (k (readV s.g o.a n).toNat).2) 0)) ∧
  (∀ (s : State) (o : VC),
    let act := activeMask s.g o.q
    let mode := if o.r = 0 then modeOf s.g else if o.r = 1 then 0 else if o.r = 2 then 1 else 4
    Admitted s (.vcvt o) → OperandsThere s { bounds := [o.d, o.a], preds := [o.q], act := act, dstV := [o.d], srcs := [.v o.a o.ea] } →
    ∃ t, exec (.vcvt o) s = .next t ∧
      WritesLanes s t o.d act (fun n => BitVec.ofNat 64 (convLane o.c.val mode (readV s.g o.a n).toNat).1)
        ((lanesOf s.g act).foldl (fun acc n => acc ||| (convLane o.c.val mode (readV s.g o.a n).toNat).2) 0)))

/-- R383, Table 24.1: alignment is checked before any other address check: where a lane's address is no multiple of the access's size,
the access traps with ALIGN 1, naming the lanes that offend and no other.

R386, Table 24.2: of the flaws of a descriptor, one in a reserved field or code is reported before one of a range, and among equals
the lowest word, then the lowest bit. -/
def Obligations.FaultOrder : Prop :=
  (∀ (s : State) (g : Group) (f : Form) (lanes : List (Nat × Nat)),
    (∃ x ∈ lanes, x.2 % f.align ≠ 0) →
    ∃ r, checkAccess s g f lanes = .trap r ∧ r.cause = 0x0A ∧ r.code = 1 ∧
      (f.lanes = true → ∀ n, n < 512 → (r.mask.getLsbD n = true ↔ ∃ x ∈ lanes, x.1 = n ∧ x.2 % f.align ≠ 0)) ∧
      (∀ a, a ∈ r.addrs ↔ ∃ x ∈ lanes, x.2 % f.align ≠ 0 ∧ a = x.2 % 2 ^ 57)) ∧
  (∀ (l : List Flaw) (f : Flaw), (∀ g ∈ l, g.bit < 64 ∧ g.word < 15) → firstFlaw l = some f →
    f ∈ l ∧ ∀ g ∈ l, (f.reserved = true ∨ g.reserved = false) ∧
      (f.reserved = g.reserved → f.word < g.word ∨ (f.word = g.word ∧ f.bit ≤ g.bit)))

/-- R190, R191, R35, R378, R383: a vector load. The thread goes on; the rows of d that hold an active lane are empty until its flight
lands; the flight carries the value of every lane that is there at once and a request for every other one; a load that has to ask a peer
stays at its word. Memory and every other register are unchanged. With no active lane nothing happens. It waits for the thread's own
accesses to the same bytes and for a slot of the queue; bytes of a store that an open window holds end the window. A cache policy at an
aperture address raises ILLEGAL 7.

R194, R65: PREF drops lanes with an address problem, and changes no register and nothing of the package but caches, the home bytes of
recalled lines, requests to peers, and walks; in an open speculation window such a lane ends the window. A line of this package enters the
core's L1 at level 0; at level 1 its RDC share when its home is on another die, and else the home L2. A peer's line is in the share, or is
asked for. That PREF waits for the page walks of its lanes, and that it brings nothing while no miss entry is free or the peer cannot be
reached, is the model's (log 45, DEDUCED). -/
def Obligations.VectorLoads : Prop :=
  (∀ (s : State) (o : M) (i : Instr) (size : Nat) (spad : Bool),
    (i, size, spad) ∈ ([(.vldD o, 8, false), (.vldW o, 4, false), (.vldH o, 2, false), (.vldB o, 1, false), (.sld o, spadBytes o.cp, true)]
      : List (Instr × Nat × Bool)) →
    let act := activeMask s.g o.q
    let phys := physReg s.g o.t
    let vas := laneAddrs s.g act o.k o.x o.m size
    Admitted s i →
    OperandsThere s { bounds := addrFields [o.t] o.x o.m, preds := [o.q], srcs := addrSrcs o.k o.x o.et o.m, act := act, dstAll := [o.t] } →
    (spad = false → badPolicy o.cp vas = true → exec i s =
      takeTrap s { cause := 0x01, code := 7, value := wordOf i, reg := o.k.val, rfile := 0 }) ∧
    (spad = true ∨ badPolicy o.cp vas = false → Checks s (checkAccess s s.g ⟨0, size, size, spad, true⟩ vas) (exec i s) fun l =>
      (l = [] → ∃ t, exec i s = .next t ∧ MovesTo s t s.g (nextPc s)) ∧
      (l ≠ [] → overHeld s s.g.tid size l = true → exec i s = endWindow s) ∧
      (l ≠ [] → overHeld s s.g.tid size l = false → stillOpen s s.g.tid size l = true ∨ queueRoom s s.g.core = false → exec i s = .next s) ∧
      (l ≠ [] → overHeld s s.g.tid size l = false → stillOpen s s.g.tid size l = false → queueRoom s s.g.core = true →
        ∃ t, exec i s = .next t ∧
          LoadsTo s t (setRows s.g phys (rowsOf (l.map fun x => x.1)) true) (.vector phys) false
            (if spad then .normal else if o.cp = 1 then .bypass else if o.cp = 2 then .stream else .normal) false size l)) ∧
    (∀ p r rows, p < 256 → r < 16 → rowEmpty (setRows s.g phys rows true) p r = (rowEmpty s.g p r || (p == phys && rows.getLsbD r)))) ∧
  (∀ (s : State) (o : M0),
    let act := activeMask s.g o.q
    let place (a : Nat) : Xlate := translate s s.g.tid s.g.ctx a 0
    let locked (a : Nat) : Bool := s.sections.any fun e => meets s.g e a 1
    let vas := ((lanesOf s.g act).map (prefAddr s.g o)).filter fun a => !inAperture a
    let drops := ∃ a ∈ vas, locked a = true ∨ ∃ c, place a = .fault c
    let unresolved := ∃ w, windowOf s s.g.tid = some w ∧ w.resolved = none
    Admitted s (.pref o) → OperandsThere s { bounds := addrFields [] o.x o.m, preds := [o.q], srcs := addrSrcs o.k o.x o.et o.m, act := act } →
    ((∃ a ∈ vas, place a = .miss) → exec (.pref o) s = .next (startWalks s s.g (vas.filter fun a => place a == .miss))) ∧
    ((∀ a ∈ vas, place a ≠ .miss) → unresolved → drops → exec (.pref o) s = endWindow s) ∧
    ((∀ a ∈ vas, place a ≠ .miss) → ¬ (unresolved ∧ drops) → ∃ t, exec (.pref o) s = .next t ∧
      MovesTo { s with mem := t.mem, l1 := t.l1, rdc := t.rdc, l2 := t.l2, walks := t.walks, free := t.free, kept := t.kept, sent := t.sent
                       outbox := t.outbox, sendSeq := t.sendSeq, trapWait := t.trapWait, bad := t.bad, ecc := t.ecc } t s.g (nextPc s) ∧
      (∀ a, vas = [a] → locked a = false →
        (∀ pa, place a = .ok (.hbm pa) → missRoom s s.g.core (pa / 128) = true →
          (o.cp = 0 → l1Room s s.g.core 1 = true → (l1Line t s.g.core (pa / 128)).valid = BitVec.allOnes 128) ∧
          (o.cp ≠ 0 → remoteLine s.g.core (pa / 128) = true → (rdcLine t s.g.core (pa / 128)).valid = BitVec.allOnes 128) ∧
          (o.cp ≠ 0 → remoteLine s.g.core (pa / 128) = false → getT 0 t.l2 (pa / 128) ≠ 0)) ∧
        (∀ p off, place a = .ok (.peer p off) → fabricUp s = true → unreachable s p = 0 → rdcMissRoom s s.g.core = true →
          (rdcLine t s.g.core (lineKey (.peer p off))).valid = BitVec.allOnes 128 ∨
          ∃ k ∈ t.kept, lineAsked s.g.core k = true ∧ k.packet.dst = p ∧ k.packet.offset = off / 128 * 128))))

/-- R192, R193, R383: scalar loads and acquire loads. K[d], or the rows of d, are empty until the flight lands; an acquire form makes the
thread wait for it, and with no active lane is an acquire alone.

R302, R383: a scalar load that has to ask a peer, while the core has a miss entry free, sends one RDREQ for the line, and the thread waits
at it for the reply. -/
def Obligations.ScalarLoads : Prop :=
  ((∀ (s : State) (d a : Fin 64) (i : Instr) (va size : Nat) (signed acq : Bool),
    (∃ imm : BitVec 13, (i, va, size, signed, acq) ∈ ([
      (.ldkD ⟨d, a, imm⟩, (readK s.g a + immS s.g imm).toNat, 8, false, false),
      (.ldkW ⟨d, a, imm⟩, (readK s.g a + immS s.g imm).toNat, 4, true, false), (.ldkAcq d a, (readK s.g a).toNat, 8, false, true)] :
      List (Instr × Nat × Nat × Bool × Bool))) →
    Admitted s i → OperandsThere s { srcs := [.k a false], dstK := [d] } →
    Checks s (checkAccess s s.g ⟨0, size, size, false, false⟩ [(0, va)]) (exec i s) fun l =>
      (overHeld s s.g.tid size l = true → exec i s = endWindow s) ∧
      (overHeld s s.g.tid size l = false → stillOpen s s.g.tid size l = true ∨ queueRoom s s.g.core = false → exec i s = .next s) ∧
      (overHeld s s.g.tid size l = false → stillOpen s s.g.tid size l = false → queueRoom s s.g.core = true →
        ∃ t, exec i s = .next t ∧ LoadsTo s t (setKEmpty s.g d true) (.scalar d) signed (if acq then .bypass else .normal) acq size l)) ∧
  (∀ (s : State) (d a b : Fin 64), Admitted s (.vldAcq d a b) →
    OperandsThere s { bounds := [d, b], srcs := [.k a false, .v b false], act := s.g.M, dstAll := [d] } →
    let phys := physReg s.g d
    Checks s (checkAccess s s.g ⟨0, 8, 8, false, true⟩ (formAddrs s.g a b)) (exec (.vldAcq d a b) s) fun l =>
      (l = [] → quiet s s.g.tid = false → exec (.vldAcq d a b) s = .next s) ∧
      (l = [] → quiet s s.g.tid = true → ∃ t, exec (.vldAcq d a b) s = .next t ∧
        MovesTo { s with l1 := t.l1, rdc := t.rdc, kept := t.kept } t s.g (nextPc s) ∧ Acquires s t s.g.core) ∧
      (l ≠ [] → stillOpen s s.g.tid 8 l = true ∨ queueRoom s s.g.core = false → exec (.vldAcq d a b) s = .next s) ∧
      (l ≠ [] → stillOpen s s.g.tid 8 l = false → queueRoom s s.g.core = true →
        ∃ t, exec (.vldAcq d a b) s = .next t ∧
          LoadsTo s t (setRows s.g phys (rowsOf (l.map fun x => x.1)) true) (.vector phys) false .bypass true 8 l))) ∧
  (∀ (s : State) (o : SI) (va p off : Nat), Admitted s (.ldkD o) → OperandsThere s { srcs := [.k o.a false], dstK := [o.d] } →
    checkAccess s s.g ⟨0, 8, 8, false, false⟩ [(0, (readK s.g o.a + immS s.g o.imm).toNat)] = .ok [(0, va, .peer p off)] →
    overHeld s s.g.tid 8 [(0, va, .peer p off)] = false → stillOpen s s.g.tid 8 [(0, va, .peer p off)] = false → queueRoom s s.g.core = true → rdcMissRoom s s.g.core = true →
    valueNow s s.g.core 8 false (.peer p off) = none →
    ∃ t q f, exec (.ldkD o) s = .next t ∧ t.g = { s.g with wait := .peer s.nextId } ∧ t.mem = s.mem ∧ Sends s t q ∧
      q.kind = 0x01 ∧ q.dst = p ∧ q.offset = off / 128 * 128 ∧ q.ctx = s.g.ctx ∧ q.src = pkgNum s ∧ t.flights = s.flights ++ [f] ∧ f.id = s.nextId)

/-- R65, R190 to R193, R187, R263, R383: stores. In an open speculation window a store is held: nothing is written, and the thread goes
on. Outside one it waits for the thread's own accesses to the same bytes, for the values of its earlier loads, and for room; then the
thread goes on with its registers as they were, and the bytes go out lane by lane. Release forms wait for the core's release first.

R191, R238, R187: a scratchpad store writes the bytes of its lanes at their banks and no other byte of any scratchpad or of memory. A
byte that one lane alone covers takes that lane's value.

R192, R239, R240: a scalar store to this package's memory leaves its bytes in the core's L1 and asks for the registration of the
words touched; until the home accepts it, every byte as the home reads it is as before.

R190, R239, R240: a vector store of the normal or stream policy to this package's memory leaves the bytes of each lane in the core's L1,
dirty and not yet accepted, and asks for the registration of every word touched; every byte as the home reads it is as before. A byte that one
lane alone covers has that lane's value.

R190, R243: a bypass store to this package's memory changes no byte at issue: its lanes are requests that its home performs.

R192, R241, R274: a scalar store to a peer that can be reached posts one PWR packet with its bytes, and the core's own copies take
them; a store to a notify register is on its way to it. No byte of memory changes. -/
def Obligations.StoresWrite : Prop :=
  ((∀ (s : State) (o : M) (i : Instr) (size : Nat) (spad : Bool),
    (i, size, spad) ∈ ([(.vstD o, 8, false), (.vstW o, 4, false), (.vstH o, 2, false), (.vstB o, 1, false), (.sst o, spadBytes o.cp, true)]
      : List (Instr × Nat × Bool)) →
    let act := activeMask s.g o.q
    let vas := laneAddrs s.g act o.k o.x o.m size
    Admitted s i →
    OperandsThere s { bounds := addrFields [o.t] o.x o.m, preds := [o.q], srcs := addrSrcs o.k o.x o.et o.m ++ [.v o.t o.et], act := act } →
    (spad = false → badPolicy o.cp vas = true → exec i s =
      takeTrap s { cause := 0x01, code := 7, value := wordOf i, reg := o.k.val, rfile := 0 }) ∧
    (spad = true ∨ badPolicy o.cp vas = false → Checks s (checkAccess s s.g ⟨1, size, size, spad, true⟩ vas) (exec i s) fun l =>
      StoresTo s (exec i s) (if spad then .normal else if o.cp = 1 then .bypass else if o.cp = 2 then .stream else .normal) size (l.map fun x => (x.1, x.2.1, x.2.2, (readV s.g o.t x.1).toNat)))) ∧
  (∀ (s : State) (o : SI) (i : Instr) (size : Nat), (i, size) ∈ ([(.stkD o, 8), (.stkW o, 4)] : List (Instr × Nat)) →
    Admitted s i → OperandsThere s { srcs := [.k o.a false, .k o.d false] } →
    Checks s (checkAccess s s.g ⟨1, size, size, false, false⟩ [(0, (readK s.g o.a + immS s.g o.imm).toNat)]) (exec i s) fun l =>
      StoresTo s (exec i s) .normal size (l.map fun x => (noLane, x.2.1, x.2.2, (readK s.g o.d).toNat))) ∧
  (∀ (s : State) (a b : Fin 64), Admitted s (.stkRel a b) → OperandsThere s { srcs := [.k a false, .k b false] } →
    Checks s (checkAccess s s.g ⟨1, 8, 8, false, false⟩ [(0, (readK s.g a).toNat)]) (exec (.stkRel a b) s) fun l =>
      let goes := released s s.g.core = true ∧ readsDone s s.g.tid = true
      (¬ goes → exec (.stkRel a b) s = .next s) ∧
      (goes → StoresTo s (exec (.stkRel a b) s) .normal 8 (l.map fun x => (noLane, x.2.1, x.2.2, (readK s.g b).toNat)))) ∧
  (∀ (s : State) (d a b : Fin 64), Admitted s (.vstRel d a b) →
    OperandsThere s { bounds := [d, b], srcs := [.v d false, .k a false, .v b false], act := s.g.M } →
    Checks s (checkAccess s s.g ⟨1, 8, 8, false, true⟩ (formAddrs s.g a b)) (exec (.vstRel d a b) s) fun l =>
      let goes := released s s.g.core = true ∧ readsDone s s.g.tid = true
      (¬ goes → exec (.vstRel d a b) s = .next s) ∧
      (goes → StoresTo s (exec (.vstRel d a b) s) .normal 8 (l.map fun x => (x.1, x.2.1, x.2.2, (readV s.g d x.1).toNat))))) ∧
  (∀ (s : State) (o : M) (l : List (Nat × Nat × Loc)),
    let act := activeMask s.g o.q
    let size := spadBytes o.cp
    Admitted s (.sst o) →
    OperandsThere s { bounds := addrFields [o.t] o.x o.m, preds := [o.q], srcs := addrSrcs o.k o.x o.et o.m ++ [.v o.t o.et], act := act } →
    checkAccess s s.g ⟨1, size, size, true, true⟩ (laneAddrs s.g act o.k o.x o.m size) = .ok l →
    windowOf s s.g.tid = none → storeWaits s .normal size l = false →
    (∀ x ∈ l, ∃ b off, x.2.2 = .spad b off ∧ s.blocks.any (fun k => k.id == b) = true) →
    let covers (x : Nat × Nat × Loc) (b a : Nat) : Prop := ∃ off, x.2.2 = .spad b off ∧ off ≤ a ∧ a < off + size
    ∃ t, exec (.sst o) s = .next t ∧ MovesTo { s with blocks := t.blocks } t s.g (nextPc s) ∧
      (∀ b a, (∀ x ∈ l, ¬ covers x b a) → readByte (blockOf t b).spad a = readByte (blockOf s b).spad a) ∧
      (∀ x ∈ l, ∀ b a off, x.2.2 = .spad b off → off ≤ a → a < off + size → (∀ y ∈ l, covers y b a → y = x) →
        readByte (blockOf t b).spad a = BitVec.ofNat 8 ((readV s.g o.t x.1).toNat / 2 ^ (8 * (a - off))))) ∧
  (∀ (s : State) (o : SI) (i : Instr) (size va pa : Nat),
    (i, size) ∈ ([(.stkD o, 8), (.stkW o, 4)] : List (Instr × Nat)) →
    Admitted s i → OperandsThere s { srcs := [.k o.a false, .k o.d false] } → windowOf s s.g.tid = none →
    checkAccess s s.g ⟨1, size, size, false, false⟩ [(0, (readK s.g o.a + immS s.g o.imm).toNat)] = .ok [(0, va, .hbm pa)] →
    storeWaits s .normal size [(0, va, .hbm pa)] = false → pa % size = 0 → pa < 2 ^ 52 →
    ∃ t, exec i s = .next t ∧ t.g.k = s.g.k ∧ t.g.v = s.g.v ∧ t.g.pc = nextPc s ∧
      lineRead (l1Line t s.g.core (pa / 128)) (pa % 128) size = (readK s.g o.d).toNat % 2 ^ (8 * size) ∧
      lineHas (l1Line t s.g.core (pa / 128)) (pa % 128) size = true ∧
      (∀ w ∈ wordsOf pa size, t.pending.any (fun p => p.core == s.g.core && p.word == w) = true) ∧
      (∀ x, x < 2 ^ 52 → coherentByte t x = coherentByte s x)) ∧
  (∀ (s : State) (o : M) (i : Instr) (size : Nat) (l : List (Nat × Nat × Loc)),
    (i, size) ∈ ([(.vstD o, 8), (.vstW o, 4), (.vstH o, 2), (.vstB o, 1)] : List (Instr × Nat)) → o.cp ≠ 1 →
    let act := activeMask s.g o.q
    let vas := laneAddrs s.g act o.k o.x o.m size
    let pol : Policy := if o.cp = 2 then .stream else .normal
    Admitted s i →
    OperandsThere s { bounds := addrFields [o.t] o.x o.m, preds := [o.q], srcs := addrSrcs o.k o.x o.et o.m ++ [.v o.t o.et], act := act } →
    windowOf s s.g.tid = none → badPolicy o.cp vas = false → checkAccess s s.g ⟨1, size, size, false, true⟩ vas = .ok l →
    (∀ x ∈ l, ∃ pa, x.2.2 = .hbm pa ∧ pa % size = 0 ∧ pa < 2 ^ 52) → storeWaits s pol size l = false →
    let covers (x : Nat × Nat × Loc) (a : Nat) : Prop := ∃ pa, x.2.2 = .hbm pa ∧ pa ≤ a ∧ a < pa + size
    ∃ t, exec i s = .next t ∧ t.g.k = s.g.k ∧ t.g.v = s.g.v ∧ t.g.pc = nextPc s ∧
      (∀ x ∈ l, ∀ pa a, x.2.2 = .hbm pa → pa ≤ a → a < pa + size →
        (l1Line t s.g.core (a / 128)).fresh.getLsbD (a % 128) = true ∧ lineHas (l1Line t s.g.core (a / 128)) (a % 128) 1 = true ∧
        t.pending.any (fun p => p.core == s.g.core && p.word == a / 4) = true ∧
        ((∀ y ∈ l, covers y a → y = x) →
          lineRead (l1Line t s.g.core (a / 128)) (a % 128) 1 = (readV s.g o.t x.1).toNat / 2 ^ (8 * (a - pa)) % 256)) ∧
      (∀ x, x < 2 ^ 52 → coherentByte t x = coherentByte s x)) ∧
  (∀ (s : State) (o : M) (i : Instr) (size : Nat) (l : List (Nat × Nat × Loc)),
    (i, size) ∈ ([(.vstD o, 8), (.vstW o, 4), (.vstH o, 2), (.vstB o, 1)] : List (Instr × Nat)) → o.cp = 1 →
    let act := activeMask s.g o.q
    let vas := laneAddrs s.g act o.k o.x o.m size
    Admitted s i →
    OperandsThere s { bounds := addrFields [o.t] o.x o.m, preds := [o.q], srcs := addrSrcs o.k o.x o.et o.m ++ [.v o.t o.et], act := act } →
    windowOf s s.g.tid = none → badPolicy o.cp vas = false → checkAccess s s.g ⟨1, size, size, false, true⟩ vas = .ok l → l ≠ [] →
    (∀ x ∈ l, ∃ pa, x.2.2 = .hbm pa) → storeWaits s .bypass size l = false →
    ∃ t f, exec i s = .next t ∧ MovesTo { s with flights := s.flights ++ [f], nextId := s.nextId + 1 } t s.g (nextPc s) ∧
      f.id = s.nextId ∧ f.tid = s.g.tid ∧ f.core = s.g.core ∧ f.dest = .none ∧ f.rows = 0 ∧
      f.reqs = l.map fun x => ⟨x.1, x.2.2, size, .store, (readV s.g o.t x.1).toNat, false, x.2.1⟩) ∧
  (∀ (s : State) (o : SI) (i : Instr) (size va : Nat) (loc : Loc),
    (i, size) ∈ ([(.stkD o, 8), (.stkW o, 4)] : List (Instr × Nat)) →
    Admitted s i → OperandsThere s { srcs := [.k o.a false, .k o.d false] } → windowOf s s.g.tid = none →
    checkAccess s s.g ⟨1, size, size, false, false⟩ [(0, (readK s.g o.a + immS s.g o.imm).toNat)] = .ok [(0, va, loc)] →
    storeWaits s .normal size [(0, va, loc)] = false →
    (∀ p off, loc = .peer p off → unreachable s p = 0 →
      ∃ t q, exec i s = .next t ∧ Sends s t q ∧ q.kind = 0x03 ∧ q.dst = p ∧ q.ctx = s.g.ctx ∧ q.offset = off / 128 * 128 ∧ q.len = 2 ∧
        q.mask = byteMask off size ∧ q.data = (readK s.g o.d).toNat % 2 ^ (8 * size) * 2 ^ (8 * (off % 128)) ∧
        MovesTo { s with l1 := t.l1, rdc := t.rdc, kept := t.kept, sent := t.sent, outbox := t.outbox, sendSeq := t.sendSeq } t s.g (nextPc s) ∧
        (off % size = 0 → ∀ v, valueNow t s.g.core size false loc = some v → v = (readK s.g o.d).toNat % 2 ^ (8 * size))) ∧
    (∀ q, q < 4096 → loc = .csr (csrNotify q) 0 → ∃ t, exec i s = .next t ∧
      MovesTo { s with notifies := s.notifies ++ [(q, (readK s.g o.d).toNat % 2 ^ 32, s.g.core)] } t s.g (nextPc s)))

/-- R196, R197, R199, R383: a vector atomic. The rows of d are empty, and the flight holds one request for each distinct address, with the
operands of its lanes in ascending order; memory and scratchpads are unchanged until the requests are performed at their homes and banks.
One that asks a peer stays at its word. With no active lane nothing happens. It waits for the thread's own accesses to the same bytes, for
the values of its earlier loads, and for a slot of the queue.

R198, R199, R383: a scalar atomic: K[d] is empty, and the flight holds the one request, with K[b] and, for a compare and swap, the
expected value of K[d]; nothing is written until it is performed.

R196 to R198, Table 09.5: the lanes of an integer atomic combine in ascending order: each lane's old value is what the lane before it left;
and what each member leaves. R89: the lanes of a floating-point add fold their operands first, each step rounded to nearest; the memory takes
the fold of all, the first lane's old value is the word found, and each later lane's is the word with the fold of the lanes before it. -/
def Obligations.Atomics : Prop :=
  (∀ (s : State) (o : V3) (i : Instr) (size : Nat) (signed : Bool) (op : AtomOp),
    (i, size, signed, op) ∈ ([
      (.vatomAddI32 o, 4, true, .add), (.vatomMinI32 o, 4, true, .minS), (.vatomMaxI32 o, 4, true, .maxS), (.vatomXchgI32 o, 4, true, .xchg),
      (.vatomAddI64 o, 8, false, .add), (.vatomMinI64 o, 8, false, .minS), (.vatomMaxI64 o, 8, false, .maxS),
      (.vatomXchgI64 o, 8, false, .xchg), (.vatomAddF o, 4, false, .addF), (.vatomAddD o, 8, false, .addD), (.vatomAndI64 o, 8, false, .and),
      (.vatomOrI64 o, 8, false, .or), (.vcasI32 o, 4, true, .cas), (.vcasI64 o, 8, false, .cas)] : List (Instr × Nat × Bool × AtomOp)) →
    let act := activeMask s.g o.q
    let phys := physReg s.g o.d
    Admitted s i →
    OperandsThere s { bounds := [o.d, o.a, o.b], preds := [o.q], act := act, dstAll := [o.d]
                      srcs := [.v o.a o.ea, .v o.b o.eb] ++ (if op = .cas then [.v o.d false] else []) } →
    Checks s (checkAccess s s.g ⟨2, size, size, false, true⟩ ((lanesOf s.g act).map fun n => (n, (readV s.g o.a n).toNat))) (exec i s) fun l =>
      let goes := stillOpen s s.g.tid size l = false ∧ readsDone s s.g.tid = true ∧ queueRoom s s.g.core = true
      (l = [] → ∃ t, exec i s = .next t ∧ MovesTo s t s.g (nextPc s)) ∧ (l ≠ [] → ¬ goes → exec i s = .next s) ∧
      (l ≠ [] → goes → ∃ t, exec i s = .next t ∧
        AtomsTo s t (setRows s.g phys (rowsOf (l.map fun x => x.1)) true) (.vector phys) signed size op l
          (fun n => (readV s.g o.b n).toNat) (fun n => (readV s.g o.d n).toNat))) ∧
  (∀ (s : State) (d a b : Fin 64) (i : Instr) (op : AtomOp),
    (i, op) ∈ ([(.atomkAdd d a b, .add), (.atomkXchg d a b, .xchg), (.cask d a b, .cas), (.atomkFadd d a b, .addD)] : List (Instr × AtomOp)) →
    Admitted s i →
    OperandsThere s { srcs := [.k a false, .k b false] ++ (if op = .cas then [.k d false] else []), dstK := [d] } →
    Checks s (checkAccess s s.g ⟨2, 8, 8, false, false⟩ [(0, (readK s.g a).toNat)]) (exec i s) fun l =>
      let goes := stillOpen s s.g.tid 8 l = false ∧ readsDone s s.g.tid = true ∧ queueRoom s s.g.core = true
      (¬ goes → exec i s = .next s) ∧
      (goes → ∃ t, exec i s = .next t ∧
        AtomsTo s t (setKEmpty s.g d true) (.scalar d) false 8 op l (fun _ => (readK s.g b).toNat) (fun _ => (readK s.g d).toNat))) ∧
  ((∀ (op : AtomOp) (size m lane x e : Nat) (rest : List (Nat × Nat × Nat)), op ≠ .addF → op ≠ .addD →
    (runAtom op size m ((lane, x, e) :: rest)).1 = (lane, m) :: (runAtom op size (combine op size m x e).1 rest).1 ∧
    (runAtom op size m ((lane, x, e) :: rest)).2.1 = (runAtom op size (combine op size m x e).1 rest).2.1 ∧
    (runAtom op size m []).2.1 = m) ∧
  (∀ (size m x e : Nat), size = 4 ∨ size = 8 →
    let int (n : Nat) : Int := (BitVec.ofNat (8 * size) n).toInt
    combine .add size m x e = ((m + x) % 2 ^ (8 * size), 0) ∧ combine .minS size m x e = (if int x < int m then x else m, 0) ∧
    combine .maxS size m x e = (if int m < int x then x else m, 0) ∧ combine .xchg size m x e = (x, 0) ∧
    combine .and size m x e = (m &&& x, 0) ∧ combine .or size m x e = (m ||| x, 0) ∧
    combine .cas size m x e = (if m = e then x else m, 0) ∧ combine .addF size m x e = addReal fmtF 0 (unpack fmtF m) (unpack fmtF x) ∧
    combine .addD size m x e = addReal fmtD 0 (unpack fmtD m) (unpack fmtD x)) ∧
  (∀ (op : AtomOp) (size m lane x e : Nat) (rest : List (Nat × Nat × Nat)), op = .addF ∨ op = .addD →
    let fold (n : Nat) : Nat := (rest.take n).foldl (fun p y => (combine op size p y.2.1 0).1) x
    (runAtom op size m ((lane, x, e) :: rest)).1 = (lane, m) :: rest.mapIdx (fun n y => (y.1, (combine op size m (fold n) 0).1)) ∧
    (runAtom op size m ((lane, x, e) :: rest)).2.1 = (combine op size m (fold rest.length) 0).1))

/-- R200 to R202: LOCK sends its request and waits for the grant; UNLOCK, after the core's release, sends its message and goes on; an
address without a home slice here raises ILLEGAL 7 (for control space, a window and a multicast leaf this is log 33, DEDUCED, and so is that a
WAITM there returns at once), and so does a WAITM on a scratchpad. A WAITM whose word differs from K[b], or that finds no monitor free, returns
the word with an acquire; one whose word equals it waits, armed. At a peer it asks for the line and waits.

R204, R205, R249, R378: XPECT posts bytes to an arrival record; WAITC goes on once the chunks of its mask, or for mask 0 the whole record,
are there and its thread's accesses have landed, and its end is an acquire (log 61 for a record that only copies to a scratchpad feed); ARST clears a record that no section-table entry names. An index above 63
and a count of 2^40 or more raise ILLEGAL 7, a record that the block does not have ILLEGAL 10, a busy one at ARST ILLEGAL 11. -/
def Obligations.LocksRecords : Prop :=
  ((∀ (s : State) (a : Fin 64) (i : Instr), i = .lock a ∨ i = .unlock a → Admitted s i → OperandsThere s { srcs := [.k a false] } →
    Checks s (checkLanes s s.g ⟨2, 8, 8, false, false⟩ false [(0, (readK s.g a).toNat)]) (exec i s) fun l => ∀ va loc, l = [(0, va, loc)] →
      ((∀ pa, loc ≠ .hbm pa) → exec i s = takeTrap s { cause := 0x01, code := 7, value := wordOf i, reg := a.val, rfile := 0 }) ∧
      (∀ pa, loc = .hbm pa →
        let goes := queueRoom s s.g.core = true ∧ (i = .unlock a → released s s.g.core = true ∧ readsDone s s.g.tid = true)
        (¬ goes → exec i s = .next s) ∧
        (goes → i = .lock a → exec i s = .next
          { s with g := { s.g with wait := .lock (pa / 8) va }, lockMsgs := s.lockMsgs ++ [.request (pa / 8) s.g.tid] }) ∧
        (goes → i = .unlock a → ∃ t r, exec i s = .next t ∧
          MovesTo { s with lockMsgs := s.lockMsgs ++ [.unlock (pa / 8) s.g.tid r] } t
            { s.g with locks := s.g.locks.filter fun x => x.1 != pa / 8 } (nextPc s)))) ∧
  (∀ (s : State) (d a b : Fin 64), let i := Instr.waitm d a b
    Admitted s i → OperandsThere s { srcs := [.k a false, .k b false], dstK := [d] } →
    Checks s (checkAccess s s.g ⟨0, 8, 8, false, false⟩ [(0, (readK s.g a).toNat)]) (exec i s) fun l => ∀ va loc, l = [(0, va, loc)] →
      let full := decide (64 ≤ monitorsOf s s.g.core)
      let goes := quiet s s.g.tid = true ∧ notYetHome s s.g.core loc 8 = false ∧
        (queueRoom s s.g.core = true ∨ ((∀ pa, loc ≠ .hbm pa) ∧ peerPkg loc = none))
      let returns (v : Nat) : Prop := ∃ t, exec i s = .next t ∧
        MovesTo { s with l1 := t.l1, rdc := t.rdc, kept := t.kept } t (writeK s.g d (BitVec.ofNat 64 v)) (nextPc s) ∧ Acquires s t s.g.core
      let armed (x y : Bool) : List Monitor := s.monitors ++ [⟨s.g.tid, s.g.core, loc, d.val, readK s.g b, x, y, va⟩]
      let waiting := { setKEmpty s.g d true with wait := .monitor }
      (∀ k off, loc = .spad k off → exec i s = takeTrap s { cause := 0x01, code := 7, value := wordOf i, reg := a.val, rfile := 0 }) ∧
      ((∀ k off, loc ≠ .spad k off) → ¬ goes → exec i s = .next s) ∧
      (∀ pa, loc = .hbm pa → goes → homeRead s pa 8 ≠ (readK s.g b).toNat ∨ full = true → returns (homeRead s pa 8)) ∧
      (∀ pa, loc = .hbm pa → goes → homeRead s pa 8 = (readK s.g b).toNat → full = false →
        exec i s = .next { s with g := waiting, monitors := armed true false }) ∧
      (∀ p off, loc = .peer p off → goes → ∃ t q, exec i s = .next t ∧ Sends s t q ∧ q.kind = 0x01 ∧ q.dst = p ∧
        q.offset = off / 128 * 128 ∧ q.ctx = s.g.ctx ∧
        t = { s with g := waiting, monitors := armed false full, sent := t.sent, outbox := t.outbox, sendSeq := t.sendSeq, kept := t.kept }) ∧
      (∀ n c, loc = .csr n c ∨ loc = .window n c ∨ loc = .mcast n c → goes → returns (placeRead s loc 8)))) ∧
  ((∀ (s : State) (a b : Fin 64) (i : Instr), i ∈ ([.xpect a b, .waitc a b, .arst a] : List Instr) → Admitted s i →
    OperandsThere s { srcs := [.k a false] ++ (if i = .arst a then [] else [.k b false]) } →
    let x := (readK s.g a).toNat
    let illegal (code : Nat) (r : Fin 64) : Prop :=
      exec i s = takeTrap s { cause := 0x01, code := code, value := wordOf i, reg := r.val, rfile := 0 }
    (64 ≤ x → illegal 7 a) ∧ (x < 64 → i = .xpect a b → 2 ^ 40 ≤ (readK s.g b).toNat → illegal 7 b) ∧
    (x < 64 → (i = .xpect a b → (readK s.g b).toNat < 2 ^ 40) → hasRecord s s.g.block x = false → illegal 10 a) ∧
    (x < 64 → i = .arst a → hasRecord s s.g.block x = true → recBusy s s.g x = true → illegal 11 a)) ∧
  (∀ (s : State) (a b : Fin 64), Admitted s (.xpect a b) → OperandsThere s { srcs := [.k a false, .k b false] } →
    let x := (readK s.g a).toNat
    let n := (readK s.g b).toNat
    x < 64 → n < 2 ^ 40 → hasRecord s s.g.block x = true →
    ∃ t, exec (.xpect a b) s = .next t ∧ MovesTo { s with blocks := t.blocks } t s.g (nextPc s) ∧
      recordAt t s.g.block x = { recordAt s s.g.block x with posted := true, exp := (recordAt s s.g.block x).exp + BitVec.ofNat 40 n } ∧
      (∀ k y, k ≠ s.g.block ∨ y ≠ x → recordAt t k y = recordAt s k y)) ∧
  (∀ (s : State) (a b : Fin 64), Admitted s (.waitc a b) → OperandsThere s { srcs := [.k a false, .k b false] } →
    let x := (readK s.g a).toNat
    let m := readK s.g b
    let r := recordAt s s.g.block x
    let there := (m = 0 ∧ r.posted = true ∧ r.exp = r.rcv) ∨ (m ≠ 0 ∧ r.chunks &&& m = m)
    x < 64 → hasRecord s s.g.block x = true →
    (¬ there ∨ quiet s s.g.tid = false → exec (.waitc a b) s = .next s) ∧
    (there → quiet s s.g.tid = true → ∃ t, exec (.waitc a b) s = .next t ∧
      MovesTo { s with l1 := t.l1, rdc := t.rdc, kept := t.kept } t s.g (nextPc s) ∧ Acquires s t s.g.core)) ∧
  (∀ (s : State) (a : Fin 64), Admitted s (.arst a) → OperandsThere s { srcs := [.k a false] } →
    let x := (readK s.g a).toNat
    x < 64 → hasRecord s s.g.block x = true → recBusy s s.g x = false →
    ∃ t, exec (.arst a) s = .next t ∧ MovesTo { s with blocks := t.blocks } t s.g (nextPc s) ∧
      (recordAt t s.g.block x).posted = false ∧ (recordAt t s.g.block x).exp = 0 ∧ (recordAt t s.g.block x).rcv = 0 ∧
      (recordAt t s.g.block x).chunks = 0 ∧ (∀ k y, k ≠ s.g.block ∨ y ≠ x → recordAt t k y = recordAt s k y)))

/-- R42, R48, R200, R201, R380: a queue-lock unit. A core's messages to a slice are taken in order. A request goes to its lock when the lock has
one of the 256 entries of its slice or takes a free one, and none waits there before it; else it waits at the slice. A free lock is taken and
granted; a held one queues the request behind the others. An unlock of the holder hands the lock to its oldest waiter or frees it; of another
thread it is a fault. A grant lets the thread go on holding the lock, with an acquire. A withdrawal takes a thread that still waits for the lock out
of the queue, unless the lock is already granted. A release notice hands on what the thread held, once no UNLOCK of the thread is under way to
the slice.

R202: MONITOR_WAKE of a monitor that was woken, and MONITOR_RELEASE. On a place of this package the word is returned as it stands: K[d] takes
it, with an acquire, and the thread goes on; a monitor that was not woken stays at MONITOR_WAKE. On a peer's line the line is read once more
first: it is asked for when the monitor is armed. -/
def Obligations.LockMessages : Prop :=
  (∀ (s : State) (key tid : Nat),
    let req := LockMsg.request key tid
    let ws := waitingAt s (lockSlice key)
    let enters := (∀ w ∈ ws, w.1 ≠ key) ∧ ((lockOf s key).entry = true ∨ (ws = [] ∧ entriesOf s (lockSlice key) < 256))
    let takes (t : State) (msgs : List LockMsg) : Prop := (∀ k, k ≠ key → lockOf t k = lockOf s k) ∧
      ((lockOf s key).holder = 0 → t = { s with locks := t.locks, lockMsgs := msgs ++ [.grant key tid] } ∧ (lockOf t key).holder = tid + 1) ∧
      ((lockOf s key).holder ≠ 0 → t = { s with locks := t.locks, lockMsgs := msgs } ∧
        (lockOf t key).waiters = (lockOf s key).waiters ++ [tid] ∧ (lockOf t key).holder = (lockOf s key).holder)
    let handsOn (t : State) : Prop :=
      (∀ u us, (lockOf s key).waiters = u :: us → (lockOf t key).holder = u + 1 ∧ (lockOf t key).waiters = us ∧ .grant key u ∈ t.lockMsgs) ∧
      ((lockOf s key).waiters = [] → (lockOf t key).holder = 0)
    (req ∉ s.lockMsgs → .waiting key tid ∉ s.lockMsgs → exec (.lockRequest key tid) s = .next s) ∧
    (req ∈ s.lockMsgs → sentBefore s req = true → exec (.lockRequest key tid) s = .next s) ∧
    (req ∈ s.lockMsgs → sentBefore s req = false →
      (enters → ∃ t, exec (.lockRequest key tid) s = .next t ∧ takes t (s.lockMsgs.erase req)) ∧
      (¬ enters → exec (.lockRequest key tid) s = .next { s with lockMsgs := s.lockMsgs.erase req ++ [.waiting key tid] })) ∧
    (req ∉ s.lockMsgs → .waiting key tid ∈ s.lockMsgs →
      (mayEnter s key tid = true → ∃ t, exec (.lockRequest key tid) s = .next t ∧ takes t (s.lockMsgs.erase (.waiting key tid))) ∧
      (mayEnter s key tid = false → exec (.lockRequest key tid) s = .next s)) ∧
    (∀ r, s.lockMsgs.findSome? (unlockMsg key tid) = some r →
      (sentBefore s (.unlock key tid r) = true → exec (.unlockRequest key tid) s = .next s) ∧
      (sentBefore s (.unlock key tid r) = false → (lockOf s key).holder = tid + 1 →
        ∃ t, exec (.unlockRequest key tid) s = .next t ∧ t = { s with locks := t.locks, lockMsgs := t.lockMsgs } ∧ handsOn t) ∧
      (sentBefore s (.unlock key tid r) = false → (lockOf s key).holder ≠ tid + 1 →
        exec (.unlockRequest key tid) s =
          .next (asyncFault { s with lockMsgs := s.lockMsgs.erase (.unlock key tid r) } (r.core + if r.mcc then 96 else 0) r))) ∧
    (.grant key tid ∈ s.lockMsgs → ∀ g, thread? s tid = some g →
      (∀ va, g.wait = .lock key va → quiet s tid = true →
        ∃ t, exec (.lockGrant key tid) s = .next t ∧ Acquires s t g.core ∧ t.lockMsgs = s.lockMsgs.erase (.grant key tid) ∧
          t = { s with g := t.g, others := t.others, l1 := t.l1, rdc := t.rdc, kept := t.kept, lockMsgs := t.lockMsgs } ∧
          thread? t tid = some (advance { g with wait := .none, locks := (key, va) :: g.locks })) ∧
      (quiet s tid = false ∨ (∀ va, g.wait ≠ .lock key va) → exec (.lockGrant key tid) s = .next s)) ∧
    (.withdraw key tid ∈ s.lockMsgs → req ∉ s.lockMsgs → ∃ t, exec (.lockWithdrawal key tid) s = .next t ∧
      t.lockMsgs = (s.lockMsgs.erase (.withdraw key tid)).erase (.waiting key tid) ∧ (lockOf t key).holder = (lockOf s key).holder ∧
      ((lockOf s key).holder = tid + 1 ∨ waitsFor s tid key = false → t = { s with lockMsgs := t.lockMsgs }) ∧
      ((lockOf s key).holder ≠ tid + 1 → waitsFor s tid key = true → tid ∉ (lockOf t key).waiters ∧
        ∀ g, thread? s tid = some g → thread? t tid = some { g with wait := .none, pc := unitPc g, run := [], landed := false })) ∧
    (∀ slice, .notice tid slice ∈ s.lockMsgs → unlockUnderWay s tid slice = true → exec (.lockReleaseNotice tid slice) s = .next s) ∧
    (∀ slice, .notice tid slice ∈ s.lockMsgs → unlockUnderWay s tid slice = false → heldAt s tid slice = [key] →
      ∃ t, exec (.lockReleaseNotice tid slice) s = .next t ∧ t = { s with locks := t.locks, lockMsgs := t.lockMsgs } ∧ handsOn t)) ∧
  (∀ (s : State) (m : Monitor) (i : Instr), i ∈ ([.monitorWake m.tid, .monitorRelease m.tid] : List Instr) →
    s.monitors.find? (fun x => x.tid == m.tid) = some m →
    (peerPkg m.loc = none → i = .monitorWake m.tid → m.woken = false → exec i s = .next s) ∧
    (peerPkg m.loc = none → (i = .monitorWake m.tid → m.woken = true) → ∃ t, exec i s = .next t ∧ Acquires s t m.core ∧
      t = { s with g := t.g, others := t.others, l1 := t.l1, rdc := t.rdc, kept := t.kept, monitors := s.monitors.filter fun x => x.tid != m.tid } ∧
      ∀ g, thread? s m.tid = some g → ∃ h, thread? t m.tid = some h ∧ h.wait = .none ∧ h.pc = g.pc + 4 ∧
        (m.d % 64 ≠ 0 → readK h (kAt m.d) = BitVec.ofNat 64 (placeRead s m.loc 8) ∧ kIsEmpty h (kAt m.d) = false) ∧
        ∀ n, n ≠ kAt m.d → readK h n = readK g n) ∧
    (∀ p off, m.loc = .peer p off →
      (m.armed = true ∧ m.woken = false ∧ unreachable s p = 0 → ∃ t q, exec i s = .next t ∧ Sends s t q ∧ q.kind = 0x01 ∧ q.dst = p ∧
        q.offset = off / 128 * 128 ∧ t.g = s.g ∧ t.mem = s.mem ∧ ∀ x ∈ t.monitors, x.tid = m.tid → x.woken = true) ∧
      (¬ (m.armed = true ∧ m.woken = false ∧ unreachable s p = 0) → exec i s = .next s)))

/-- R206, R208 to R212, R225, R226, R249, R386, R387: an engine instruction. A flaw of its descriptor raises a layout fault, a place outside
its scratchpad SPAD_BOUND. It waits for a queue slot, for section-table entries and for the values of the thread's earlier loads. Then one
operation enters its queue with the descriptor as read at issue; each of its ranges is registered; its bytes are posted to the record it
names, unless it is receive-only; the token scalar is empty; the thread goes on; memory is unchanged. Logs 13 (GATH's count is read at issue),
35 (edges of layouts, the faults of CPY.L) and 61 (an overlap of CPY.REM is named at word 2 bit 0) are DEDUCED or DESIGN CHOICE.

R212, R376, R378, R387: CPY.L copies one element of 4 to 16 bytes for each active lane; with its control word and places in order it enters
the copy request queue with the lanes' source addresses. A reserved bit of the control word raises ILLEGAL 7, a record that the block does
not have ILLEGAL 10 (log 35), an address out of place the fault of its lanes. -/
def Obligations.EngineIssue : Prop :=
  (∀ (s : State) (d a b : Fin 64) (i : Instr) (kind : EngKind) (desc : List (BitVec 64)) (flaws : List Flaw)
    (places : List (Option (Nat × Nat))) (nnz : Nat) (room : Bool),
    let one (n : Nat) := readRegs s.g a.val n
    let gnnz := engPeek s s.g (bits (word (one 4) 0) 56 0 + 4 * bits (word (one 4) 3) 6 0) 4
    let ends (k : EngKind) (z : Nat) := (rangesOf (makeOp s.g k d.val (one 4)) z).map fun r => apRange s s.g r.2.1 (r.2.2 - r.2.1 + 1) 1
    let box := one 12 ++ readRegs s.g b.val 3
    let clu := cluOfCore s.g.core
    (i, kind, desc, flaws, places, nnz, room) ∈ ([
      (.cpyT d a b, .cpyT, box, layoutFlaws s box, boxPlaces s box, 0, copyRoom s s.g.core),
      (.cpyTs d a b, .cpyTs, box, layoutFlaws s box, boxPlaces s box, 0, copyRoom s s.g.core),
      (.cpyRed d a, .cpyRed, one 4, redFlaws s (one 4),
        [apRange s s.g (bits (word (one 4) 1) 56 0) (bits (word (one 4) 2) 31 0) (elemSize (bits (word (one 4) 2) 39 32))], 0,
        copyRoom s s.g.core),
      (.cpyRem d a, .cpyRem, one 3, remFlaws s (one 3),
        [apRange s s.g (bits (word (one 3) 1) 56 0) (bits (word (one 3) 2) 39 0) 16,
         apRange s s.g (bits (word (one 3) 0) 56 0) (bits (word (one 3) 2) 39 0) 16], 0, copyRoom s s.g.core),
      (.qntEnc d a, .qntEnc, one 4, qntFlaws true (one 4), ends .qntEnc 0, 0, quantRoom s clu),
      (.qntDec d a, .qntDec, one 4, qntFlaws false (one 4), ends .qntDec 0, 0, quantRoom s clu),
      (.gath d a, .gath, one 4, gathFlaws (one 4) gnnz, ends .gath gnnz, gnnz, quantRoom s clu)]
      : List (Instr × EngKind × List (BitVec 64) × List Flaw × List (Option (Nat × Nat)) × Nat × Bool)) →
    Admitted s i →
    OperandsThere s { srcs := (List.range desc.length).map (fun n => Src.k (if n < 12 then kAt (a.val + n) else kAt (b.val + (n - 12))) false)
                      dstK := [d] } →
    let ranges := rangesOf (makeOp s.g kind d.val desc) nnz
    let goes := room = true ∧ sectionRoom s s.g.core ranges.length = true ∧ readsDone s s.g.tid = true
    (∀ f, firstFlaw flaws = some f →
      exec i s = takeTrap s { cause := if f.reserved then 0x0B else 0x0C, code := f.bit, value := f.word, reg := a.val, rfile := 0 }) ∧
    (flaws = [] → ∀ x, some x ∈ places → (∀ y, some y ∈ places → x.1 < y.1 ∨ x = y) →
      exec i s = takeTrap s { cause := 0x07, code := x.2, addrs := [x.1] }) ∧
    (flaws = [] → (∀ p ∈ places, p = none) → ¬ goes → exec i s = .next s) ∧
    (flaws = [] → (∀ p ∈ places, p = none) → goes →
      ∃ t op, exec i s = .next t ∧ t.engines = s.engines ++ [op] ∧
        MovesTo { s with engines := t.engines, sections := t.sections, blocks := t.blocks, nextId := s.nextId + 1 } t (setKEmpty s.g d true) (nextPc s) ∧
        op.id = s.nextId ∧ op.kind = kind ∧ op.desc = desc ∧ op.tid = s.g.tid ∧ op.core = s.g.core ∧ op.ctx = s.g.ctx ∧ op.token = d.val ∧
        op.pos = 0 ∧ op.landed = 0 ∧ op.accepted = false ∧
        t.sections.length = s.sections.length + ranges.length ∧
        (∀ e ∈ t.sections, e ∈ s.sections ∨ (e.op = op.id ∧ e.core = s.g.core ∧ e.token = d.val)) ∧
        (op.useRec = false → t.blocks = s.blocks) ∧
        (op.useRec = true → (recordAt t op.recBlk op.recIdx).exp = (recordAt s op.recBlk op.recIdx).exp +
          (if kind = .cpyRem ∧ (word desc 2).getLsbD 47 then 0 else BitVec.ofNat 40 (opBytes op))))) ∧
  (∀ (s : State) (o : ML),
    let act := activeMask s.g o.q
    let n := 4 * 2 ^ o.cp.val
    let w := readK s.g o.k
    let lanes := (lanesOf s.g act).map fun i => (i, (readV s.g o.x i).toNat)
    let blk := (namedBlock s s.g (bits w 27 0)).getD s.g.block
    let i := Instr.cpyL o
    let clean := bits w 31 28 = 0 ∧ bits w 63 40 = 0
    let known := recordOk s blk (w.getLsbD 38) (bits w 37 32) = true
    let fault := laneCopyFault s s.g n (lanes.map fun x => (x.1, x.2, bits w 27 0 + n * x.1))
    let goes := copyRoom s s.g.core = true ∧ sectionRoom s s.g.core (if lanes = [] then 0 else 1) = true ∧ readsDone s s.g.tid = true
    Admitted s i →
    OperandsThere s { bounds := [o.x], preds := [o.q], srcs := [.k o.k o.et, .v o.x o.et], act := act, dstK := [o.t] } →
    (¬ clean → exec i s = takeTrap s { cause := 0x01, code := 7, value := wordOf i, reg := o.k.val, rfile := 0 }) ∧
    (clean → ¬ known → exec i s = takeTrap s { cause := 0x01, code := 10, value := wordOf i, reg := o.k.val, rfile := 0 }) ∧
    (clean → known → ∀ r, fault = some r → exec i s = takeTrap s r) ∧
    (clean → known → fault = none → ¬ goes → exec i s = .next s) ∧
    (clean → known → fault = none → goes → ∃ t op, exec i s = .next t ∧ t.engines = s.engines ++ [op] ∧
      MovesTo { s with engines := t.engines, sections := t.sections, blocks := t.blocks, nextId := s.nextId + 1 } t (setKEmpty s.g o.t true) (nextPc s) ∧
      op.id = s.nextId ∧ op.kind = .cpyL ∧ op.lanes = lanes ∧ op.token = o.t.val ∧ op.useRec = w.getLsbD 38 ∧ op.recBlk = blk ∧
      op.recIdx = bits w 37 32 ∧ (op.useRec = true → (recordAt t blk op.recIdx).exp = (recordAt s blk op.recIdx).exp +
        (if w.getLsbD 39 then 0 else BitVec.ofNat 40 (opBytes op)))))

/-- R213, R216 to R221, R223, R386, R387: a matrix command waits for a free slot; then it enters its cluster's queue behind the others with the
scalars read at issue, and the thread goes on; nothing else of the matrix unit changes. MLDA, MLDB and MST check their descriptors and
places, wait for section-table entries and the values of earlier loads, and register their ranges; MST empties its token. MWAIT of a record
that the block does not have raises ILLEGAL 10.

R227, R379: GCSR reads a register of the quantiser or gather unit; register 8 with bit 0 of K[b] empties the gather unit, once no MMA.S
runs (log 61), and reads 0. Another number raises ILLEGAL 7.

R48, R222, R224: MFENCE goes on once no command of the thread is left. MPROG reads: commands completed, commands queued, the steps of the
running multiply form (a free value of at most its steps, log 6, that never falls), the bytes that the first running tile store has stored. -/
def Obligations.MatrixIssue : Prop :=
  (∀ (s : State),
    let clu := cluOfCore s.g.core
    let room := matrixRoom s clu = true
    let queued (t : State) (c : MCmd) : Prop :=
      matrixOf t clu = { matrixOf s clu with queue := (matrixOf s clu).queue ++ [⟨s.nextId, c, s.g.tid, false, false, 0⟩] } ∧
      ∀ k, k ≠ clu → matrixOf t k = matrixOf s k
    let plain (i : Instr) (c : MCmd) : Prop := (¬ room → exec i s = .next s) ∧ (room →
      ∃ t, exec i s = .next t ∧ MovesTo { s with matrix := t.matrix, nextId := s.nextId + 1 } t s.g (nextPc s) ∧ queued t c)
    let engine (i : Instr) (reg : Fin 64) (flaws : List Flaw) (places : List (Option (Nat × Nat))) (op : EngOp) (h : Group) (c : MCmd) : Prop :=
      let goes := room ∧ sectionRoom s s.g.core (rangesOf op 0).length = true ∧ readsDone s s.g.tid = true
      (∀ f, firstFlaw flaws = some f →
        exec i s = takeTrap s { cause := if f.reserved then 0x0B else 0x0C, code := f.bit, value := f.word, reg := reg.val, rfile := 0 }) ∧
      (flaws = [] → ∀ x, some x ∈ places → (∀ y, some y ∈ places → x.1 < y.1 ∨ x = y) →
        exec i s = takeTrap s { cause := 0x07, code := x.2, addrs := [x.1] }) ∧
      (flaws = [] → (∀ p ∈ places, p = none) → ¬ goes → exec i s = .next s) ∧
      (flaws = [] → (∀ p ∈ places, p = none) → goes → ∃ t, exec i s = .next t ∧
        MovesTo { s with matrix := t.matrix, engines := s.engines ++ [{ op with id := s.nextId }], sections := t.sections, nextId := s.nextId + 1 }
          t h (nextPc s) ∧ queued t c ∧ t.sections.length = s.sections.length + (rangesOf op 0).length ∧
        (∀ e ∈ t.sections, e ∈ s.sections ∨ (e.op = s.nextId ∧ e.core = s.g.core)))
    (∀ (d t4 : Fin 16) (a b : Fin 64) (i : Instr) (c : MCmd),
      (i, c) ∈ ([(.mma d a b, .mma d.val a.val b.val), (.mmaC d t4 b, .mmaC d.val t4.val b.val), (.mmaS d a, .mmaS d.val a.val),
        (.mzero d, .mzero d.val)] : List (Instr × MCmd)) → Admitted s i → plain i c) ∧
    (∀ (a n : Fin 64), Admitted s (.mwait a n) → OperandsThere s { srcs := [.k a false] } →
      (hasRecord s s.g.block n.val = false → exec (.mwait a n) s = takeTrap s { cause := 0x01, code := 10, value := wordOf (.mwait a n)
                                                                                reg := if a = 0 then 0 else a.val, rfile := if a = 0 then 3 else 0 }) ∧
      (hasRecord s s.g.block n.val = true → plain (.mwait a n) (.mwait n.val (readK s.g a)))) ∧
    (∀ (n a : Fin 64) (i : Instr) (b : Bool), (i, b) ∈ ([(.mlda n a, false), (.mldb n a, true)] : List (Instr × Bool)) →
      let desc := readRegs s.g a.val 2
      Admitted s i → OperandsThere s { srcs := [.k a false, .k (kAt (a.val + 1)) false] } →
      engine i a (panelFlaws desc) (panelPlaces s s.g desc) (makeOp s.g .panel 0 desc) s.g (.load b n.val (word desc 0) (word desc 1))) ∧
    (∀ (d b : Fin 64) (a : Fin 16),
      let desc := readRegs s.g b.val 2
      let size := elemSize (bits (word desc 1) 39 32)
      Admitted s (.mst d a b) → OperandsThere s { srcs := [.k b false, .k (kAt (b.val + 1)) false], dstK := [d] } →
      engine (.mst d a b) b (mstFlaws desc)
        ((List.range (bits (word desc 1) 6 0)).map fun m =>
          apRange s s.g (bits (word desc 0) 56 0 + m * bits (word desc 1) 31 16) (bits (word desc 1) 14 8 * size) size)
        { makeOp s.g .mst d.val desc with tile := a.val } (setKEmpty s.g d true) (.mst d.val a.val (word desc 0) (word desc 1) s.nextId))) ∧
  (∀ (s : State) (d a b : Fin 64), Admitted s (.gcsr d a b) → OperandsThere s { srcs := [.k a false, .k b false], dstK := [d] } →
    let n := (readK s.g a).toNat
    let clu := cluOfCore s.g.core
    let clears := n = 8 ∧ b ≠ 0 ∧ (readK s.g b).getLsbD 0 = true
    (6 ≤ n → n ≠ 8 → exec (.gcsr d a b) s =
      takeTrap s { cause := 0x01, code := 7, value := wordOf (.gcsr d a b), reg := a.val, rfile := 0 }) ∧
    (n < 6 → ∃ t, exec (.gcsr d a b) s = .next t ∧ MovesTo s t (writeK s.g d (gcsrValue s clu n)) (nextPc s)) ∧
    (n = 8 → ¬ clears → ∃ t, exec (.gcsr d a b) s = .next t ∧ MovesTo s t (writeK s.g d 0) (nextPc s)) ∧
    (clears → sparseRuns s clu = true → exec (.gcsr d a b) s = .next s) ∧
    (clears → sparseRuns s clu = false →
      ∃ t, exec (.gcsr d a b) s = .next t ∧ MovesTo { s with matrix := t.matrix } t (writeK s.g d 0) (nextPc s) ∧
        matrixOf t clu = { matrixOf s clu with gN := 0, gK := 0, gFmt := 0, gNnz := 0, gEnt := [] } ∧
        ∀ c, c ≠ clu → matrixOf t c = matrixOf s c)) ∧
  ((∀ (s : State), Admitted s .mfence →
    ((∃ m ∈ s.matrix, ∃ e ∈ m.2.queue, e.tid = s.g.tid) → exec .mfence s = .next s) ∧
    ((∀ m ∈ s.matrix, ∀ e ∈ m.2.queue, e.tid ≠ s.g.tid) → ∃ t, exec .mfence s = .next t ∧ MovesTo s t s.g (nextPc s))) ∧
  (∀ (s : State) (d n : Fin 64), Admitted s (.mprog d n) → OperandsThere s { dstK := [d] } →
    let clu := cluOfCore s.g.core
    let q := (matrixOf s clu).queue
    let reads (x : Nat) : Prop := ∃ t, exec (.mprog d n) s = .next t ∧ MovesTo s t (writeK s.g d (BitVec.ofNat 64 x)) (nextPc s)
    (∃ t, exec (.mprog d n) s = .next t) ∧
    (n.val = 0 → reads s.g.mdone) ∧
    (n.val = 1 → reads (q.countP fun e => e.tid == s.g.tid)) ∧
    (n.val = 2 → (∀ e ∈ q, e.running = true → stepsOf (matrixOf s clu) e.cmd = none) → reads 0) ∧
    (n.val = 2 → ∀ before e after k, q = before ++ e :: after → e.running = true → stepsOf (matrixOf s clu) e.cmd = some k → e.steps ≤ k →
      (∀ x ∈ before, x.running = true → stepsOf (matrixOf s clu) x.cmd = none) →
      ∃ t x, exec (.mprog d n) s = .next t ∧ e.steps ≤ x ∧ x ≤ k ∧
        MovesTo { s with free := s.free + 1, matrix := t.matrix } t (writeK s.g d (BitVec.ofNat 64 x)) (nextPc s) ∧
        (matrixOf t clu).queue = q.map (fun y => if y.id = e.id then { y with steps := x } else y) ∧
        (matrixOf t clu).tiles = (matrixOf s clu).tiles) ∧
    (n.val = 3 → (∀ e ∈ q, e.running = true → ∀ r a d0 d1 op, e.cmd ≠ .mst r a d0 d1 op) → reads 0) ∧
    (n.val = 3 → ∀ before e after r a d0 d1 op, q = before ++ e :: after → e.running = true → e.cmd = .mst r a d0 d1 op →
      (∀ x ∈ before, x.running = true → ∀ r a d0 d1 op, x.cmd ≠ .mst r a d0 d1 op) →
      (∀ o, engineOf s op = some o → reads o.landed) ∧ (engineOf s op = none → reads e.steps))))

/-- R213, R380, R391: MATRIX_COMMAND_START. Commands of a cluster start in order. The first that has not started waits for earlier unfinished ones
that it conflicts with: that write what it reads or writes, or read what it writes, or are an MWAIT; that any two panel loads and tile stores
conflict is log 18 (DEDUCED). Operands
that do not fit each other, or a lost tile or panel, stop it, and the core.

R85, R205, R216, R217, R220, R221, R223, R224: MATRIX_COMMAND_COMPLETE of a running command. MZERO and the multiply forms take their effect on
their tile, and raise its flags; MMA is the tile product, each element folded in steps (the zero sum of an empty step is log 51, DEDUCED); no other
tile changes. MLDA and MLDB fill their panel
from the rows. MST completes with its operation; MWAIT once its record meets the test. Then the command leaves the queue, and its thread
counts it. -/
def Obligations.MatrixWork : Prop :=
  ((∀ (d a b x : Nat) (w : BitVec 64) (op : Nat) (c : MCmd), conflicts (.mma d a b) (.mst x d w w op) = true ∧ conflicts (.mst x d w w op) (.mzero d) = true ∧
    conflicts (.mst x d w w op) (.load false a w w) = true ∧ conflicts (.load true b w w) (.mma d a b) = true ∧
    conflicts (.mwait x w) c = true ∧ (a ≠ d → conflicts (.mzero a) (.mzero d) = false)) ∧
  ∀ (s : State) (clu : Nat),
    ((∀ x ∈ (matrixOf s clu).queue, x.running = true) → exec (.matrixCommandStart clu) s = .next s) ∧
    ∀ (e : MEntry) (before rest : List MEntry), (matrixOf s clu).queue = before ++ e :: rest →
      (∀ x ∈ before, x.running = true) → e.running = false → (∀ x ∈ before ++ rest, x.id ≠ e.id) →
      let goes := e.bad = false ∧ gangHere s e.tid = true ∧ ∀ x ∈ before, conflicts x.cmd e.cmd = false
      let bad := mismatch (matrixOf s clu) e.cmd = true ∨ lostTile s clu e.cmd = true
      (¬ goes → exec (.matrixCommandStart clu) s = .next s) ∧
      (goes → ¬ bad → ∃ t, exec (.matrixCommandStart clu) s = .next t ∧ t = { s with matrix := t.matrix, engines := t.engines } ∧
        matrixOf t clu = { matrixOf s clu with queue := before ++ { e with running := true } :: rest } ∧
        ∀ d a x y op, e.cmd = .mst d a x y op → ∀ o, engineOf s op = some o → engineOf t op = some { o with accepted := true }) ∧
      (goes → bad → ∃ t, exec (.matrixCommandStart clu) s = .next t ∧
        (matrixOf t clu).queue = before ++ { e with bad := true } :: rest ∧ (matrixOf t clu).tiles = (matrixOf s clu).tiles ∧
        ∀ g, thread? s e.tid = some g → ctxEnded s g.ctx = false → coreStopped t (96 + clu) = true)) ∧
  (∀ (s : State) (clu : Nat) (e : MEntry) (g : Group),
    let m := matrixOf s clu
    let done : Instr := .matrixCommandComplete clu e.id
    let ends (t : State) (f : Flags) : Prop := (∀ x ∈ (matrixOf t clu).queue, x.id ≠ e.id) ∧
      thread? t e.tid = some { g with fpflags := g.fpflags ||| f, mdone := g.mdone + 1 }
    m.queue.find? (fun x => x.id == e.id && x.running) = some e → gangHere s e.tid = true → thread? s e.tid = some g → g.wait ≠ .draining →
    (∀ d, e.cmd = .mzero d → ∃ t, exec done s = .next t ∧ t.mem = s.mem ∧ ends t 0 ∧
      (∀ r c, r < 64 → c < 64 → getT 0 (matrixOf t clu).tiles (tileKey d r c) = 0) ∧
      (∀ k, k / 4096 ≠ d → getT 0 (matrixOf t clu).tiles k = getT 0 m.tiles k)) ∧
    (∀ d a b, e.cmd = .mma d a b →
      let p := panelOf m false a
      let q := panelOf m true b
      p.rows ≤ 64 → q.rows ≤ 64 → ∃ t, exec done s = .next t ∧ t.mem = s.mem ∧ ends t (multiply m e.cmd).2 ∧
        (∀ r c, r < p.rows → c < q.rows → getT 0 (matrixOf t clu).tiles (tileKey d r c) =
          BitVec.ofNat 32 (accElement p.k (stepOf p.fmt) (fun k => some (panelValue p r k, panelValue q c k))
            ((getT 0 m.tiles (tileKey d r c)).toNat, 0)).1) ∧
        (∀ k, (∀ r c, r < p.rows → c < q.rows → k ≠ tileKey d r c) → getT 0 (matrixOf t clu).tiles k = getT 0 m.tiles k)) ∧
    ((∃ d a b, e.cmd = .mmaC d a b) ∨ (∃ d a, e.cmd = .mmaS d a) → ∃ t, exec done s = .next t ∧ t.mem = s.mem ∧ ends t (multiply m e.cmd).2 ∧
      (matrixOf t clu).tiles = (multiply m e.cmd).1.tiles) ∧
    (∀ d a x y op, e.cmd = .mst d a x y op → ((engineOf s op).isSome = true → exec done s = .next s) ∧
      (engineOf s op = none → ∃ t, exec done s = .next t ∧ t.mem = s.mem ∧ ends t 0)) ∧
    (∀ n mask, e.cmd = .mwait n mask →
      let r := recordAt s g.block n
      (waitMet r mask = false → exec done s = .next s) ∧
      (waitMet r mask = true → ∃ t, exec done s = .next t ∧ t.mem = s.mem ∧ ends t 0 ∧ Acquires s t (96 + clu))) ∧
    ∀ b n d0 d1 op, e.cmd = .load b n d0 d1 → n < 2 → engineOf s e.id = some op →
      let fmt := bits d0 55 48
      let rows := bits d1 6 0
      let k := bits d1 17 8
      (op.fault.isSome = true → exec done s = .next s) ∧
      (op.fault = none → isScaled fmt = false → k ≤ 512 → (blockOf s op.block).threads ≠ [] → ∀ x : Nat → Nat,
        (∀ r, r < rows → (bits d0 27 0 + r * bits d0 47 32) % 2 ^ 28 + panelRow fmt k ≤ 2 ^ 28) →
        (∀ r, r < rows → engRead s op (apBase + (bits d0 27 0 + r * bits d0 47 32) % 2 ^ 28) (panelRow fmt k) = .ok (x r)) →
        ∃ t, exec done s = .next t ∧ ends t 0 ∧ engineOf t e.id = none ∧
          let p := panelOf (matrixOf t clu) b n
          p.rows = rows ∧ p.k = k ∧ p.fmt = fmt ∧
          ∀ r c, r < rows → c < k → getT 0 p.elem (r * 512 + c) = (rowCodes fmt k (x r)).getD c 0))

/-- R228, R229, R292, R294, R379: BID writes the bid register of the thread's context whole; BIDR, PRICE, LEASE and PEERP read what the
Junction holds; that a BID is there at its issue is log 19 (DEDUCED). A bid that the register cannot hold, and a package number of 4,096 or more, raise ILLEGAL 7. -/
def Obligations.MarketInstructions : Prop :=
  (∀ (s : State) (a c : Fin 64), Admitted s (.bid a c) → OperandsThere s { srcs := [.k a false] } →
    let x := readK s.g a
    let fits := x.toNat % 2 ^ 32 ≠ 0xFFFFFFFF ∧ x.toNat / 2 ^ 32 % 2 ^ 16 ≤ unitsOf s c.val ∧ x.toNat / 2 ^ 48 % 2 ^ 16 ≤ x.toNat / 2 ^ 32 % 2 ^ 16
    (¬ fits → exec (.bid a c) s = takeTrap s { cause := 0x01, code := 7, value := wordOf (.bid a c), reg := a.val, rfile := 0 }) ∧
    (fits → ∃ t, exec (.bid a c) s = .next t ∧ MovesTo { s with bids := t.bids } t s.g (nextPc s) ∧ bidOf t s.g.ctx c.val = x ∧
      (∀ y e, e < 8 → (y ≠ s.g.ctx ∨ e ≠ c.val) → bidOf t y e = bidOf s y e))) ∧
  (∀ (s : State) (d c : Fin 64) (i : Instr) (v : BitVec 64),
    (i, v) ∈ ([(.bidr d c, bidOf s s.g.ctx c.val),
      (.price d c, BitVec.ofNat 64 (priceOf s c.val % 2 ^ 32 + s.priceSeq % 2 ^ 32 * 2 ^ 32)),
      (.lease d c, BitVec.ofNat 64 ((leaseOf s s.g.ctx c.val).units % 2 ^ 16 + (leaseOf s s.g.ctx c.val).floor % 2 ^ 16 * 2 ^ 16
        + s.curSeq % 2 ^ 32 * 2 ^ 32))] : List (Instr × BitVec 64)) →
    Admitted s i → OperandsThere s { dstK := [d] } →
    ∃ t, exec i s = .next t ∧ MovesTo s t (writeK s.g d v) (nextPc s)) ∧
  (∀ (s : State) (d a c : Fin 64), Admitted s (.peerp d a c) → OperandsThere s { srcs := [.k a false], dstK := [d] } →
    let p := (readK s.g a).toNat
    (2 ^ 12 ≤ p → exec (.peerp d a c) s =
      takeTrap s { cause := 0x01, code := 7, value := wordOf (.peerp d a c), reg := a.val, rfile := 0 }) ∧
    (p < 2 ^ 12 → ∃ t, exec (.peerp d a c) s = .next t ∧ MovesTo s t (writeK s.g d
      (if p ∈ s.nbrSeen ∧ p ∈ neighbours s then getT 0 s.nbrPrices (p * 8 + c.val) else 0xFFFFFFFF)) (nextPc s)))

/-- R230, R231, R233, R234, R313, R379: JNL.X stays at its Signal Box with its destination empty; JMARK and JTRUNC enter the sequence's work and
the thread goes on; a JTRUNC whose earlier records are acknowledged acts at once, with the last mark accepted before it (log 61), unless the
sequence is fenced or its journal is on its way to its own partner; JSTAT reads the sequence, from the write of JS.CMD that opens it on (R411).
A position word out of range raises ILLEGAL 7, and a sequence that is not open or is another context's JOURNAL 1. JOURNAL 1 for a closing
sequence, and that JNL.X stays at its instruction, are log 41 (DEDUCED).

R232, R379: an EMIT of its own context's open sequence. In its wait phase the thread waits, its destination empty, behind earlier
EMITs, while the sequence is fenced, under reassignment or on its way to its own partner, and until the header and all earlier records are acknowledged. Then, at or below
the high-water mark, it is a duplicate: K[d] is 1, nothing is sent, and the thread goes on. Above it, the intent is written at the partner. -/
def Obligations.JournalInstructions : Prop :=
  (∀ (s : State) (d a b n : Fin 64) (i : Instr) (wide : Nat),
    let w := readK s.g (nextK a)
    let x := Instr.jnlX d a b
    let m := Instr.jmark a b
    let c := Instr.jtrunc a
    let r := Instr.jstat d a n
    (i, wide) ∈ ([(x, 48), (m, 32), (c, 64), (r, 64)] : List (Instr × Nat)) → Admitted s i →
    OperandsThere s { srcs := [.k a false] ++ (if i = x ∨ i = m then [.k (nextK a) false, .k b false] else []), dstK := if i = x ∨ i = r then [d] else [] } →
    let sound := w.toNat < 2 ^ wide ∧ (i = x → kindOf w ≠ 0 ∧ kindOf w < 4)
    let opening := if i = r then openingSeq s (readK s.g a) else none
    let own (q : Seq) : Prop := q.ctx = s.g.ctx ∧ q.closing = false
    let fails := exec i s = takeTrap s (journalRecord 1 (if i = x ∨ i = m then posOf w else 0) a.val)
    (∃ t, exec i s = .next t) ∧
    (¬ sound → exec i s = takeTrap s { cause := 0x01, code := 7, value := wordOf i, reg := a.val, rfile := 0 }) ∧
    (sound → opening = none → openSeq s (readK s.g a) = none → fails) ∧
    (sound → opening = none → ∀ q, openSeq s (readK s.g a) = some q → ¬ own q → fails) ∧
    (∀ q, opening = some q → (q.ctx ≠ s.g.ctx → fails) ∧
      (q.ctx = s.g.ctx → ∃ t, exec i s = .next t ∧ MovesTo s t (writeK s.g d (jstatValue q n.val)) (nextPc s))) ∧
    (sound → opening = none → ∀ q, openSeq s (readK s.g a) = some q → own q → seqOf s q.id = some q →
      let held := q.fenced = true ∨ q.moved = false ∨ (q.work ≠ [] ∧ headFree q = false)
      (i = r → ∃ t, exec i s = .next t ∧ MovesTo s t (writeK s.g d (jstatValue q n.val)) (nextPc s)) ∧
      (i = x → held ∨ q.work = [] → ∃ t q', exec i s = .next t ∧
        t = { s with g := { setKEmpty s.g d true with wait := .journal q.id }, seqs := t.seqs, sent := t.sent, outbox := t.outbox
                     sendSeq := t.sendSeq, kept := t.kept } ∧
        seqOf t q.id = some q' ∧ q'.records = q.records ∧
        q'.work = q.work ++ [.record s.g.tid d.val a.val (posOf w) (kindOf w) (indexOf w) (readK s.g b)]) ∧
      (i = m → held ∨ q.work = [] → ∃ t q', exec i s = .next t ∧ MovesTo { s with seqs := t.seqs } t s.g (nextPc s) ∧
        seqOf t q.id = some q' ∧ q'.records = q.records ∧ q'.work = q.work ++ [.mark s.g.tid a.val (posOf w) (readK s.g b)]) ∧
      (i = c → held → ∃ t q', exec i s = .next t ∧ MovesTo { s with seqs := t.seqs } t s.g (nextPc s) ∧
        seqOf t q.id = some q' ∧ q'.records = q.records ∧ q'.work = q.work ++ [.trunc s.g.tid a.val]) ∧
      (i = c → q.fenced = false → q.moved = true → q.work = [] → q.truncs = [] → ∃ t q', exec i s = .next t ∧
        MovesTo { s with seqs := t.seqs, sent := t.sent, outbox := t.outbox, sendSeq := t.sendSeq, kept := t.kept } t s.g (nextPc s) ∧
        seqOf t q.id = some q' ∧ q'.work = [] ∧
        if q.records.all (fun e => decide (q.nextSerial ≤ e.serial) || e.acked) then
          q'.truncs = [] ∧ q'.records = q.records.filter fun e => !truncated q q.nextSerial e
        else q'.truncs = [(q.nextSerial, s.g.tid, a.val)] ∧ q'.records = q.records))) ∧
  (∀ (s : State) (d a b : Fin 64), let i := Instr.emit d a b
    Admitted s i → OperandsThere s { srcs := [.k a false, .k (nextK a) false, .k b false], dstK := [d] } →
    let w := readK s.g (nextK a)
    (∃ t, exec i s = .next t) ∧
    (2 ^ 32 ≤ w.toNat → exec i s = takeTrap s { cause := 0x01, code := 7, value := wordOf i, reg := a.val, rfile := 0 }) ∧
    (w.toNat < 2 ^ 32 → (∀ q, openSeq s (readK s.g a) = some q → q.ctx ≠ s.g.ctx ∨ q.closing = true) →
      exec i s = takeTrap s (journalRecord 1 w.toNat a.val)) ∧
    (w.toNat < 2 ^ 32 → ∀ q, openSeq s (readK s.g a) = some q → seqOf s q.id = some q → q.ctx = s.g.ctx → q.closing = false →
      let waits := { setKEmpty s.g d true with wait := .emit q.id }
      let ready := q.reassign = false ∧ q.headerAcked = true ∧ ∀ r ∈ q.records, r.serial < q.nextSerial → r.acked = true
      let new (p : EmitPhase) : Emit := ⟨s.g.tid, d.val, a.val, w.toNat, readK s.g b, q.nextSerial, p⟩
      (q.fenced = true ∨ q.moved = false ∨ (q.work ≠ [] ∧ headFree q = false) → ∃ t q', exec i s = .next t ∧ t = { s with g := waits, seqs := t.seqs } ∧
        seqOf t q.id = some q' ∧ q'.emits = q.emits ∧ q'.work = q.work ++ [.emit s.g.tid d.val a.val w.toNat (readK s.g b)]) ∧
      (q.fenced = false → q.moved = true → q.work = [] → (∃ e rest, q.emits = e :: rest ∧ e.phase ≠ .wait) ∨ (q.emits = [] ∧ ¬ ready) →
        ∃ t q', exec i s = .next t ∧ t = { s with g := waits, seqs := t.seqs } ∧ seqOf t q.id = some q' ∧ q'.work = [] ∧
          q'.emits = q.emits ++ [new .wait]) ∧
      (q.fenced = false → q.moved = true → q.work = [] → q.emits = [] → ready → q.hwmv = true → w.toNat ≤ q.hwm →
        ∃ t, exec i s = .next t ∧ MovesTo { s with seqs := t.seqs } t (writeK s.g d 1) (nextPc s)) ∧
      (q.fenced = false → q.moved = true → q.work = [] → q.emits = [] → ready → q.hwmv = false ∨ q.hwm < w.toNat →
        ∃ t q' p, exec i s = .next t ∧ Sends s t p ∧ p.kind = 0x0D ∧ p.dst = seqDest q ∧ p.len = 8 ∧
          t = { s with g := waits, seqs := t.seqs, sent := t.sent, outbox := t.outbox, sendSeq := t.sendSeq, kept := t.kept } ∧
          seqOf t q.id = some q' ∧ q'.intent = some w.toNat ∧ q'.emits = [new .intent])))

/-- R35, R38, R65, R192, R193, R383: RESULT_LANDS. A row of a flight of which nothing is still to be performed lands, unless the thread still
waits for a peer's replies to it. With the last row the flight is gone and its flags enter fpflags; an acquire load's thread then goes on
with an acquire. What an early load brings does not reach the checkpoint of its window. A scalar takes its value, a vector register the
values of the row's lanes, and each is full; a predicate is complete with its last row.

R64, R66, R67: BRANCH_RESOLVE, when the predicate of a window is complete and the thread does not wait for a peer. A prediction that
chose the wrong path restarts the branch: the thread stands where R55 takes it from the branch, and what the window had issued is
dropped. Otherwise the window is kept: the lanes included only by prediction have the values they had at the branch, the others what the
window gave them; the stack is that of the resolved branch; when lanes had not been predicted, everything recorded is still to be replayed for
them. Memory does not change. What a kept window drops, records and replays follows log 9 (DEDUCED). -/
def Obligations.ResultsLand : Prop :=
  ((∀ (s : State) (f : Flight) (row : Nat) (g : Group), s.flights.find? (fun x => x.id == f.id) = some f → thread? s f.tid = some g →
    let one := BitVec.ofNat 16 (2 ^ row)
    let goes := f.rows.getLsbD row = true ∧ rowReady f row = true ∧ g.wait ≠ .peer f.id
    let last := f.rows = one ∧ f.reqs.all Req.done = true ∧ f.atoms.all AtomReq.done = true
    let lands := landRow f row g
    (¬ goes → exec (.resultLands f.id row) s = .next s) ∧
    (goes → g.wait ≠ .draining → (∀ n, g.wait ≠ .acquire n) →
      ∃ t, exec (.resultLands f.id row) s = .next t ∧ t = { s with g := t.g, others := t.others, windows := t.windows, flights := t.flights } ∧
        (∀ u, u ≠ f.tid → thread? t u = thread? s u) ∧
        (last → thread? t f.tid = some { lands with fpflags := lands.fpflags ||| f.flags } ∧
          t.flights = s.flights.filter (fun x => x.id != f.id)) ∧
        (¬ last → thread? t f.tid = some lands ∧
          t.flights.find? (fun x => x.id == f.id) = some { f with rows := f.rows &&& ~~~one }) ∧
        (f.spec = true → f.flags = 0 → t.windows = s.windows)) ∧
    (goes → last → ∀ n, g.wait = .acquire n → (∀ x ∈ s.flights, x.tid = f.tid → x.id = f.id) →
      ∃ t h, exec (.resultLands f.id row) s = .next t ∧ thread? t f.tid = some h ∧ h.wait = .none ∧ h.pc = g.pc ∧ Acquires s t g.core)) ∧
  (∀ (f : Flight) (g : Group) (d : Fin 64) (v : Nat), f.dest = .scalar d → rowValues f 0 = [(0, v)] →
    landRow f 0 g = writeK (setKEmpty g d false) d (if f.signed = true then (BitVec.ofNat 32 v).signExtend 64 else BitVec.ofNat 64 v)) ∧
  (∀ (f : Flight) (g : Group) (phys row : Nat), f.dest = .vector phys → row < 16 → ((rowValues f row).map fun x => x.1).Nodup →
    rowEmpty (landRow f row g) phys row = false ∧
    (∀ n v, (n, v) ∈ rowValues f row → n < 512 → getT 0 (landRow f row g).v (laneKey phys n) =
      if f.signed = true then (BitVec.ofNat 32 v).signExtend 64 else BitVec.ofNat 64 v) ∧
    ∀ k, (∀ x ∈ rowValues f row, k ≠ laneKey phys x.1) → getT 0 (landRow f row g).v k = getT 0 g.v k) ∧
  ∀ (f : Flight) (g : Group) (p : Fin 8) (row : Nat), f.dest = .pred p → f.rows = BitVec.ofNat 16 (2 ^ row) →
    (landRow f row g).qBusy.getLsbD p.val = false) ∧
  (∀ (s : State) (w : Window) (g : Group), windowOf s w.saved.tid = some w → thread? s w.saved.tid = some g → w.saved.live = true →
    let tid := w.saved.tid
    let taken := takenSet w.saved w.pred w.neg
    let predicted := if w.pt ≠ 0 then w.pt else w.saved.M
    let resolved := if w.pt ≠ 0 then taken else w.saved.M &&& ~~~taken
    let wrong := (w.pt ≠ 0 ∧ taken = 0) ∨ (w.pt = 0 ∧ taken ≠ 0)
    let opens := w.saved.qBusy.getLsbD w.pred.val = false ∧ w.resolved = none ∧ ∀ n, g.wait ≠ .peer n
    let branch := diverge { w.saved with qBusy := w.saved.qBusy &&& ~~~(BitVec.ofNat 8 (2 ^ w.pred.val)) } taken w.target w.join
    let dropped (n : Nat) : Prop := (predicted &&& ~~~resolved).getLsbD n = true
    (¬ opens → exec (.branchResolve tid) s = .next s) ∧
    (opens → ∃ t h, exec (.branchResolve tid) s = .next t ∧ t.mem = s.mem ∧ thread? t tid = some h ∧
      (∀ u, u ≠ tid → thread? t u = thread? s u) ∧
      (wrong → h = branch ∧ windowOf t tid = none ∧ ∀ f ∈ t.flights, f.tid = tid → f.spec = false) ∧
      (¬ wrong → h.pc = g.pc ∧ h.k = g.k ∧ h.M = g.M ∧ h.stack = branch.stack ∧
        (∀ r n, n < 512 → getT 0 h.v (laneKey r n) = if (predicted &&& ~~~resolved).getLsbD n then getT 0 w.saved.v (laneKey r n)
          else getT 0 g.v (laneKey r n)) ∧
        ∃ x, windowOf t tid = some x ∧ x.resolved = some resolved ∧ (resolved &&& ~~~predicted = 0 → x.todo = []) ∧
          (resolved &&& ~~~predicted ≠ 0 → x.todo.map Recorded.instr = w.buffer.map Recorded.instr ∧ x.buffer = []) ∧
          ∀ e ∈ x.todo ++ x.buffer, e.vec = true → ∀ st, e.store = some st → ∀ l ∈ st.lanes, ¬ dropped l.1)))

/-- R186, R240: OWNERSHIP_REGISTRATION and REGISTRATION_ACK. A registration is of one word, or of both words of an aligned 8-byte store. A word
with another owner is revoked first. Otherwise the home records the core as owner and accepts the bytes; no byte at the home changes. The
acknowledgement ends the registration, and the flags of FENCE.FLAG that waited for it are written.

R240, R242, R245: a revocation, a recall and a write-back move the accepted dirty bytes of a core to the home: every byte as the home
reads it stays the same. After a revocation the word has no owner; after a recall the owner stays and holds nothing dirty; after a
write-back the line has left L1 but for bytes of stores on their way. A message to a core that is no longer the owner changes nothing. -/
def Obligations.Ownership : Prop :=
  (∀ (s : State) (core word : Nat), word < 2 ^ 50 →
    let sent (w : Nat) := s.pending.any (fun p => p.core == core && p.word == w && !p.atHome)
    let whole (w : Nat) := s.pending.any (fun p => p.core == core && p.word == w && !p.atHome && p.pair)
    let ws := if whole word && whole (word ^^^ 1) then [word, word ^^^ 1] else [word]
    let mine (p : Pending) := p.core == core && p.word == word && p.atHome
    let acked := { s with pending := s.pending.filter fun p => !mine p }
    (sent word = false → exec (.ownershipRegistration core word) s = .next s) ∧
    (sent word = true → (∀ w ∈ ws, ownerOf s w = 0 ∨ ownerOf s w = core + 1) →
      ∃ t, exec (.ownershipRegistration core word) s = .next t ∧ t.mem = s.mem ∧ t.g = s.g ∧ (∀ w, w ∉ ws → ownerOf t w = ownerOf s w) ∧
        ∀ w ∈ ws, ownerOf t w = core + 1 ∧ (∀ p ∈ t.pending, p.core = core → p.word = w → p.atHome = true) ∧
          (l1Line t core (w / 32)).fresh &&& span (w % 32 * 4) 4 = 0) ∧
    (sent word = true → ∀ w ∈ ws, ownerOf s w ≠ 0 → ownerOf s w ≠ core + 1 →
      ∃ t, exec (.ownershipRegistration core word) s = .next t ∧ t = { s with revoking := t.revoking } ∧ (ownerOf s w - 1, w) ∈ t.revoking) ∧
    (s.pending.any mine = false → exec (.registrationAck core word) s = .next s) ∧
    (s.pending.any mine = true → exec (.registrationAck core word) s = .next (settleFlags acked)) ∧
    (s.flagWrites = [] → settleFlags acked = acked)) ∧
  (∀ (s : State) (core word line : Nat), word < 2 ^ 50 → line < 2 ^ 45 →
    let keeps (t : State) : Prop := ∀ x, x < 2 ^ 52 → coherentByte t x = coherentByte s x
    ((core, word) ∈ s.revoking → ownerOf s word = core + 1 → ∃ t, exec (.revocation core word) s = .next t ∧ ownerOf t word = 0 ∧
      (∀ w, w ≠ word → ownerOf t w = ownerOf s w) ∧ keeps t) ∧
    ((core, word) ∈ s.recalls → ownerOf s word = core + 1 → ∃ t, exec (.recall core word) s = .next t ∧ ownerOf t word = core + 1 ∧
      ownerDirty t word = false ∧ keeps t) ∧
    (ownerOf s word ≠ core + 1 →
      exec (.revocation core word) s = .next { s with revoking := s.revoking.filter (· != (core, word)) } ∧
      exec (.recall core word) s = .next { s with recalls := s.recalls.filter (· != (core, word)) }) ∧
    ((l1Line s core line).valid = 0 → exec (.writeBack core line) s = .next s) ∧
    ((l1Line s core line).valid ≠ 0 → ∃ t, exec (.writeBack core line) s = .next t ∧
      (l1Line t core line).valid &&& ~~~(l1Line t core line).fresh = 0 ∧ keeps t))

/-- R187, R199, R238, R240, R243, R245, R254: accesses performed at the home, once the core's own stores to the bytes are registered, earlier
lanes of the instruction are performed, and the slice has a miss entry for a line that its L2 does not hold. A read recalls dirty words first, a write revokes owners first. A bypass load, a bank's read and
a read of control space take the value at the place; a bypass store writes its bytes and no other; an atomic leaves the combined word and
keeps the old values for its lanes, in memory and in a scratchpad (in control space and through a window too: log 34, DEDUCED); an access
through a window reads or writes behind it.

R239, R245, R302: LINE_FILL, when the line has its miss entries and L1 has room. A line of this package gives every load of the core that
waits for it its bytes, and lies whole in L1; every byte as the home reads it stays the same. A peer's line does so from the RDC share that
holds it; else it is asked for, unless a request for it is under way, the core has no miss entry free, or the peer cannot be reached. -/
def Obligations.HomeAccesses : Prop :=
  (∀ (s : State) (f : Flight) (idx : Nat), s.flights.find? (fun x => x.id == f.id) = some f → s.flagWrites = [] →
    let done (r : Req) (v : Nat) (t : State) : Prop :=
      t.flights.find? (fun x => x.id == f.id) = some { f with reqs := f.reqs.set idx { r with done := true, val := v } }
    let atomDone (a : AtomReq) (olds : List (Nat × Nat)) (t : State) : Prop :=
      t.flights.any (fun x => x.id == f.id && x.atoms[idx]? == some { a with olds := olds, done := true }) = true
    (∀ r, f.reqs[idx]? = some r → r.kind = .home ∨ r.kind = .store → peerPkg r.loc = none →
      let ready := r.done = false ∧ earlierReq f idx r = false ∧ notYetHome s f.core r.loc r.size = false ∧ homeRoom s r.loc = true
      let ws := placeWords r.loc r.size
      (¬ ready → exec (.accessAtHome f.id idx) s = .next s) ∧
      (ready → r.kind = .home → ∀ w ∈ ws, ownerDirty s w = true →
        ∃ t, exec (.accessAtHome f.id idx) s = .next t ∧ t = { s with recalls := t.recalls } ∧ (ownerOf s w - 1, w) ∈ t.recalls) ∧
      (ready → r.kind = .home → (∀ w ∈ ws, ownerDirty s w = false) → f.rows ≠ 0 →
        ∃ t, exec (.accessAtHome f.id idx) s = .next t ∧ done r (placeRead s r.loc r.size) t ∧
          t = { s with flights := t.flights, l1 := t.l1, rdc := t.rdc, l2 := t.l2, free := t.free, bad := t.bad, ecc := t.ecc }) ∧
      (ready → r.kind = .store → ∀ w ∈ ws, ownerOf s w ≠ 0 →
        ∃ t, exec (.accessAtHome f.id idx) s = .next t ∧ t = { s with revoking := t.revoking } ∧ (ownerOf s w - 1, w) ∈ t.revoking) ∧
      (ready → r.kind = .store → (∀ w ∈ ws, ownerOf s w = 0) → 0 < r.size → ∀ pa, r.loc = .hbm pa →
        ∃ t, exec (.accessAtHome f.id idx) s = .next t ∧ readN t.mem pa r.size = r.val % 2 ^ (8 * r.size) ∧
          ∀ x, x < pa ∨ pa + r.size ≤ x → readByte t.mem x = readByte s.mem x)) ∧
    (∀ a, f.atoms[idx]? = some a → peerPkg a.loc = none →
      let ready := a.done = false ∧ heldBack s f = false ∧ notYetHome s f.core a.loc a.size = false ∧ homeRoom s a.loc = true
      let ws := placeWords a.loc a.size
      let r := runAtom a.op a.size (placeRead s a.loc a.size) a.lanes
      (¬ ready → exec (.atomicAtHome f.id idx) s = .next s) ∧
      (ready → ∀ w ∈ ws, ownerOf s w ≠ 0 →
        ∃ t, exec (.atomicAtHome f.id idx) s = .next t ∧ t = { s with revoking := t.revoking } ∧ (ownerOf s w - 1, w) ∈ t.revoking) ∧
      (ready → (∀ w ∈ ws, ownerOf s w = 0) → f.rows ≠ 0 → 0 < a.size → ∃ t, exec (.atomicAtHome f.id idx) s = .next t ∧ atomDone a r.1 t ∧
        (∀ pa, a.loc = .hbm pa → readN t.mem pa a.size = r.2.1 % 2 ^ (8 * a.size) ∧
          ∀ x, x < pa ∨ pa + a.size ≤ x → readByte t.mem x = readByte s.mem x) ∧
        (∀ b off, a.loc = .spad b off → s.blocks.any (fun x => x.id == b) = true → t.mem = s.mem ∧
          readN (blockOf t b).spad off a.size = r.2.1 % 2 ^ (8 * a.size) ∧
          ∀ x, x < off ∨ off + a.size ≤ x → readByte (blockOf t b).spad x = readByte (blockOf s b).spad x))) ∧
    (∀ r w y, f.reqs[idx]? = some r → r.loc = .window w y →
      let free := r.done = false ∧ earlierReq f idx r = false ∧ homeRoom s r.loc = true
      (¬ free → exec (.aliasAccess f.id idx) s = .next s) ∧
      (free → r.kind = .windowLd → f.rows ≠ 0 → ∃ t, exec (.aliasAccess f.id idx) s = .next t ∧ done r (windowRead s w y r.size) t ∧
        t = { s with flights := t.flights, l2 := t.l2, free := t.free, bad := t.bad, ecc := t.ecc }) ∧
      (free → r.kind = .windowSt → ∃ t, exec (.aliasAccess f.id idx) s = .next t ∧ t.mem = (windowWrite s w y r.size r.val).mem))) ∧
  (∀ (s : State) (core line : Nat) (f : Flight), s.flights.find? (fun x => x.core == core && x.reqs.any (awaits line)) = some f →
    let goes := hasEntry s core line = true ∧ l1Room s core 1 = true
    let held := (rdcLine s core line).valid = BitVec.allOnes 128
    let under := s.kept.any (fun k => lineAsked core k && k.packet.dst == linePkg line && k.packet.offset == lineOffset line && !k.flag)
    let gives (t : State) : Prop := t.g = s.g ∧ (l1Line t core line).valid = BitVec.allOnes 128 ∧ (∀ x, x < 2 ^ 52 → coherentByte t x = coherentByte s x) ∧
      t.flights = s.flights.map fun x => if x.core = core then { x with reqs := x.reqs.map fun r => if awaits line r then
        { r with done := true, val := lineRead (l1Line t core line) (lineOff r.loc) r.size } else r } else x
    (¬ goes → exec (.lineFill core line) s = .next s) ∧
    (goes → line < 2 ^ 45 → ∃ t, exec (.lineFill core line) s = .next t ∧ gives t) ∧
    (goes → 2 ^ 58 ≤ line → line < 2 ^ 59 → held → ∃ t, exec (.lineFill core line) s = .next t ∧ gives t) ∧
    (goes → 2 ^ 58 ≤ line → ¬ held → under = true ∨ rdcMissRoom s core = false ∨ unreachable s (linePkg line) ≠ 0 →
      ∃ t, exec (.lineFill core line) s = .next t ∧ t = { s with bad := t.bad, ecc := t.ecc }) ∧
    (goes → 2 ^ 58 ≤ line → ¬ held → under = false → rdcMissRoom s core = true → unreachable s (linePkg line) = 0 → ∀ g, thread? s f.tid = some g →
      ∃ t q, exec (.lineFill core line) s = .next t ∧ Sends s t q ∧ q.kind = 0x01 ∧ q.dst = linePkg line ∧ q.offset = lineOffset line ∧ q.ctx = g.ctx ∧
        t.kept = s.kept ++ [⟨q, core, g.tid, 0, false, 0, noLane⟩] ∧ t.flights = s.flights))

/-- R246, R247, R384: PAGE_WALK_DONE, for walks that a walker has taken up. A leaf enters the L2 TLB of each die whose walk it is and the L1 TLBs
of the cores that missed it, and the walks are over; a walk without a leaf is kept for its threads until their fault is taken. R362, R391:
TRAP_RECORD_WRITE. A record noted by a cache first stops its core; then the first record that waits for a die's ring is written once the ring
has room.

R362: a record whose ring has room, with no record of its die waiting before it, is written to the ring at the producer index, and
the index moves on by one; else it waits at its source and nothing changes but the wait. -/
def Obligations.WalksAndRings : Prop :=
  ((∀ (s : State) (ctx va : Nat),
    let ws := (walking s).filter fun w => w.ctx == ctx && w.va == va
    (ws = [] → exec (.pageWalkDone ctx va) s = .next s) ∧
    (ws ≠ [] → ∀ e, walk s ctx va = some e → ∃ t, exec (.pageWalkDone ctx va) s = .next t ∧
      t = { s with walks := ws.foldl List.erase s.walks, tlb := t.tlb, free := t.free, l2 := t.l2, bad := t.bad, ecc := t.ecc } ∧
      ∀ w ∈ ws, { e with unit := 128 + w.die } ∈ t.tlb ∧ ∀ c ∈ missingCores s w, { e with unit := c } ∈ t.tlb) ∧
    (ws ≠ [] → walk s ctx va = none → ∃ t, exec (.pageWalkDone ctx va) s = .next t ∧
      t = { s with walks := t.walks, free := t.free, l2 := t.l2, bad := t.bad, ecc := t.ecc } ∧
      (∀ w ∈ ws, w.who ≠ [] → { w with code := 1 } ∈ t.walks) ∧ ∀ w ∈ t.walks, w ∉ ws)) ∧
  ∀ (s : State) (die : Nat),
    (∀ r, s.trapWait.find? (fun x => x.die == die && x.late) = some r → ∃ t, exec (.trapRecordWrite die) s = .next t ∧
      (ctxEnded s r.ctx = false → coreStopped t (r.core + if r.mcc then 96 else 0) = true) ∧
      (∃ x ∈ t.trapWait, x = { r with late := false, pc := x.pc }) ∧ t.trapWait.length = s.trapWait.length ∧ t.mem = s.mem) ∧
    (∀ r pre rest, s.trapWait = pre ++ r :: rest → r.die = die → (∀ x ∈ pre, x.die ≠ die) → (∀ x ∈ s.trapWait, x.die = die → x.late = false) →
      exec (.trapRecordWrite die) s = .next (if ringRoom s die then writeRecord { s with trapWait := pre ++ rest } r else s)) ∧
    ((∀ x ∈ s.trapWait, x.die ≠ die) → exec (.trapRecordWrite die) s = .next s)) ∧
  (∀ (s : State) (r : Record),
    (ringRoom s r.die = true → (∀ x ∈ s.trapWait, x.die ≠ r.die) → postRecord s r = writeRecord s r) ∧
    (ringRoom s r.die = false ∨ (∃ x ∈ s.trapWait, x.die = r.die) → postRecord s r = { s with trapWait := s.trapWait ++ [r] }) ∧
    ((s.bad = [] → (writeRecord s r).trapWait = s.trapWait) ∧
      getT 0 (writeRecord s r).serials r.die = getT 0 s.serials r.die + 1 ∧
      readN (writeRecord s r).mem (ringBase r.die) 8 = (homeRead s (ringBase r.die) 8 + 1) % 2 ^ 64 ∧
      readN (writeRecord s r).mem (ringBase r.die + 256 * (1 + homeRead s (ringBase r.die) 8 % 4095)) 256
        = recordNum r (getT 0 s.serials r.die) % 2 ^ 2048))

/-- R42, R278: ENGINE_REQUEST_ACCEPT takes the oldest request of its queue, and its slot returns; COPY_PACKET and QUANTISE_PACKET start a bundle's
sub-packet on its engine. Nothing else changes.

R206, R249, R278: TOKEN_FILL, the last stage of an operation whose bytes have all landed. The token scalar takes their number and is full,
the operation and its section-table entries are gone, and its flags enter fpflags; no memory changes. A sub-packet counts for its bundle
instead, and the last one retires the bundle and decrements its signal (R279, R285). Before that nothing happens.

R226, R249, R379, R388: TOKEN_FILL of a GATH. It waits while an MMA.S runs. It reads the offsets, the indices and the values; more than 4,096
entries, or operands that are not well-formed, end it with ENGINE_FAULT 1. Otherwise the gather unit holds the entries, and the token takes
their number. -/
def Obligations.EngineTokens : Prop :=
  (∀ (s : State) (e : EngOp), engineOf s e.id = some e →
    let same (x : EngOp) : Bool :=
      if inCopyQueue e.kind then inCopyQueue x.kind && x.core == e.core else inQuantQueue x.kind && cluOfCore x.core == cluOfCore e.core
    let starts (i : Instr) : Prop := ∃ t, exec i s = .next t ∧ t = { s with engines := t.engines } ∧
      engineOf t e.id = some { e with accepted := true } ∧ ∀ x, x ≠ e.id → engineOf t x = engineOf s x
    let oldest := e.accepted = false ∧ e.cq = false ∧ (inCopyQueue e.kind = true ∨ inQuantQueue e.kind = true) ∧
      ∀ x ∈ s.engines, same x = true → x.cq = false → x.id < e.id → x.accepted = true
    let copies := e.cq = true ∧ e.kind = .cpyRem
    let quantises := e.cq = true ∧ inQuantQueue e.kind = true
    (oldest → starts (.engineRequestAccept e.id)) ∧ (¬ oldest → exec (.engineRequestAccept e.id) s = .next s) ∧
    (copies → starts (.copyPacket e.id)) ∧ (¬ copies → exec (.copyPacket e.id) s = .next s) ∧
    (quantises → starts (.quantisePacket e.id)) ∧ (¬ quantises → exec (.quantisePacket e.id) s = .next s)) ∧
  (∀ (s : State) (e : EngOp), engineOf s e.id = some e → e.kind ≠ .panel → e.kind ≠ .gath →
    let ends := opRuns s e = true ∧ elemCount e ≤ e.pos ∧ e.inFlight = 0 ∧ (e.kind = .cpyRed → e.landed = opBytes e)
    (¬ ends → exec (.tokenFill e.id) s = .next s) ∧
    (ends → e.cq = false → e.token < 64 → e.token ≠ 0 → ∀ g, thread? s e.tid = some g → g.wait ≠ .draining →
      ∃ t h, exec (.tokenFill e.id) s = .next t ∧ t.mem = s.mem ∧ thread? t e.tid = some h ∧
        readK h (kAt e.token) = BitVec.ofNat 64 e.landed ∧ kIsEmpty h (kAt e.token) = false ∧
        (∀ n, n ≠ kAt e.token → readK h n = readK g n ∧ kIsEmpty h n = kIsEmpty g n) ∧
        h.v = g.v ∧ h.pc = g.pc ∧ h.fpflags = g.fpflags ||| e.flags ∧ engineOf t e.id = none ∧ ∀ x ∈ t.sections, x.op ≠ e.id) ∧
    (ends → e.cq = true → e.bundle ≠ 0 → (bundleOf s e.bundle).id = e.bundle → (bundleOf s e.bundle).retired = false →
      1 < (bundleOf s e.bundle).left → ∃ t, exec (.tokenFill e.id) s = .next t ∧ t.mem = s.mem ∧ t.g = s.g ∧ engineOf t e.id = none ∧
        bundleOf t e.bundle = { bundleOf s e.bundle with left := (bundleOf s e.bundle).left - 1 }) ∧
    (ends → e.cq = true → e.bundle ≠ 0 → (bundleOf s e.bundle).id = e.bundle → (bundleOf s e.bundle).retired = false →
      (bundleOf s e.bundle).left ≤ 1 → ∃ t, exec (.tokenFill e.id) s = .next t ∧ engineOf t e.id = none ∧
        bundleOf t e.bundle = { bundleOf s e.bundle with left := 0, retired := true } ∧
        ((bundleOf s e.bundle).sig = 0 → t.mem = s.mem) ∧
        ∀ pa, (bundleOf s e.bundle).sig ≠ 0 → translateNow s (bundleOf s e.bundle).ctx (bundleOf s e.bundle).sig 1 = .ok (.hbm pa) →
          homeRead t pa 8 = decremented (homeRead s pa 8))) ∧
  (∀ (s : State) (e : EngOp) (g : Group), engineOf s e.id = some e → e.kind = .gath → thread? s e.tid = some g → g.wait ≠ .draining → g.ctx = e.ctx →
    e.cq = false → e.token < 64 → e.token ≠ 0 → (blockOf s e.block).threads ≠ [] →
    let d := e.desc
    let clu := cluOfCore e.core
    let n := bits (word d 3) 6 0
    let fmt := bits (word d 3) 31 24
    let w := if fmt = 0x04 then 2 else 1
    let at' (i : Nat) := bits (word d i) 56 0
    let got (t : State) (a n x : Nat) : Prop := engRead t e a n = .ok x ∧ rangeRoom t e a n 4 = true
    let fails := ∃ t, exec (.tokenFill e.id) s = .next t ∧ engineOf t e.id = none ∧ (∀ x ∈ t.sections, x.op ≠ e.id) ∧ matrixOf t clu = matrixOf s clu ∧
      (ctxEnded s e.ctx = false → coreStopped t e.core = true)
    (opRuns s e = false ∨ sparseRuns s clu = true → exec (.tokenFill e.id) s = .next s) ∧
    (opRuns s e = true → sparseRuns s clu = false → ∀ x y z, got s (at' 0) (4 * (n + 1)) x →
      let offs := wordsFrom x 4 (n + 1)
      let nnz := offs.getLastD 0
      let s1 := recallFor s e (at' 0) (4 * (n + 1))
      let s2 := recallFor s1 e (at' 1) (2 * nnz)
      let idx := wordsFrom y 2 nnz
      let vals := (wordsFrom z w nnz).map fun v => if fmt = 0x11 then v % 64 else v
      (4096 < nnz → fails) ∧
      (nnz ≤ 4096 → got s1 (at' 1) (2 * nnz) y → got s2 (at' 2) (w * nnz) z →
        (gathOk offs idx (bits (word d 3) 17 8) = false → fails) ∧
        (gathOk offs idx (bits (word d 3) 17 8) = true → ∃ t h, exec (.tokenFill e.id) s = .next t ∧ engineOf t e.id = none ∧
          thread? t e.tid = some h ∧ readK h (kAt e.token) = BitVec.ofNat 64 nnz ∧ kIsEmpty h (kAt e.token) = false ∧
          matrixOf t clu = { matrixOf s clu with gN := n, gK := bits (word d 3) 17 8, gFmt := fmt, gNnz := nnz, gEnt := gathTable offs idx vals }))))

/-- R207, R211, R249, R387: LANDING of a linear copy. An operation that may not run, or has nothing left, lands nothing. The next 16 bytes, of
this package's memory or of a scratchpad, are read at their place and written at theirs; no other byte of memory changes; the operation and
its arrival record count them. It waits for the miss entries of lines that their slices do not hold (R245). A fault at the source stops the
operation before the element, and the core that issued it.

R208, R209, R212, R221, R225, R249: LANDING of one element of the other operations. A unit of CPY.T is the tensor's, with its elements outside
replaced by the fill, or the fill alone; one of CPY.TS is written only where it lies inside the tensor; CPY.L and CPY.REM copy; MST writes an
element of its tile; a quantise request writes the payload of a step and, for a scaled format it encodes, the scale byte. The operation counts
the bytes and takes the flags; no other byte of memory changes. Said where every piece lies in an aperture or in a page that the TLB holds, and no
two pieces of a range lie over one another in memory.

R88, R210: contributions to a line of a reduction fold in the order of their indices, whatever the order of their arrival, the first with
its NaNs canonical; with every contribution the line is written, and before that every byte of memory stays as it is. -/
def Obligations.EngineData : Prop :=
  (∀ (s : State) (e : EngOp), engineOf s e.id = some e → e.kind = .cpyRem →
    let src := bits (word e.desc 1) 56 0 + 16 * e.pos
    let dst := bits (word e.desc 0) 56 0 + 16 * e.pos
    let place (va : Nat) (kind : Kind) : Option Loc :=
      if inAperture va then (match spadPlace s (opGroup e) (va % 2 ^ 28) 0 16 with | .ok l => some l | .error _ => none)
      else match translateNow s e.ctx va kind with | .ok (.hbm pa) => some (.hbm pa) | _ => none
    let goes := opRuns s e = true ∧ e.pos < elemCount e ∧ writeRoom s e = true
    (¬ goes → exec (.landing e.id) s = .next s) ∧
    (goes → rangeRoom s e src 16 4 = false → (∃ x, engRead s e src 16 = .ok x) → exec (.landing e.id) s = .next s) ∧
    (goes → rangeRoom s e src 16 4 = true → src % 16 = 0 → dst % 16 = 0 → s.bad = [] → ∀ l m, place src 4 = some l → place dst 5 = some m →
      (∀ pa, m = .hbm pa → underWindow s pa 16 = false) →
      ∃ t op, exec (.landing e.id) s = .next t ∧ t.g = s.g ∧ placeRead t m 16 = placeRead s l 16 ∧
        (∀ a, a < 2 ^ 52 → (∀ pa, m = .hbm pa → a < pa ∨ pa + 16 ≤ a) → coherentByte t a = coherentByte s a) ∧
        engineOf t e.id = some op ∧ op.pos = e.pos + 1 ∧ op.landed = e.landed + 16 ∧
        (e.useRec = true → s.blocks.any (fun b => b.id == e.recBlk) = true →
          (recordAt t e.recBlk e.recIdx).rcv = (recordAt s e.recBlk e.recIdx).rcv + 16)) ∧
    (goes → ∀ c k a, engRead s e src 16 = .fault c k a → ∃ t op, exec (.landing e.id) s = .next t ∧ engineOf t e.id = some op ∧
      op.pos = e.pos ∧ op.landed = e.landed ∧ op.fault.isSome = true ∧
      (e.cq = false → ctxEnded s e.ctx = false → (∀ g, threadEver s e.tid = some g → g.ctx = e.ctx) → coreStopped t e.core = true))) ∧
  (∀ (s : State) (e : EngOp), engineOf s e.id = some e → opRuns s e = true → e.pos < elemCount e → writeRoom s e = true → s.bad = [] →
    let go := exec (.landing e.id) s
    let el := elemAt e e.pos
    let place (va n : Nat) : Option Loc :=
      if inAperture va then (match spadPlace s (opGroup e) (va % 2 ^ 28) 0 n with | .ok l => some l | .error _ => none)
      else match translateNow s e.ctx va 5 with | .ok (.hbm pa) => some (.hbm pa) | _ => none
    let got (t : State) (a n x : Nat) : Prop := engRead t e a n = .ok x ∧ rangeRoom t e a n 4 = true
    let held (va : Nat) : Prop := inAperture va = true ∨
      ∃ l, tlbFind s e.ctx va = some l ∧ (l.fab = true → getT 0 s.fmTlb (fabricOffset l va / 2 ^ 21) ≠ 0)
    let here (a n : Nat) : Prop := ∀ p ∈ piecesOf a n, held p.1 ∧
      (∀ q ∈ piecesOf a n, q ≠ p → ∀ m c, place p.1 p.2 = some m → place q.1 q.2 = some c → overlap m p.2 c q.2 = false) ∧
      ∃ m, place p.1 p.2 = some m ∧ ∀ pa, m = .hbm pa → pa + p.2 ≤ 2 ^ 52 ∧ (e.kind = .qntEnc ∨ e.kind = .qntDec ∨ underWindow s pa p.2 = false)
    let part (a : Nat) (p : Nat × Nat) (v : Nat) : Nat := v / 2 ^ (8 * (p.1 - a)) % 2 ^ (8 * p.2)
    let written (t : State) (a n bm x : Nat) : Prop := ∀ p ∈ piecesOf a n, ∀ m, place p.1 p.2 = some m →
      placeRead t m p.2 = mergeBits p.2 (part a p bm) (placeRead s m p.2) (part a p x)
    let outside (a n x : Nat) : Prop := ∀ p ∈ piecesOf a n, ∀ pa, place p.1 p.2 = some (.hbm pa) → x < pa ∨ pa + p.2 ≤ x
    let counts (t : State) (n : Nat) (f : Flags) : Prop := t.g = s.g ∧
      engineOf t e.id = some { e with pos := e.pos + 1, landed := e.landed + n, flags := e.flags ||| f }
    let puts (bm x : Nat) (f : Flags) : Prop := here el.dst el.size → ∃ t, go = .next t ∧ counts t el.size f ∧ written t el.dst el.size bm x ∧
      ∀ a, a < 2 ^ 52 → outside el.dst el.size a → coherentByte t a = coherentByte s a
    let all := allBits el.size
    (e.kind = .cpyTs → el.live = false → ∃ t, go = .next t ∧ counts t 0 0 ∧ t.mem = s.mem) ∧
    (e.kind = .cpyT → el.src = none → puts all (fillUnit e.desc) 0) ∧
    (e.kind = .cpyT → ∀ a x, el.src = some a → got s a el.size x → puts all (mergeUnit el.keep x (fillUnit e.desc)) 0) ∧
    (e.kind = .cpyTs → el.live = true → ∀ a x, el.src = some a → got s a el.size x →
      puts (if el.keep < 4 then 2 ^ (6 * el.keep) - 1 else all) x 0) ∧
    (e.kind = .cpyL ∨ e.kind = .cpyRem → ∀ a x, el.src = some a → got s a el.size x → puts all x 0) ∧
    (e.kind = .mst → puts all (tileElem s e e.pos).1 (tileElem s e e.pos).2) ∧
    (∀ enc : Bool, e.kind = (if enc then .qntEnc else .qntDec) →
      let scaled := isScaled (qntTaper e)
      let src := bits (word e.desc 0) 56 0 + e.pos * (if enc then qntBin e else qntPay e)
      let dst := bits (word e.desc 1) 56 0 + e.pos * (if enc then qntPay e else qntBin e)
      let scl := bits (word e.desc 2) 56 0 + e.pos
      let size := if enc then qntPay e else qntBin e
      let after := recallFor s e src (qntPay e)
      let apart := ∀ p ∈ piecesOf dst size, ∀ m c, place p.1 p.2 = some m → place scl 1 = some c → overlap m p.2 c 1 = false
      ∀ x c, got s src (if enc then qntBin e else qntPay e) x → (enc = false → scaled = true → got after scl 1 c) → here dst size →
        let r := qntStepValue e x (if scaled then c else 0)
        let both := enc = true ∧ scaled = true
        (¬ both → ∃ t, go = .next t ∧ counts t size r.2.2 ∧ written t dst size (allBits size) r.1) ∧
        (both → here scl 1 → ∃ t, go = .next t ∧ counts t (size + 1) r.2.2 ∧ written t scl 1 (allBits 1) r.2.1 ∧
          (apart → written t dst size (allBits size) r.1)))) ∧
  ((∀ (r : Reduction) (x y : Nat), r.next = 0 → r.held = [] → r.n = 2 →
    takeRed (takeRed r 0 0 x) 1 1 y = takeRed (takeRed r 1 1 y) 0 0 x ∧
    (takeRed (takeRed r 1 1 y) 0 0 x).acc = foldLine r.fmt (canonLine r.fmt x) y ∧
    (takeRed (takeRed r 1 1 y) 0 0 x).next = 2) ∧
  (∀ (s : State) (e : EngOp) (pas pad : Nat), engineOf s e.id = some e → opRuns s e = true → e.kind = .cpyRed → e.pos < elemCount e →
    let src := bits (word e.desc 1) 56 0 + 128 * e.pos
    let dst := bits (word e.desc 0) 56 0 + 128 * e.pos
    let n := bits (word e.desc 3) 31 16
    let j := bits (word e.desc 3) 15 0
    src % 128 = 0 → inAperture src = false → translateNow s e.ctx src 4 = .ok (.hbm pas) → translateNow s e.ctx dst 5 = .ok (.hbm pad) →
    rangeRoom s e src 128 4 = true → underWindow s pad 128 = false → s.bad = [] → s.reds = [] → j < n →
    ∃ t op, exec (.reductionContribution e.id e.pos) s = .next t ∧ t.g = s.g ∧ engineOf t e.id = some op ∧ op.pos = e.pos + 1 ∧
      (n = 1 → readN t.mem pad 128 = canonLine (bits (word e.desc 2) 39 32) (homeRead s pas 128) % 2 ^ 1024 ∧ op.landed = e.landed + 128) ∧
      (1 < n → (∀ a, a < 2 ^ 52 → coherentByte t a = coherentByte s a) ∧ op.landed = e.landed ∧
        ∃ r ∈ t.reds, r.pa = pad ∧ hasIndex r j = true ∧ ∀ k, k ≠ j → hasIndex r k = false)))

/-- R300, R401: a packet whose number its stream has passed already is not performed again: at most it is answered, and no byte of memory changes;
one that is ahead of its turn waits in the reorder buffer. A multicast store or a contribution that has been performed is not performed again. -/
def Obligations.StreamOrder : Prop :=
  ∀ (s : State) (p : Packet) (i : Instr), fabricUp s = true →
    let d := (p.seq + 2 ^ 32 - getT 0 s.recvSeq (streamKey p)) % 2 ^ 32
    let same (t : State) : Prop := t.mem = s.mem ∧ t.g = s.g ∧ t.recvSeq = s.recvSeq
    ((i, p.kind) ∈ ([(.rdreq p, 0x01), (.rdrsp p, 0x02), (.pwr p, 0x03), (.evict p, 0x04), (.inv p, 0x05), (.atom p, 0x06), (.atrsp p, 0x07),
        (.flush p, 0x08), (.flrsp p, 0x09), (.pricePacket p, 0x0C), (.jrec p, 0x0D), (.jack p, 0x0E), (.ewr p, 0x0F), (.eack p, 0x10),
        (.probe p, 0x11), (.prsp p, 0x12)] : List (Instr × Nat)) → p.dst = pkgNum s →
      (2 ^ 31 ≤ d → ∃ t, exec i s = .next t ∧ (p.kind ≠ 0x01 → same t) ∧ t.g = s.g ∧ t.recvSeq = s.recvSeq ∧ t.reorder = s.reorder ∧
        ∀ a, a < 2 ^ 52 → coherentByte t a = coherentByte s a) ∧
      (0 < d → d < 2 ^ 31 → ∃ t, exec i s = .next t ∧ same t ∧ p ∈ t.reorder ∧ ∀ q ∈ t.reorder, q = p ∨ q ∈ s.reorder)) ∧
    ((i, p.kind) ∈ ([(.mcast p, 0x0A), (.red p, 0x0B)] : List (Instr × Nat)) → p.kind = 0x0A ∨ p.dst = pkgNum s →
      getT 0 s.recvSeq (performedKey p) ≠ 0 → ∃ t, exec i s = .next t ∧ same t ∧ t.reorder = s.reorder)

/-- R302, R391: a request for a line is answered with the line as its home holds it, and the asker is noted as a holder once more; one that the
second stage refuses is answered with the refusal, and one for a line that is lost with the mark of the loss. EVICT takes one note back; INV drops
the line from every RDC share of the package. How the answer names its request and marks a refusal or a loss is the model's (log 16).

R202, R302, R383, R391: the reply to a request for a line. A load whose last peer's line it is goes on with the line's bytes, its
destination empty until they land; a reply that refuses, or that tells of lost data, is a fault taken at the load. A monitor takes the double: it
returns when the value has changed or it was woken, and is armed otherwise. The reply to an engine's request is kept with its operation. The marks
of a reply are the model's (log 16). -/
def Obligations.LinePackets : Prop :=
  (∀ (s : State) (p : Packet), InTurn s p →
    let place := fabricPlace s p.ctx p.offset true false
    (p.kind = 0x01 → ∃ t q, exec (.rdreq p) s = .next t ∧ t.g = s.g ∧ Answers s t q ∧ q.kind = 0x02 ∧ q.dst = p.src ∧ q.len = 2 ∧
      (∀ pa, place = some pa → getT 0 t.holders (holderKey pa p.src) = getT 0 s.holders (holderKey pa p.src) + 1 ∧
        (∀ n, n ≠ holderKey pa p.src → getT 0 t.holders n = getT 0 s.holders n) ∧
        (lostHome s (pa / 128) = none → q.data = homeRead s (pa / 128 * 128) 128 ∧ q.mask = BitVec.ofNat 128 (tagOf p) ∧
          ∀ a, a < 2 ^ 52 → coherentByte t a = coherentByte s a) ∧
        (∀ c, lostHome s (pa / 128) = some c → isRefused q = false ∧ lostMark q = c ∧ t.mem = s.mem)) ∧
      (place = none → isRefused q = true ∧ t.mem = s.mem ∧ t.holders = s.holders)) ∧
    (p.kind = 0x04 → ∃ t, exec (.evict p) s = .next t ∧ t.mem = s.mem ∧ (place = none → t.holders = s.holders) ∧
      ∀ pa, place = some pa → ∀ n, getT 0 t.holders n = if n = holderKey pa p.src then getT 0 s.holders n - 1 else getT 0 s.holders n) ∧
    (p.kind = 0x05 → ∃ t, exec (.inv p) s = .next t ∧ t.mem = s.mem ∧ t.l1 = s.l1 ∧
      ∀ e, e ∈ t.rdc ↔ e ∈ s.rdc ∧ e.1 % 2 ^ 60 ≠ lineKey (.peer p.src p.offset))) ∧
  (∀ (s : State) (p : Packet) (k : Kept) (g : Group), InTurn s p → Steady s p → p.kind = 0x02 → requestOf s p 0x01 = some k →
    let key := lineKey (.peer p.src k.packet.offset)
    let data := p.data % 2 ^ 1024
    (∀ f, k.op = 0 → k.core ≠ noCore → (∀ m ∈ s.monitors, m.tid ≠ k.tid) → thread? s k.tid = some g → g.wait = .peer f.id →
      s.flights.find? (fun x => x.id == f.id) = some f → f.tid = k.tid → f.atoms = [] → (∃ r ∈ f.reqs, r.done = false ∧ (peerPkg r.loc).isSome = true) →
      (∀ r ∈ f.reqs, reqRefused r = false ∧ (r.done = false → (peerPkg r.loc).isSome = true → lineKey r.loc = key ∧ r.size ≤ 8)) →
      (deniedBy p = none → (∀ w, windowOf s k.tid = some w → w.resolved = none) →
        ∃ t h f', exec (.rdrsp p) s = .next t ∧
          (p.src < 2 ^ 12 → k.packet.offset < 2 ^ 48 → ∀ a, a < 2 ^ 52 → coherentByte t a = coherentByte s a) ∧ thread? t k.tid = some h ∧
          h.wait = (if f.acq then .acquire f.id else .none) ∧ h.pc = g.pc + 4 ∧ h.k = g.k ∧ h.v = g.v ∧
          t.flights.find? (fun x => x.id == f.id) = some f' ∧
          f' = { f with reqs := f.reqs.map fun r => if r.done = false ∧ (peerPkg r.loc).isSome = true then
            { r with done := true, val := data / 2 ^ (8 * lineOff r.loc) % 2 ^ (8 * r.size) } else r }) ∧
      (deniedBy p ≠ none → windowOf s k.tid = none → ∃ t h, exec (.rdrsp p) s = .next t ∧ coreStopped t g.core = true ∧
        thread? t k.tid = some h ∧ h.pc = unitPc g ∧ h.k = g.k ∧ ∀ x ∈ t.flights, x.id ≠ f.id)) ∧
    (∀ m, k.op = 0 → k.core ≠ noCore → s.monitors.find? (fun x => x.tid == k.tid && lineKey x.loc == key) = some m → deniedBy p = none →
      thread? s k.tid = some g →
      let v := BitVec.ofNat 64 (data / 2 ^ (8 * lineOff m.loc) % 2 ^ 64)
      (m.armed = true ∨ m.woken = true ∨ v ≠ m.old → ∃ t h, exec (.rdrsp p) s = .next t ∧ thread? t k.tid = some h ∧ h.wait = .none ∧
        h.pc = g.pc + 4 ∧ (m.d % 64 ≠ 0 → readK h (kAt m.d) = v) ∧ ∀ x ∈ t.monitors, x.tid ≠ k.tid) ∧
      (m.armed = false → m.woken = false → v = m.old → ∃ t, exec (.rdrsp p) s = .next t ∧ t.g = s.g ∧ t.mem = s.mem ∧
        ∀ x ∈ t.monitors, x.tid = k.tid → x.armed = true)) ∧
    (∀ e, k.op = e.id → e.id ≠ 0 → engineOf s e.id = some e →
      ∃ t op, exec (.rdrsp p) s = .next t ∧ t.mem = s.mem ∧ engineOf t e.id = some op ∧
        op.got = e.got ++ [(key, ((deniedBy p).map (refusedLine + ·)).getD data)] ∧ t.kept = s.kept.erase k))

/-- R209, R211, R241, R305, R383, R388: a posted store, a multicast store and an engine write are performed at the home: the masked bytes take
the data, and no other byte changes; of an engine write that changes only some bits of its bytes, the others stay. An engine write is
acknowledged. One that the second stage refuses writes nothing, and neither does an engine write under a window or to a lost line (R391). The marks of
an acknowledgement, and which bits of an engine write OPERAND names, are the model's (log 16).

R210, R211, R306: a contribution from a peer folds into its line at the home; the last one writes the line and acknowledges the
contributors; a prefix of several indices stands for their fold. An acknowledgement of an engine write counts its bytes as landed. The layout of RED
and of its acknowledgement, and that the home has room for every contribution out of order, are the model's (logs 16, 25). -/
def Obligations.WritePackets : Prop :=
  (∀ (s : State) (p : Packet) (i : Instr) (kind : Nat),
    (i, kind) ∈ ([(.pwr p, 0x03), (.mcast p, 0x0A), (.ewr p, 0x0F)] : List (Instr × Nat)) → InTurn s p → p.kind = kind → (kind = 0x0F → p.len = 2) →
    let acked (t : State) (bad : Bool) (x : BitVec 64) : Prop := kind = 0x0F →
      ∃ q, Answers s t q ∧ q.kind = 0x10 ∧ q.dst = p.src ∧ isRefused q = bad ∧ q.mask.toNat % 2 ^ 37 = tagOf p ∧ q.operand = x
    let whole := kind = 0x0F → p.operand.getLsbD 63 = false
    let b0 := firstByte p.mask
    let n := byteCount p.mask
    (fabricPlace s p.ctx p.offset false true = none → ∃ t, exec i s = .next t ∧ t.mem = s.mem ∧ t.g = s.g ∧ acked t true 0) ∧
    (∀ pa, fabricPlace s p.ctx p.offset false true = some pa →
      let line := pa / 128 * 128
      (kind = 0x0F → underWindow s pa 128 = true → ∃ t, exec i s = .next t ∧ t.mem = s.mem ∧ t.g = s.g ∧ acked t false 1) ∧
      (∀ c, kind = 0x0F → underWindow s pa 128 = false → lostHome s (pa / 128) = some c → ∃ t q, exec i s = .next t ∧ t.mem = s.mem ∧ t.g = s.g ∧
        Answers s t q ∧ q.kind = 0x10 ∧ q.dst = p.src ∧ isRefused q = false ∧ lostMark q = c) ∧
      ((kind = 0x0F → underWindow s pa 128 = false ∧ lostHome s (pa / 128) = none) → ∃ t, exec i s = .next t ∧ t.g = s.g ∧ acked t false 0 ∧
        (whole → ∀ b, b < 128 → p.mask.getLsbD b = true → readByte t.mem (line + b) = BitVec.ofNat 8 (p.data / 2 ^ (8 * b))) ∧
        (¬ whole → p.mask = span b0 n → 0 < n → n ≤ 3 → b0 + n ≤ 128 →
          homeRead t (line + b0) n = mergeBits n (p.operand.toNat % 2 ^ 24) (homeRead s (line + b0) n) (p.data / 2 ^ (8 * b0) % 2 ^ (8 * n)) % 2 ^ (8 * n)) ∧
        (∀ a, a < 2 ^ 52 → (∀ b, b < 128 → p.mask.getLsbD b = true → a ≠ line + b) → coherentByte t a = coherentByte s a)))) ∧
  ((∀ (s : State) (p : Packet) (pa : Nat), InTurn s p → p.kind = 0x0B → p.len = 2 → fabricPlace s p.ctx p.offset false true = some pa →
    underWindow s pa 128 = false → s.reds = [] → s.covered = [] →
    let n := p.mask.toNat / 2 ^ 25 % 2 ^ 13
    let fmt := p.mask.toNat / 2 ^ 38 % 2 ^ 8
    let x := p.data % 2 ^ 1024
    let lo := p.operand.toNat % 2 ^ 16
    let hi := p.operand.toNat / 2 ^ 16 % 2 ^ 16
    lo ≤ hi → hi < n →
    ∃ t, exec (.red p) s = .next t ∧ t.g = s.g ∧
      (n = 1 → readN t.mem pa 128 = canonLine fmt x % 2 ^ 1024 ∧ ∃ q, Answers s t q ∧ q.kind = 0x10 ∧ q.dst = p.src ∧ q.operand = 4) ∧
      (lo = 0 → 0 < hi → hi + 1 = n → readN t.mem pa 128 = x ∧ ∃ q, Answers s t q ∧ q.kind = 0x10 ∧ q.dst = p.src ∧ q.operand = 4) ∧
      (lo = hi → 1 < n → t.mem = s.mem ∧ ∃ r ∈ t.reds, r.pa = pa ∧ hasIndex r lo = true ∧ ∀ k, k ≠ lo → hasIndex r k = false) ∧
      (lo = 0 → 0 < hi → hi + 1 < n → t.mem = s.mem ∧ ∃ r ∈ t.reds, r.pa = pa ∧ r.next = hi + 1 ∧ r.acc = x)) ∧
  (∀ (s : State) (p : Packet) (k : Kept) (e : EngOp), InTurn s p → Steady s p → p.kind = 0x10 → p.operand = 0 → deniedBy p = none →
    requestOf s p 0x0F = some k → k.op = e.id → engineOf s e.id = some e → e.dead = false → e.useRec = false → s.flagWrites = [] →
    ∃ t, exec (.eack p) s = .next t ∧ t.mem = s.mem ∧ t.g = s.g ∧ t.kept = s.kept.erase k ∧
      engineOf t e.id = some { e with inFlight := e.inFlight - 1, landed := e.landed + byteCount k.packet.mask }))

/-- R196, R199, R285, R365: an atomic request of a peer is performed at the home with its last packet, and answered with the word as it was; so
are the decrement and the error word of a completion signal. One that the second stage refuses, or whose data is lost (R391), is answered so. The layout of the data
and the marks are the model's (log 16).

R146, R196, R199, R383: the replies to an atomic and to a flushing read let their thread go on; a refused flush is a fault at its FLUSHR. A
FLUSH is answered, and changes nothing. The mark of a refusal is the model's (log 16). -/
def Obligations.AtomPackets : Prop :=
  (∀ (s : State) (p : Packet), InTurn s p → p.kind = 0x06 →
    let place := fabricPlace s p.ctx (p.offset + firstByte p.mask) true true
    let n := byteCount p.mask
    let code := p.data % 256
    let parts := s.atomParts.filter (sameRequest p) ++ [p]
    ∃ t q, exec (.atom p) s = .next t ∧ t.g = s.g ∧ Answers s t q ∧ q.kind = 0x07 ∧ q.dst = p.src ∧ q.mask.toNat % 2 ^ 37 = tagOf p ∧
      (hasMore p = true → t.mem = s.mem ∧ t.atomParts = s.atomParts ++ [p] ∧ isRefused q = false) ∧
      (hasMore p = false → place = none → t.mem = s.mem ∧ isRefused q = true) ∧
      (hasMore p = false → ∀ pa c, place = some pa → lostHome s (pa / 128) = some c → t.mem = s.mem ∧ isRefused q = false ∧ lostMark q = c) ∧
      (hasMore p = false → ∀ pa, place = some pa → lostHome s (pa / 128) = none →
        let old := homeRead s pa n
        isRefused q = false ∧ q.operand = BitVec.ofNat 64 old ∧
        (code < 9 → homeRead t pa n = (runAtom (opFromCode code) n old (atomLanes parts)).2.1 % 2 ^ (8 * n)) ∧
        (code = 9 → n = 8 → homeRead t pa 8 = if 2 ^ 63 ≤ old then old else (old + 2 ^ 64 - 1) % 2 ^ 64) ∧
        (code = 10 → n = 8 → homeRead t pa 8 = if 2 ^ 63 ≤ old then old else errorWord old (p.data / 256 % 256) (p.data / 2 ^ 16 % 2 == 1)) ∧
        (n = 8 ∨ code < 9 → ∀ a, a < 2 ^ 52 → a < pa ∨ pa + n ≤ a → coherentByte t a = coherentByte s a))) ∧
  ((∀ (s : State) (p : Packet), InTurn s p → p.kind = 0x08 → ∃ t q, exec (.flush p) s = .next t ∧ t.mem = s.mem ∧ t.g = s.g ∧
    Answers s t q ∧ q.kind = 0x09 ∧ q.dst = p.src ∧ isRefused q = (fabricPlace s p.ctx p.offset true false).isNone) ∧
  (∀ (s : State) (p : Packet) (k : Kept) (g : Group), InTurn s p → Steady s p → p.kind = 0x09 → requestOf s p 0x08 = some k →
    thread? s k.tid = some g → g.wait = .flush p.src →
    (isRefused p = false → ∃ t, exec (.flrsp p) s = .next t ∧ t.mem = s.mem ∧ t.kept = s.kept.erase k ∧
      thread? t k.tid = some (advance { g with wait := .none }) ∧ ∀ u, u ≠ k.tid → thread? t u = thread? s u) ∧
    (isRefused p = true → windowOf s k.tid = none → ∃ t h, exec (.flrsp p) s = .next t ∧ coreStopped t g.core = true ∧
      thread? t k.tid = some h ∧ h.pc = unitPc g ∧ h.k = g.k)) ∧
  (∀ (s : State) (p : Packet) (k : Kept) (f : Flight) (a : AtomReq) (g : Group), InTurn s p → Steady s p → p.kind = 0x07 →
    requestOf s p 0x06 = some k → deniedBy p = none → k.core ≠ noCore → hasMore k.packet = false → s.flagWrites = [] → windowOf s k.tid = none →
    thread? s k.tid = some g → g.wait = .peer f.id → s.flights = [f] → f.tid = k.tid → f.reqs = [] → f.rows ≠ 0 → f.atoms = [a] →
    a.done = false → (∀ x ∈ a.lanes, x.1 < 512) → a.loc = .peer k.packet.dst (k.packet.offset + firstByte k.packet.mask) → f.acq = false →
    ∃ t h f', exec (.atrsp p) s = .next t ∧ t.mem = s.mem ∧ thread? t k.tid = some h ∧ h.wait = .none ∧ h.pc = g.pc + 4 ∧ h.k = g.k ∧
      t.flights = [f'] ∧ f'.atoms = [{ a with olds := (runAtom a.op a.size p.operand.toNat a.lanes).1, done := true }]))

/-- R307, R400, R427: the states of a link. LIVE_TIMER sends a liveness flit on it; a flit that comes brings it up, and what waited for it leaves.
Sixteen flits in a row that fail their check, or the loss of lock, make it retrain; the third failure of retraining in a row, or silence, brings
it down: its plane is then dead for every package until a packet of that package has come on it (log 43, DEDUCED). A link that is down loses no lock
and fails no check, and one that retrains is not silent. R297, R303: what leaves goes out under the package's number, PRIO first. That any flit
brings a link up that is down is log 21. -/
def Obligations.LinkEvents : Prop :=
  ∀ (s : State) (l : Nat), l < 18 →
    let x := linkOf s l
    let letOut (t : State) : Prop := t = { s with links := t.links, sent := t.sent, outbox := t.outbox, kept := t.kept } ∧
      t.outbox = s.outbox.filter (fun p => !mayLeave t p) ∧
      (let out := s.outbox.filter (mayLeave t)
       t.sent = s.sent ++ (out.filter (fun p => p.prio) ++ out.filter fun p => !p.prio).map (underNumber s) ∧
       t.kept = s.kept.map fun k => if out.contains k.packet then { k with packet := underNumber s k.packet } else k) ∧
      ∀ p, underNumber s p = { p with src := pkgNum s, data := (underNumber s p).data } ∧
        (¬ (p.kind = 0x0D ∧ p.operand.toNat % 16 = 1) → (underNumber s p).data = p.data) ∧
        (p.kind = 0x0D → p.operand.toNat % 16 = 1 → (underNumber s p).data / 2 ^ 64 % 2 ^ 12 = pkgNum s)
    let falls (i : Instr) : Prop := ∃ t, exec i s = .next t ∧
      t = { s with links := t.links, fell := t.fell, peers := t.peers, sent := t.sent, outbox := t.outbox, kept := t.kept } ∧
      (linkOf t l).up = false ∧ (linkOf t l).training = false ∧ (∀ m, m ≠ l → linkOf t m = linkOf s m) ∧
      ∀ p, (deadPlanes t p).getLsbD l = true ∧ (peerOf t p).back.getLsbD l = false
    (∃ t, exec (.live l) s = .next t ∧ letOut t ∧ linkOf t l = { x with up := true, errors := 0 } ∧ ∀ m, m ≠ l → linkOf t m = linkOf s m) ∧
    (s.powered = true → ∃ t q, exec (.liveTimer l) s = .next t ∧ t = { s with sent := s.sent ++ [q], sendSeq := t.sendSeq } ∧ q.kind = 0x00 ∧
      q.plane = l ∧ q.via = l) ∧
    (s.powered = false → exec (.liveTimer l) s = .next s) ∧
    (x.up = true → x.training = false → busyPeers s = [] → falls (.linkSilenceTimeout l)) ∧
    (¬ (x.up = true ∧ x.training = false) → exec (.linkSilenceTimeout l) s = .next s ∧ exec (.flitCrcError l) s = .next s) ∧
    (x.up = true → x.training = false → ∃ t, exec (.flitCrcError l) s = .next t ∧ t = { s with links := t.links } ∧
      (x.errors < 15 → linkOf t l = { x with errors := x.errors + 1 }) ∧
      (15 ≤ x.errors → linkOf t l = { x with errors := 0, training := true }) ∧ ∀ m, m ≠ l → linkOf t m = linkOf s m) ∧
    (x.up = true → ∃ t, exec (.linkLockLoss l) s = .next t ∧ t = { s with links := t.links } ∧
      linkOf t l = { x with errors := 0, training := true } ∧ ∀ m, m ≠ l → linkOf t m = linkOf s m) ∧
    (x.up = false → exec (.linkLockLoss l) s = .next s) ∧
    (x.training = true →
      (∃ t, exec (.linkRetrainDone l true) s = .next t ∧ letOut t ∧ linkOf t l = { x with training := false, fails := 0, errors := 0 } ∧
        ∀ m, m ≠ l → linkOf t m = linkOf s m) ∧
      (x.fails < 2 → ∃ t, exec (.linkRetrainDone l false) s = .next t ∧ t = { s with links := t.links } ∧
        linkOf t l = { x with fails := x.fails + 1 } ∧ ∀ m, m ≠ l → linkOf t m = linkOf s m) ∧
      (2 ≤ x.fails → busyPeers s = [] → falls (.linkRetrainDone l false))) ∧
    (x.training = false → ∀ good, exec (.linkRetrainDone l good) s = .next s)

/-- R401, R402, R427: a packet that has waited too long makes its plane dead for the pair, and what is kept on it goes to another plane; a dead
plane whose link is up is probed. R312, R402, R411: a packet that comes back from the route makes its number unknown, and an open under way to
it ends with RESULT 6. R383, R401: an acknowledgement ends the keeping of its packet; one that tells of a refused store also stops the core that
issued it. Which numbers name a multicast store, a contribution or a refusal is the model's (log 16), and that a probed or fallen plane is dead until a
packet comes on it is log 43.

R324, R401, R410, R427: suspicion, probes and the verdict: a silent partner or source is probed on plane (number mod 18), then on the next
plane, each plane whose probe stays unanswered being dead for the pair, so that what waits on it is sent again elsewhere, and the third probe
unanswered in a row declares the package failed; one on whose way another packet came does not count. A probe is answered on its plane, and tells
whether the asker's sequences have been taken over; an asker that is told so fences them. The fields of PROBE and PRSP are log 23, the probing on a
header's offer log 42, the probing of an old partner that has to answer, and that a package of closed headers is not taken over, log 65. -/
def Obligations.PlaneEvents : Prop :=
  (∀ (s : State) (pkg plane : Nat), plane < 18 →
    let waits := ∃ k ∈ s.kept, k.packet.kind ≠ 0x0A ∧ k.packet.dst = pkg ∧ k.packet.via = plane ∧ refusedWrite k = false ∧ k.packet ∉ s.outbox
    let comesBack := ∃ p ∈ s.sent, p.dst = pkg ∧ p.kind ≠ 0x00 ∧ p.kind ≠ 0x0A
    let probed := (deadPlanes s pkg).getLsbD plane = true ∧ (linkOf s plane).up = true ∧ fabricUp s = true
    (waits → unreachable s pkg = 0 → (∃ n, n < 18 ∧ n ≠ plane ∧ (deadPlanes s pkg).getLsbD n = false) →
      ∃ t, exec (.planeAckTimeout pkg plane) s = .next t ∧
        t = { s with peers := t.peers, sent := t.sent, outbox := t.outbox, kept := t.kept } ∧
        (peerOf t pkg).dead.getLsbD plane = true ∧ (∀ n, n ≠ plane → (peerOf t pkg).dead.getLsbD n = (peerOf s pkg).dead.getLsbD n) ∧
        (∀ p, p ≠ pkg → peerOf t p = peerOf s p) ∧ t.kept.length = s.kept.length ∧
        ∀ k ∈ t.kept, k.packet.dst = pkg → k.packet.kind ∉ [0x00, 0x0A, 0x11, 0x12] → refusedWrite k = false → k.packet.via ≠ plane) ∧
    (¬ waits → exec (.planeAckTimeout pkg plane) s = .next s) ∧
    (probed → ∃ t q, exec (.planeProbeTimer pkg plane) s = .next t ∧
      t = { s with sent := t.sent, outbox := t.outbox, sendSeq := t.sendSeq, kept := t.kept } ∧ Sends s t q ∧ (∃ k ∈ t.kept, k.packet = q) ∧ q.kind = 0x11 ∧ q.dst = pkg ∧ q.plane = plane ∧ q.via = plane) ∧
    (¬ probed → exec (.planeProbeTimer pkg plane) s = .next s) ∧
    (comesBack → (∀ k ∈ s.kept, k.packet.dst ≠ pkg) → s.flagWrites = [] → waitersAt s pkg = [] → s.jsCmds = [] →
      ∃ t, exec (.routeReturn pkg) s = .next t ∧ t = { s with peers := t.peers } ∧ (peerOf t pkg).unknown = true ∧ unreachable t pkg ≠ 0 ∧
        ∀ p, p ≠ pkg → peerOf t p = peerOf s p) ∧
    (¬ comesBack → exec (.routeReturn pkg) s = .next s) ∧
    (∀ q c, comesBack → (∀ k ∈ s.kept, k.packet.dst = pkg → k.packet.kind = 0x0D) → s.flagWrites = [] → waitersAt s pkg = [] →
      s.jsCmds = [c] → c.begun = true → c.seq = q.id → c.die = q.die → c.value / 2 ^ 12 % 4 = 1 → c.tid = 0 → s.seqs = [q] →
      q.isOpen = true → q.headerAcked = false → q.target = none → q.reassign = false → q.partner = pkg →
      ∃ t, exec (.routeReturn pkg) s = .next t ∧ t.mem = s.mem ∧ t.g = s.g ∧ t.jsCmds = [] ∧ csrRaw t (csrCmdst c.die) / 2 ^ 63 = 1 ∧
        csrRaw t (csrCmdst c.die) / 2 ^ 16 % 2 ^ 4 = 6) ∧
    (∀ kind off seq k, (kind, off) ∈ [(0x03, 0), (0x0A, 2 ^ 33), (0x0B, 2 ^ 34)] → seq < 2 ^ 32 → s.flagWrites = [] →
      s.kept.find? (fun k => k.packet.kind == kind && k.packet.dst == pkg && k.packet.plane == plane && k.packet.seq == seq
        && (kind == 0x03 || !k.flag)) = some k →
      exec (.endToEndAcknowledgement pkg plane (seq + off)) s = .next { s with kept := s.kept.erase k }) ∧
    (∀ kind off seq k, (kind, off) ∈ [(0x03, 0), (0x0A, 2 ^ 33)] → seq < 2 ^ 32 → s.flagWrites = [] → s.ended = [] → k.core ≠ noCore →
      s.kept.find? (fun k => k.packet.kind == kind && k.packet.dst == pkg && k.packet.plane == plane && k.packet.seq == seq
        && (kind == 0x03 || !k.flag)) = some k →
      ∃ t, exec (.endToEndAcknowledgement pkg plane (seq + 2 ^ 32 + off)) s = .next t ∧ t.kept = s.kept.erase k ∧ coreStopped t k.core = true)) ∧
  ((∀ (s : State) (pkg : Nat) (i : Instr) (silent : Prop),
    (i = .partnerSilenceTimer pkg ∧ silent = ∃ h ∈ s.partners, h.src = pkg ∧ h.stopped = false) ∨
      (∃ q, i = .sourceAckTimer q.id ∧ seqOf s q.id = some q ∧ seqDest q = pkg ∧ q.hold = false ∧
        silent = ((∃ r ∈ q.records, r.acked = false) ∧ ¬ (q.reassign = true ∧ q.target = none))) ∨
      (∃ q, i = .sourceAckTimer q.id ∧ seqOf s q.id = some q ∧ q.partner = pkg ∧ q.hold = true ∧
        ((∀ r ∈ q.records, r.acked = true) ∨ (q.reassign = true ∧ q.target = none)) ∧ silent = True) →
    let asks := silent ∧ (peerOf s pkg).probing = false ∧ (peerOf s pkg).failed = false ∧ fabricUp s = true
    (asks → ∃ t q, exec i s = .next t ∧
      t = { s with peers := t.peers, sent := t.sent, outbox := t.outbox, sendSeq := t.sendSeq, kept := t.kept } ∧ Sends s t q ∧
      (∃ k ∈ t.kept, k.packet = q) ∧ q.kind = 0x11 ∧ q.dst = pkg ∧ q.plane = pkg % 18 ∧
      peerOf t pkg = { peerOf s pkg with probing := true, probes := 0, void := false, plane := pkg % 18 }) ∧
    (¬ asks → exec i s = .next s)) ∧
  (∀ (s : State) (pkg : Nat),
    ((peerOf s pkg).probing = false → exec (.probeTimeout pkg) s = .next s) ∧
    ((peerOf s pkg).probing = true → (peerOf s pkg).plane < 18 → s.vetting = [] →
      let old := (peerOf s pkg).plane
      let n := if (peerOf s pkg).void then 0 else (peerOf s pkg).probes + 1
      (n < 3 → unreachable s pkg = 0 → (∃ m, m < 18 ∧ m ≠ old ∧ (deadPlanes s pkg).getLsbD m = false) →
        ∃ t q, exec (.probeTimeout pkg) s = .next t ∧
          t = { s with peers := t.peers, sent := t.sent, outbox := t.outbox, sendSeq := t.sendSeq, kept := t.kept } ∧ Answers s t q ∧
          q.kind = 0x11 ∧ q.dst = pkg ∧ q.plane = (old + 1) % 18 ∧ (peerOf t pkg).plane = q.plane ∧ (peerOf t pkg).probing = true ∧
          (peerOf t pkg).probes = n ∧ (peerOf t pkg).void = false ∧ (peerOf t pkg).dead.getLsbD old = true ∧
          ∀ k ∈ t.kept, k.packet.dst = pkg → k.packet.kind ∉ [0x00, 0x0A, 0x11, 0x12] → refusedWrite k = false → k.packet.via ≠ old) ∧
      (3 ≤ n → s.flagWrites = [] → s.jsCmds = [] → (∀ k ∈ s.kept, k.packet.dst ≠ pkg) → waitersAt s pkg = [] →
        ∃ t, exec (.probeTimeout pkg) s = .next t ∧ t.mem = s.mem ∧ t.g = s.g ∧ (peerOf t pkg).failed = true ∧ unreachable t pkg = 2 ∧
          ((s.seqs.map Seq.id).Nodup → ∀ q ∈ t.seqs, q.isOpen = true → q.fenced = false → seqDest q = pkg → q.reassign = true ∧ q.target = none) ∧
          ∀ h, s.partners = [h] → h.src = pkg → h.stopped = false → regionBase s ≠ none →
            t.partners = [{ h with stopped := true }] ∧
            if h.closed then t.reports = s.reports ∧ (peerOf t pkg).taken = (peerOf s pkg).taken
            else (peerOf t pkg).taken = true ∧ ∃ r, t.reports = s.reports ++ [r]))) ∧
  (∀ (s : State) (p : Packet), InTurn s p →
    (p.kind = 0x11 → ∃ t q, exec (.probe p) s = .next t ∧ t.mem = s.mem ∧ t.g = s.g ∧ Answers s t q ∧ q.kind = 0x12 ∧ q.dst = p.src ∧
      q.plane = p.via ∧ q.mask.toNat % 2 ^ 37 = tagOf p ∧ q.operand.getLsbD 0 = (peerOf s (if p.operand = 0 then p.src else p.operand.toNat - 1)).taken) ∧
    (p.kind = 0x12 → p.operand = 1 →
      ∃ t, exec (.prsp p) s = .next t ∧ ∀ q ∈ t.seqs, q.isOpen = true → q.partner = p.src → q.fenced = true) ∧
    (p.kind = 0x12 → p.operand ≠ 1 → ∃ t, exec (.prsp p) s = .next t ∧ t.seqs = s.seqs ∧ t.mem = s.mem ∧ t.g = s.g ∧
      (∀ v ∈ s.vetting, oldPartner v = p.src → v.src + 1 = p.operand.toNat / 2 → v ∉ t.vetting) ∧
      (s.reorder.contains p = false → s.vetting = [] → (peerOf t p.src).failed = false ∧ (peerOf t p.src).probing = false))))

/-- R231, R317, R319, R409: the Signal Box takes the first work of a sequence, a `JNL.X` of a thread. In ordinary mode the record is appended with
the next serial and the thread goes on with its payload; a record of the same position, kind and index is JOURNAL 3, and the core stops. In
replay mode a record that was kept gives its payload, unless its CRC fails; none at or below the horizon is a fault; the first above it ends
replay mode, discards what was not read, and is appended.

R317: an acknowledgement of records up to a serial: the records below it are acknowledged at the source, and none is lost. The fields of JACK
are the model's (log 23).

R315, R317, R318, R410, R412: the partner's side. A header that is offered takes the lowest free place of the journal region; a record in its
turn takes a free record slot and is written, a mark also in the header; one that comes before its turn is held. Intents and high-water marks are
written into the header; records and headers are discarded, and a header is held closed to takeover, as the source asks. All are answered; without
a region, a free header or a free record the answer refuses. A header that has been taken over takes nothing. A packet holds two records for each
data flit. The layout of these packets beyond Table 14.1 is the model's (log 23); that a refusal for want of a record closes the header to
takeover, and that INTENT reads 0 after the high-water mark, are log 65 (DEDUCED); that nothing is written where no memory is, is log 61. -/
def Obligations.JournalRecords : Prop :=
  (∀ (s : State) (q : Seq) (g : Group) (d reg pos kind index : Nat) (payload : BitVec 64), seqOf s q.id = some q →
    q.work = [.record g.tid d reg pos kind index payload] → q.fenced = false → q.moved = true → q.closing = false → q.emits = [] → q.truncs = [] →
    thread? s g.tid = some g → d ≠ 0 → d < 64 →
    let key (r : JRecord) : Bool := r.pos == pos && r.kind == kind && r.index == index
    let taken (x : BitVec 64) (now : State → Seq → Prop) : Prop := ∃ t h q', exec (.journalRecordAccept q.id) s = .next t ∧
      thread? t g.tid = some h ∧ h.wait = .none ∧ h.pc = g.pc + 4 ∧ readK h (kAt d) = x ∧ kIsEmpty h (kAt d) = false ∧
      (∀ n, n ≠ kAt d → readK h n = readK g n) ∧ h.v = g.v ∧ seqOf t q.id = some q' ∧ q'.work = [] ∧ now t q'
    let appended (q' : Seq) : Prop := ∃ r ∈ q'.records, r.serial = q.nextSerial ∧ r.pos = pos ∧ r.kind = kind ∧ r.index = index ∧
      r.payload = payload ∧ r.image = recordImage q.seqid pos kind index payload ∧ r.acked = false
    let stops : Prop := ∃ t q', exec (.journalRecordAccept q.id) s = .next t ∧ coreStopped t g.core = true ∧ seqOf t q.id = some q' ∧
      q'.work = [] ∧ q'.records.length = q.records.length
    (q.replay = false → q.records.any key = false → buffered s q.die < 16384 →
      taken payload fun _ q' => appended q' ∧ q'.records.length = q.records.length + 1 ∧ q'.nextSerial = q.nextSerial + 1) ∧
    (q.replay = false → q.records.any key = true → ctxEnded s g.ctx = false → stops) ∧
    (q.replay = true → ∀ r, q.records.find? key = some r →
      (soundImage r.image = true → taken r.payload fun _ q' => q'.replay = true ∧ q'.records.length = q.records.length) ∧
      (soundImage r.image = false → stops)) ∧
    (q.replay = true → q.records.any key = false →
      (belowHorizon q pos = true → stops) ∧
      (belowHorizon q pos = false → buffered s q.die < 16384 →
        taken payload fun _ q' => q'.replay = false ∧ appended q' ∧ ∀ r ∈ q'.records, r.fresh = true ∨ r.read = true))) ∧
  (∀ (s : State) (p : Packet) (q : Seq), InTurn s p → Steady s p → p.kind = 0x0E → p.operand.toNat % 32 = 0 → s.partners = [] →
    s.seqs.find? (fun q => q.isOpen && q.seqid.toNat == p.mask.toNat % 2 ^ 64 && seqDest q == p.src) = some q → seqOf s q.id = some q →
    q.fenced = false → q.reassign = false → q.closing = false → q.emits = [] → q.truncs = [] → q.moved = true ∨ q.work = [] →
    ∃ t q', exec (.jack p) s = .next t ∧ t.mem = s.mem ∧ t.g = s.g ∧ seqOf t q.id = some q' ∧
      q'.records.map JRecord.serial = q.records.map JRecord.serial ∧
      (∀ r ∈ q'.records, r.serial < p.operand.toNat / 32 → r.acked = true) ∧
      (∀ r ∈ q'.records, ¬ r.serial < p.operand.toNat / 32 → ∃ r0 ∈ q.records, r0.serial = r.serial ∧ r.acked = r0.acked)) ∧
  ((∀ (p : Packet) (n a b : Nat), p.len = 1 → p.operand.toNat / 16 = n → p.data % 2 ^ 256 = a → p.data / 2 ^ 256 % 2 ^ 256 = b → a ≠ 0 → b ≠ 0 →
    recordsIn p = [(n, a), (n + 1, b)]) ∧
  ∀ (s : State) (p : Packet), InTurn s p → p.kind = 0x0D →
    let seqid : BitVec 64 := BitVec.ofNat 64 (p.mask.toNat % 2 ^ 64)
    let answered (t : State) (x : Nat) : Prop := exec (.jrec p) s = .next t ∧ t.g = s.g ∧
      ∃ q, Answers s t q ∧ q.kind = 0x0E ∧ q.dst = p.src ∧ q.operand = BitVec.ofNat 64 x ∧ q.mask.toNat = p.mask.toNat % 2 ^ 64 + tagOf p * 2 ^ 64
    (p.operand = 1 → partnerHdr s p.src seqid = none →
      (∀ base i, regionBase s = some base → lowestFree (s.partners.map PartnerHdr.index) 65536 = some i →
        ∃ t, answered t 2 ∧ (isHbm (headerAt base i) = true → readN t.mem (headerAt base i) 512 = p.data % 2 ^ 4096) ∧
          (isHbm (headerAt base i) = false → t.mem = s.mem) ∧
          t.partners = s.partners ++ [⟨i, seqid, p.src, 0, [], false, [], false⟩]) ∧
      (regionBase s = none ∨ lowestFree (s.partners.map PartnerHdr.index) 65536 = none →
        ∃ t, answered t 3 ∧ t.mem = s.mem ∧ t.partners = s.partners)) ∧
    (∀ h base, partnerHdr s p.src seqid = some h → regionBase s = some base → h.stopped = true → p.operand.toNat % 16 ≠ 1 →
      ∃ t, exec (.jrec p) s = .next t ∧ t.mem = s.mem ∧ t.partners = s.partners) ∧
    (∀ h base, partnerHdr s p.src seqid = some h → hdrAt s h.index = some h → h.index < 65536 → h.stopped = false → regionBase s = some base →
      (∀ b, b < 512 → isHbm (headerAt base h.index + b) = true) →
      let free := lowestFree (s.partners.flatMap fun x => x.recs.map fun r => r.2) regionRecords
      let head := headerAt base h.index
      (p.operand.toNat % 16 = 0 → neededBy p ≤ h.next → h.early = [] → ∀ x, recordsIn p = [(h.next, x)] →
        (∀ slot, free = some slot → isHbm (recordSlotAt base slot) = true → ∃ t h', answered t (32 * (h.next + 1)) ∧ readN t.mem (recordSlotAt base slot) 32 = x ∧
          hdrAt t h.index = some h' ∧ h'.next = h.next + 1 ∧ h'.recs = h.recs ++ [(h.next, slot)] ∧
          (x / 2 ^ 96 % 2 ^ 8 = 4 → readN t.mem (head + 20) 4 = x / 2 ^ 64 % 2 ^ 32 ∧ readN t.mem (head + 24) 8 = x / 2 ^ 128 % 2 ^ 64)) ∧
        (free = none → ∃ t, answered t (1 + 32 * h.next) ∧ t.mem = s.mem ∧ hdrAt t h.index = some { h with closed := true } ∧
          ∀ j, j ≠ h.index → hdrAt t j = hdrAt s j)) ∧
      (p.operand.toNat % 16 = 0 → h.next < neededBy p → ∃ t h', exec (.jrec p) s = .next t ∧ t.mem = s.mem ∧ t.g = s.g ∧
        hdrAt t h.index = some h' ∧ h'.next = h.next ∧ h'.recs = h.recs ∧ p ∈ h'.early) ∧
      (p.operand.toNat % 16 = 2 → ∃ t, answered t (4 + 32 * (p.operand.toNat / 16)) ∧ t.partners = s.partners ∧
        readN t.mem (head + 16) 4 = p.data / 2 ^ 128 % 2 ^ 32 ∧ readN t.mem (head + 10) 1 / 4 % 2 = 1) ∧
      (p.operand.toNat % 16 = 3 → ∃ t, answered t (6 + 32 * (p.operand.toNat / 16)) ∧ t.partners = s.partners ∧
        readN t.mem (head + 12) 4 = p.data / 2 ^ 96 % 2 ^ 32 ∧ readN t.mem (head + 16) 4 = 0 ∧ readN t.mem (head + 10) 1 / 2 % 4 = 1) ∧
      (p.operand.toNat % 16 = 5 → ∃ t, answered t (10 + 32 * (p.operand.toNat / 16)) ∧ t.mem = s.mem ∧
        hdrAt t h.index = some { h with recs := h.recs.filter fun r => r.1 != p.operand.toNat / 16 }) ∧
      (p.operand.toNat % 16 = 6 → ∃ t, answered t (12 + 32 * (p.operand.toNat / 16)) ∧ hdrAt t h.index = none) ∧
      (p.operand.toNat % 16 = 7 → ∃ t, answered t (14 + 32 * (p.operand.toNat / 16)) ∧ t.mem = s.mem ∧
        hdrAt t h.index = some { h with closed := true })))

/-- R232, R318: an `EMIT` whose intent the partner has acknowledged sends its egress packet, and its thread goes on with the destination still
empty. The delivery of the packet sends the high-water mark to the partner; the acknowledgement of that fills the destination with 0; a delivery
that times out fills it with 2, and the intent stays open. Which sort and operand a JREC and a JACK have is the model's (log 23).

R322, R409, R410: a reassignment offers the header to the package that firmware names; a package that does not take it leaves the reassignment
pending, and nothing goes out to it. A partner that is alive when system software asks for the reassignment is first told to hold the header closed
to takeover (the message is the model's, logs 23 and 65). While no package has taken the header, the cores of the groups that wait in `EMIT` are reported with JOURNAL 6 and stop. -/
def Obligations.EmitDelivery : Prop :=
  ((∀ (s : State) (q : Seq) (e : Emit), seqOf s q.id = some q → q.emits = [e] →
    (e.phase = .send → q.reassign = false → q.fenced = false → ∃ t r, exec (.emitDeliveryAck q.id) s = .next t ∧
      t = { s with seqs := t.seqs, sent := t.sent, outbox := t.outbox, sendSeq := t.sendSeq, kept := t.kept } ∧ Sends s t r ∧ r.kind = 0x0D ∧
      r.dst = seqDest q ∧ r.operand = BitVec.ofNat 64 (3 + 16 * e.pos) ∧ seqOf t q.id = some { q with emits := [{ e with phase := .settle }] }) ∧
    (e.phase = .send → q.reassign = true ∨ q.fenced = true → ∃ t, exec (.emitDeliveryAck q.id) s = .next t ∧ t = { s with seqs := t.seqs } ∧
      seqOf t q.id = some { q with emits := [{ e with phase := .settle }] }) ∧
    (e.phase ≠ .send → exec (.emitDeliveryAck q.id) s = .next s ∧ exec (.emitDeliveryTimeout q.id) s = .next s) ∧
    (∀ g, e.phase = .send → q.closing = false → q.truncs = [] → thread? s e.tid = some g → e.d ≠ 0 → e.d < 64 →
      ∃ t h q', exec (.emitDeliveryTimeout q.id) s = .next t ∧ t.mem = s.mem ∧ thread? t e.tid = some h ∧ readK h (kAt e.d) = 2#64 ∧
        kIsEmpty h (kAt e.d) = false ∧ (∀ n, n ≠ kAt e.d → readK h n = readK g n) ∧ h.pc = g.pc ∧ h.wait = g.wait ∧ seqOf t q.id = some q' ∧
        q'.emits = [] ∧ q'.hwm = q.hwm ∧ q'.intent = q.intent)) ∧
  (∀ (s : State) (p : Packet) (q : Seq) (e : Emit) (g : Group), InTurn s p → Steady s p → p.kind = 0x0E → s.kept.any (namedBy p) = true → s.partners = [] →
    s.seqs.find? (fun q => q.isOpen && q.seqid.toNat == p.mask.toNat % 2 ^ 64 && seqDest q == p.src) = some q → seqOf s q.id = some q →
    q.fenced = false → q.reassign = false → q.closing = false → q.truncs = [] → q.moved = true → q.emits = [e] → thread? s e.tid = some g → e.d ≠ 0 → e.d < 64 →
    (p.operand.toNat = 2 * 2 + 32 * e.pos → e.phase = .intent → kIsEmpty g (kAt e.d) = true → ∃ t h q', exec (.jack p) s = .next t ∧
      t.mem = s.mem ∧ t.host = s.host ++ [.egress q.egress (egressPayload q.seqid e.pos e.token)] ∧ thread? t e.tid = some h ∧ h.wait = .none ∧
      h.pc = g.pc + 4 ∧ kIsEmpty h (kAt e.d) = true ∧ h.k = g.k ∧ h.v = g.v ∧ seqOf t q.id = some q' ∧ q'.emits = [{ e with phase := .send }]) ∧
    (p.operand.toNat = 2 * 3 + 32 * e.pos → e.phase = .settle → ∃ t h q', exec (.jack p) s = .next t ∧ t.mem = s.mem ∧ t.host = s.host ∧
      thread? t e.tid = some h ∧ readK h (kAt e.d) = 0#64 ∧ kIsEmpty h (kAt e.d) = false ∧ (∀ n, n ≠ kAt e.d → readK h n = readK g n) ∧
      h.pc = g.pc ∧ seqOf t q.id = some q' ∧ q'.emits = [] ∧ q'.hwm = e.pos ∧ q'.hwmv = true ∧ q'.intent = none))) ∧
  (∀ (s : State) (q : Seq), seqOf s q.id = some q →
    (∀ pkg accepts,
      let may := q.isOpen = true ∧ q.fenced = false ∧ (q.headerAcked = true ∨ q.reassign = true)
      let goes := accepts = true ∧ pkg ≠ pkgNum s ∧ pkg ≠ q.partner ∧ unreachable s pkg = 0 ∧ fabricUp s = true
      let asks := q.reassign = false ∧ (peerOf s q.partner).failed = false
      let traffic (t : State) : Prop := t = { s with seqs := t.seqs, sent := t.sent, outbox := t.outbox, sendSeq := t.sendSeq, kept := t.kept }
      let held (u : State) : Prop := ∃ r, Sends s u r ∧ r.kind = 0x0D ∧ r.dst = q.partner ∧ r.operand.toNat % 16 = 7
      (may → goes → ∃ t u r q', exec (.partnerReassign q.id pkg accepts) s = .next t ∧ traffic t ∧ traffic u ∧
        (asks → held u) ∧ (¬ asks → u.sent = s.sent ∧ u.outbox = s.outbox) ∧ seqOf t q.id = some q' ∧
        q'.reassign = true ∧ q'.target = some pkg ∧ q'.headerAcked = false ∧ q'.partner = q.partner ∧ q'.tailEnd = q.nextSerial ∧ (asks → q'.hold = true) ∧
        Sends u t r ∧ r.kind = 0x0D ∧ r.dst = pkg ∧ r.operand.toNat % 16 = 1) ∧
      (may → ¬ goes → ∃ t q', exec (.partnerReassign q.id pkg accepts) s = .next t ∧ traffic t ∧
        (asks → held t) ∧ (¬ asks → t.sent = s.sent ∧ t.outbox = s.outbox) ∧
        seqOf t q.id = some q' ∧ q'.reassign = true ∧ q'.target = none ∧ q'.partner = q.partner ∧ (asks → q'.hold = true)) ∧
      (¬ may → exec (.partnerReassign q.id pkg accepts) s = .next s)) ∧
    (q.reassign = true → q.headerAcked = false → s.ended = [] → ∃ t, exec (.nopartnerTimeout q.id) s = .next t ∧
      ∀ g ∈ threads s, thread? s g.tid = some g → g.wait = .emit q.id → coreStopped t g.core = true) ∧
    (¬ (q.reassign = true ∧ q.headerAcked = false) → exec (.nopartnerTimeout q.id) s = .next s))

/-- R311 to R313, R411: the command that a die's Signal Box takes next. An open that is admitted makes the sequence and offers its header to the
partner, whose answer ends the command: RESULT 0, or 6 when it refuses or cannot be reached; one that is not admitted has the RESULT of Table 26.5,
and an OP that is neither open nor close has RESULT 1 (at JS_CMD_OPEN: log 57). A close of no open sequence has RESULT 5; one of a sequence with
nothing left to do discards it here and at the partner; any other waits. A write that finds no other is carried out at once, and DONE reads 0 until
it is done; one that finds another waits its turn. Operands 1, 6, 2 and 3 of JREC and JACK are the model's (log 23). -/
def Obligations.SequenceCommands : Prop :=
  (∀ (s : State) (die value : Nat), MayWrite s 0 → die < 4 → value < 2 ^ 14 →
    let i : Instr := if value / 2 ^ 12 = 2 then .jsCmdClose 0 die value else .jsCmdOpen 0 die value
    let turn : Instr := if value / 2 ^ 12 = 2 then .jsCmdClose 3 die value else .jsCmdOpen 3 die value
    ((∀ c ∈ s.jsCmds, c.die ≠ die) → ∃ u, exec i s = exec turn u ∧ u.jsCmds = s.jsCmds ++ [⟨die, value, false, 0, 0⟩] ∧
      u = { s with jsCmds := u.jsCmds, csr := u.csr } ∧ (∀ n, n ≠ csrCmdst die → csrRaw u n = csrRaw s n) ∧
      csrRaw u (csrCmdst die) / 2 ^ 63 = 0 ∧ csrRaw u (csrCmdst die) % 2 ^ 14 = value) ∧
    ((∃ c ∈ s.jsCmds, c.die = die ∧ c.begun = true) → exec i s = .next { s with jsCmds := s.jsCmds ++ [⟨die, value, false, 0, 0⟩] })) ∧
  (∀ (s : State) (c : JsCmd) (agent : Nat), 2 < agent → s.jsCmds = [c] → c.begun = false → c.die < 4 → c.tid = 0 →
    let op := c.value / 2 ^ 12 % 4
    let slot := c.value % 2 ^ 12
    let d := descriptorOf s c.die slot
    let ends (i : Instr) (t : State) (result : Nat) : Prop := exec i s = .next t ∧ t.g = s.g ∧ t.mem = s.mem ∧ t.jsCmds = [] ∧
      csrRaw t (csrCmdst c.die) / 2 ^ 63 = 1 ∧ csrRaw t (csrCmdst c.die) / 2 ^ 16 % 2 ^ 4 = result
    (op = 1 → openResult s c.die slot d = 0 →
      (unreachable s (d / 2 ^ 64 % 2 ^ 12) = 0 → ∃ t r q, exec (.jsCmdOpen agent c.die c.value) s = .next t ∧ t.g = s.g ∧ t.mem = s.mem ∧
        t.seqs = s.seqs ++ [q] ∧ q.id = s.nextId ∧ q.isOpen = true ∧ q.die = c.die ∧ q.slot = slot ∧ q.seqid = BitVec.ofNat 64 d ∧
        q.partner = d / 2 ^ 64 % 2 ^ 12 ∧ q.ctx = d / 2 ^ 80 % 2 ^ 16 ∧ q.headerAcked = false ∧ Sends s t r ∧ r.kind = 0x0D ∧
        r.dst = q.partner ∧ r.operand = 1 ∧ t.jsCmds = [{ c with begun := true, seq := q.id }] ∧
        csrRaw t (csrCmdst c.die) / 2 ^ 63 = 0) ∧
      (unreachable s (d / 2 ^ 64 % 2 ^ 12) ≠ 0 → ∃ t, ends (.jsCmdOpen agent c.die c.value) t 6 ∧ t.sent = s.sent)) ∧
    (op = 1 → openResult s c.die slot d ≠ 0 →
      ∃ t, ends (.jsCmdOpen agent c.die c.value) t (openResult s c.die slot d) ∧ t.seqs = s.seqs ∧ t.sent = s.sent) ∧
    (op = 0 ∨ op = 3 → ∃ t, ends (.jsCmdOpen agent c.die c.value) t 1 ∧ t.seqs = s.seqs ∧ t.sent = s.sent) ∧
    (op = 2 → s.seqs.find? (fun q => q.isOpen && q.die == c.die && q.slot == slot) = none →
      ∃ t, ends (.jsCmdClose agent c.die c.value) t 5 ∧ t.seqs = s.seqs ∧ t.sent = s.sent) ∧
    (∀ q, op = 2 → s.seqs.find? (fun q => q.isOpen && q.die == c.die && q.slot == slot) = some q → seqOf s q.id = some q →
      let idle := q.work = [] ∧ q.emits = [] ∧ (∀ r ∈ q.records, r.acked = true) ∧ q.reassign = false
      (idle → ∃ t r, ends (.jsCmdClose agent c.die c.value) t 0 ∧ seqOf t q.id = none ∧ Sends s t r ∧ r.kind = 0x0D ∧ r.dst = seqDest q ∧
        r.operand = 6) ∧
      (¬ idle → ∃ t, exec (.jsCmdClose agent c.die c.value) s = .next t ∧ t.g = s.g ∧ t.mem = s.mem ∧ t.sent = s.sent ∧
        seqOf t q.id = some { q with closing := true } ∧ t.jsCmds = [{ c with begun := true, seq := q.id }]))) ∧
  (∀ (s : State) (p : Packet) (q : Seq) (c : JsCmd) (refused : Bool), InTurn s p → Steady s p → p.kind = 0x0E → s.kept.any (namedBy p) = true →
    p.operand.toNat = 2 + refused.toNat → s.partners = [] →
    s.seqs.find? (fun q => q.isOpen && q.seqid.toNat == p.mask.toNat % 2 ^ 64 && seqDest q == p.src) = some q → seqOf s q.id = some q →
    q.fenced = false → q.reassign = false → q.closing = false → q.truncs = [] → q.emits = [] → q.moved = true ∨ q.work = [] → s.jsCmds = [c] → c.begun = true →
    c.seq = q.id → c.die = q.die → c.value / 2 ^ 12 % 4 = 1 → c.tid = 0 →
    ∃ t q', exec (.jack p) s = .next t ∧ t.g = s.g ∧ t.mem = s.mem ∧ t.jsCmds = [] ∧ csrRaw t (csrCmdst c.die) / 2 ^ 63 = 1 ∧
      csrRaw t (csrCmdst c.die) / 2 ^ 16 % 2 ^ 4 = (if refused then 6 else 0) ∧ seqOf t q.id = some q' ∧ q'.headerAcked = !refused ∧
      q'.reassign = refused)

/-- R291, R292, R294, R358: the end of an interval: the sequence number rises once the first clearing is in force, every purse pays and is refilled
up to its cap, MK.PURSE shows the balances as they stood, MK.INTV takes the value last written, the prices go to every neighbour that can be
reached, and the leases of the clearing wait. R229, R293: then they take force together with their prices and their number, and a gang that has
lost a cluster or a bank is halted. The layout of the prices in a packet is log 16, that a purse stays at 0 or above is log 36, and that no second end
comes before the change is log 37.

R292: the grants of one class. A grant is 0 or at least the bid's minimum and at most what it asks; grants take from what is
available and never exceed it; the price never falls below the reserve it starts from. -/
def Obligations.MarketIntervals : Prop :=
  ((∀ (s : State), isReady s = true → s.nextLeases = none → s.intvNext < 2 ^ 64 →
    let seq := (csrRaw s csrSeq + 1) % 2 ^ 64
    ∃ t, exec .intervalEnd s = .next t ∧ csrRaw t csrSeq = (if s.curSeq = 0 then csrRaw s csrSeq else seq) ∧ csrRaw t csrIntv = s.intvNext ∧
      (∀ n, n < 64 → getT 0 t.purses n =
        min (getT 0 s.purses n - min (getT 0 t.dues n) (getT 0 s.purses n) + csrRaw s (csrRate n)) (csrRaw s (csrCap n))) ∧
      (∀ n, n < 64 → csrRaw t (csrPurse n) = getT 0 s.purses n % 2 ^ 64) ∧
      t.nextLeases.isSome = true ∧ t.sliced = false ∧ t.leases = s.leases ∧ t.held = s.held ∧ t.prices = s.prices ∧ t.bids = s.bids ∧
      t.mem = s.mem ∧ ((∀ g ∈ threads s, g.wait ≠ .command csrIntv) → t.g = s.g ∧ t.others = s.others) ∧
      ∀ p ∈ neighbours s, p ≠ pkgNum s → unreachable s p = 0 → fabricUp s = true → ∃ q ∈ t.sent ++ t.outbox, q.kind = 0x0C ∧ q.dst = p ∧
        q.plane = p % 18 ∧ q.operand = BitVec.ofNat 64 seq ∧ ∀ c, c < 5 → q.data / 2 ^ (32 * c) % 2 ^ 32 = getT 0 t.nextPrices c % 2 ^ 32) ∧
  (∀ (s : State), isReady s = false ∨ s.nextLeases.isSome = true → exec .intervalEnd s = .next s) ∧
  (∀ (s : State) (l : Table Lease), s.nextLeases = some l → s.policies = [] →
    let seq := if s.curSeq = 0 then 1 else csrRaw s csrSeq
    ∃ t, exec .leaseChange s = .next t ∧ t.leases = l ∧ t.nextLeases = none ∧ t.prices = s.nextPrices ∧ t.curSeq = seq ∧ t.priceSeq = seq ∧
      csrRaw t csrSeq = seq % 2 ^ 64 ∧ t.purses = s.purses ∧ t.bids = s.bids ∧ t.mem = s.mem ∧
      ∀ g, s.gangs = [g] → g.place = .resident →
        let loses := gangLoses t g.id (launchOf s g.launch).ctx
        (loses = true → (gangOf t g.id).place = .halted ∧ ∀ h ∈ threads t, h.gang = g.id → h.resident = false) ∧
        (loses = false → t.gangs = s.gangs ∧ t.g = s.g ∧ t.others = s.others)) ∧
  (∀ (s : State), s.nextLeases = none → exec .leaseChange s = .next s)) ∧
  (∀ (s : State) (l : List Bid) (a : Auction),
    let r := l.foldl (grantBid s) a
    (r.grants.map fun x => x.2.1).sum + r.avail = (a.grants.map fun x => x.2.1).sum + a.avail ∧ r.avail ≤ a.avail ∧ a.top ≤ r.top ∧
    ∀ b ∈ l, ∃ g, (b.ctx, g, b.price) ∈ r.grants ∧ (g = 0 ∨ (b.min ≤ g ∧ g ≤ b.n)) ∧ (g < b.n → b.price ≤ r.top))

/-- R287 to R289, R294: a time slice, once in an interval, runs every tenant's policy: a program of `LI`, `BIDW` and `END` writes the bid register
of the tenant's context (its lowest-numbered one: log 31). A PRICE packet of a neighbour brings its five prices with their stamp (its layout is
log 16); one of another package brings none (log 61). -/
def Obligations.MarketEvents : Prop :=
  (∀ (s : State) (tenant ctx imm c : Nat), isReady s = true → s.sliced = false → imm < 2 ^ 13 → c < 5 →
    s.policies = [(tenant, [BitVec.ofNat 32 (0x04400000 + imm), BitVec.ofNat 32 (0x38040000 + c), 0])] →
    (contexts s).find? (fun x => tenantOf s x == tenant) = some ctx →
    ∃ t, exec .timeSlice s = .next t ∧ t = { s with bids := t.bids, sliced := true } ∧ bidOf t ctx c = BitVec.ofNat 64 imm ∧
      ∀ n, n ≠ ctx * 8 + c → getT 0 t.bids n = getT 0 s.bids n) ∧
  (∀ (s : State), isReady s = false ∨ s.sliced = true → exec .timeSlice s = .next s) ∧
  (∀ (s : State) (p : Packet), InTurn s p → p.kind = 0x0C →
    ∃ t, exec (.pricePacket p) s = .next t ∧ t.mem = s.mem ∧ t.g = s.g ∧ t.bids = s.bids ∧
      ((neighbours s).contains p.src = true → p.src ∈ t.nbrSeen ∧ ∀ c, c < 5 → getT 0 t.nbrPrices (p.src * 8 + c) =
        BitVec.ofNat 64 (p.data / 2 ^ (32 * c) % 2 ^ 32 + p.operand.toNat % 2 ^ 32 * 2 ^ 32)) ∧
      ((neighbours s).contains p.src = false → t.nbrPrices = s.nbrPrices ∧ t.nbrSeen = s.nbrSeen))

/-- R274, R275, R276, R393: a notify value that is further ahead than the ring has units halts its queue with cause 20H; one that is not
ahead changes nothing; any other becomes the write index and makes the queue look at its header. A queue that is not enabled or has halted drops
it. R8, R308, R357: of the values of one port, of the ports for one queue, or of one core for one queue, the first to arrive takes effect first. A
header that was not ready is read again by the timer.

R278, R395: a wait packet that is held is tested again by its timer, which consumes it, leaves it held, or halts the queue with SUB 7 where its
signal does not translate. -/
def Obligations.QueueNotifies : Prop :=
  ((∀ (s : State) (q v : Nat), s.notifies = [(q, v, noCore)] → s.policies = [] → (queueOf s q).moved = none →
    let on := queueOn s q = true ∧ (queueOf s q).halted = false
    let d := (v % 2 ^ 32 + 2 ^ 32 - (queueOf s q).ridx % 2 ^ 32) % 2 ^ 32
    ∃ t, exec (.notifyWrite q v) s = .next t ∧
      (on → 2 ^ queueBits s q < d → (queueOf t q).halted = true ∧ (queueOf t q).cause = 0x20 ∧ (queueOf t q).ridx = (queueOf s q).ridx) ∧
      (on → d ≤ 2 ^ queueBits s q → d ≤ queuePending (queueOf s q) → t.queues = s.queues ∧ t.notifies = [] ∧ t.mem = s.mem) ∧
      (on → d ≤ 2 ^ queueBits s q → queuePending (queueOf s q) < d →
        queueOf t q = { queueOf s q with widx := v % 2 ^ 32, look := true } ∧ t.notifies = [] ∧ t.mem = s.mem) ∧
      (¬ on → t.queues = s.queues ∧ t.notifies = [] ∧ t.mem = s.mem)) ∧
  (∀ (s : State) (q v r w p p' : Nat), s.notifies = [(q, v, p), (r, w, p')] → (q, v) ≠ (r, w) →
    (p = p' ∧ (noCore ≤ p ∨ q = r)) ∨ (noCore ≤ p ∧ noCore ≤ p' ∧ q = r) →
    exec (.notifyWrite r w) s = .next s) ∧
  (∀ (s : State) (q : Nat),
    let due := queueLive s q = true ∧ (queueOf s q).look = false ∧ (queueOf s q).waitSig = none ∧ queuePending (queueOf s q) ≠ 0
    (due → exec (.headerPollTimer q) s = .next (putQueue s q { queueOf s q with look := true })) ∧
    (¬ due → exec (.headerPollTimer q) s = .next s))) ∧
  (∀ (s : State) (q : Nat),
    (∀ sig v, (queueOf s q).waitSig = some (sig, v) → queueLive s q = true →
      (∀ pa, translateNow s (queueCtx s q) sig 0 = .ok (.hbm pa) →
        (homeRead s pa 8 ≤ v → ∃ t, exec (.waitPollTimer q) s = .next t ∧ (queueOf t q).ridx = ((queueOf s q).ridx + 1) % 2 ^ 32 ∧
          (queueOf t q).waitSig = none ∧ (queueOf t q).look = true ∧ sig ∈ (queueOf t q).named) ∧
        (v < homeRead s pa 8 → ∃ t, exec (.waitPollTimer q) s = .next t ∧ t.queues = s.queues ∧ t.mem = s.mem)) ∧
      (∀ c, translateNow s (queueCtx s q) sig 0 = .fault c → ∃ t, exec (.waitPollTimer q) s = .next t ∧ (queueOf t q).halted = true ∧
        (queueOf t q).cause = 0x21 ∧ (queueOf t q).sub = 7 ∧ (queueOf t q).ridx = (queueOf s q).ridx)) ∧
    ((queueOf s q).waitSig = none ∨ queueLive s q = false → exec (.waitPollTimer q) s = .next s))

/-- R276 to R279, R286, R288, R393, R395: the head of a queue whose turn it is. A sound packet is consumed: the read index passes it. A launch
packet enters one launch, whose dependences are launches that have not retired; a bundle packet enters one bundle; a wait packet is consumed
once its signal is at most its value, and is held until then. A defective one halts the queue with cause 21H and the lowest SUB; one that is not
ready is not looked at again before the next notify or poll; one that lies in part on a peer is waited for. -/
def Obligations.QueuePackets : Prop :=
  ∀ (s : State) (q len : Nat) (d : List Nat),
    let kinds : List (Instr × Nat) := [(.launchPacket q, 1), (.bundlePacket q, 2), (.waitPacket q, 3), (.skipPacket q, 4)]
    let passed (n : Nat) (t : State) : Prop :=
      (queueOf t q).ridx = ((queueOf s q).ridx + n) % 2 ^ 32 ∧ (queueOf t q).look = true ∧ (queueOf t q).waitSig = none ∧
        (queueOf t q).widx = (queueOf s q).widx ∧ (queueOf t q).halted = (queueOf s q).halted
    (∀ i kind, (i, kind) ∈ kinds → (mayTake s q = false ∨ readHead s q = .none → exec i s = .next s) ∧
      (∀ type, readHead s q = .ok type len d → type ≠ kind → exec i s = .next s) ∧
      (mayTake s q = true → readHead s q = .notYet →
        ∃ t, exec i s = .next t ∧ t = putQueue { s with rdc := t.rdc } q { queueOf s q with look := false }) ∧
      (mayTake s q = true → ∀ l, readHead s q = .ask l → ∃ t, exec i s = .next t ∧ t.queues = s.queues ∧ t.launches = s.launches ∧
        t.bundles = s.bundles ∧ t.mem = s.mem) ∧
      (mayTake s q = true → ∀ sub, readHead s q = .bad sub → ∃ t, exec i s = .next t ∧ t.launches = s.launches ∧ t.bundles = s.bundles ∧
        queueOf t q = { queueOf s q with halted := true, cause := 0x21, sub := sub, look := false, waitSig := none })) ∧
    (mayTake s q = true →
    (readHead s q = .ok 4 len d →
      ∃ t, exec (.skipPacket q) s = .next t ∧ passed len t ∧ t.launches = s.launches ∧ t.bundles = s.bundles ∧ t.engines = s.engines) ∧
    (∀ k, readHead s q = .ok 1 len d → readKobj s (queueCtx s q) (Machine.field (dbl d 1) 56 0) = some k →
      ∃ t l, exec (.launchPacket q) s = .next t ∧ passed len t ∧ t.launches = s.launches ++ [l] ∧ t.bundles = s.bundles ∧ l.id = s.nextId ∧
        l.ctx = queueCtx s q ∧ l.queue = q ∧ l.bundle = 0 ∧ l.kobj = Machine.field (dbl d 1) 56 0 ∧ l.nblk = Machine.field (dbl d 2) 31 0 ∧
        l.bpg = Machine.field (dbl d 2) 37 32 ∧ l.sig = Machine.field (dbl d 5) 56 0 ∧ l.arg0 = BitVec.ofNat 64 (dbl d 9) ∧
        l.arg1 = BitVec.ofNat 64 (dbl d 10) ∧ l.started = false ∧ l.retired = false ∧
        ∀ n ∈ l.deps, ∃ x ∈ s.launches, x.id = n ∧ x.retired = false) ∧
    (readHead s q = .ok 2 len d →
      ∃ t b, exec (.bundlePacket q) s = .next t ∧ passed len t ∧ t.bundles = s.bundles ++ [b] ∧ b.id = s.nextId ∧ b.ctx = queueCtx s q ∧
        b.queue = q ∧ b.left = Machine.field (dbl d 1) 3 0 ∧ b.sig = dbl d 2 ∧ b.retired = false) ∧
    (∀ pa, readHead s q = .ok 3 len d → translateNow s (queueCtx s q) (Machine.field (dbl d 1) 56 0) 0 = .ok (.hbm pa) →
      (homeRead s pa 8 ≤ dbl d 2 →
        ∃ t, exec (.waitPacket q) s = .next t ∧ passed 1 t ∧ Machine.field (dbl d 1) 56 0 ∈ (queueOf t q).named ∧ t.launches = s.launches) ∧
      (dbl d 2 < homeRead s pa 8 →
        ∃ t, exec (.waitPacket q) s = .next t ∧ t.mem = s.mem ∧ (queueOf t q).ridx = (queueOf s q).ridx ∧
          (queueOf t q).waitSig = some (Machine.field (dbl d 1) 56 0, dbl d 2))))

/-- R30, R282 to R286: a launch whose dependences have retired starts; a gang whose turn it is and that finds its place is dispatched whole: its
groups, in seats of clusters that the context leases, begin at the entry with their arguments in k1 and k2, every other register 0, every lane
of their rows running and q7 on the lanes inside the shape; a launch whose blocks have all ended retires, a matrix program with its grid: the dirty
words of the buffers that it writes go home, and its signal is decremented, here or by an ATOM packet (its layout is log 16), or its bundle counts it;
a signal that does not translate is a record of the command processor (R428). What is not due changes nothing.

R285, R365: a signal's decrement leaves a value with bit 63 set as it is and wraps below 0; the error word keeps bits 47 to 0, holds
the cause and the primary bit, and sets bit 63. -/
def Obligations.Launches : Prop :=
  ((∀ (s : State) (id : Nat), (launchOf s id).id = id →
    (mayStart s (launchOf s id) = true → ((launchOf s id).split = true → splitRanges s (launchOf s id) ≠ []) →
      ∃ t, exec (.launchStart id) s = .next t ∧ (launchOf t id).started = true ∧ (launchOf t id).next = (launchOf s id).next ∧
        t.blocks = s.blocks ∧ t.gangs = s.gangs ∧ t.g = s.g ∧ t.others = s.others) ∧
    (mayStart s (launchOf s id) = false → exec (.launchStart id) s = .next s)) ∧
  (∀ (s : State) (id gang : Nat), (launchOf s id).id = id →
    let l := launchOf s id
    let may := l.started = true ∧ l.retired = false ∧ l.mcc = false ∧ ctxEnded s l.ctx = false ∧ getT 0 s.leaving l.ctx = 0
    (∀ m u, may → l.pair = 0 → gangTurn s l gang = some m → putGang s l gang = some u →
      ∃ t new, exec (.blockDispatch id gang) s = .next t ∧ t.g = s.g ∧ t.mem = s.mem ∧ t.others = s.others ++ new ∧
        new.length = l.bpg * l.gpb ∧ t.blocks.length = s.blocks.length + l.bpg ∧ (launchOf t id).next = m.next ∧
        ∀ h ∈ new, h.live = true ∧ h.resident = true ∧ h.pc = l.code + l.entry ∧ readK h 1 = l.arg0 ∧ readK h 2 = l.arg1 ∧
          (∀ n, n ≠ 1 → n ≠ 2 → readK h n = 0) ∧ h.kEmpty = 0 ∧ h.v = [] ∧ h.M = lowLanes (32 * l.rows) ∧ readQ h 7 = lowLanes h.pad ∧ h.X = 0 ∧
          h.stack = [] ∧ h.rows = l.rows ∧ h.allot = l.allot ∧ h.ctx = l.ctx ∧ h.priv = false ∧ h.fmt = 0 ∧ h.wv = 0 ∧ h.fpflags = 0 ∧
          h.part < 12 ∧ h.slot < 8 ∧ ∃ b ∈ t.blocks, b.id = h.block ∧ b.clu = h.core / 3 ∧ leasesCluster s l.ctx b.clu = true) ∧
    (¬ may ∨ gangTurn s l gang = none ∨ putGang s l gang = none → exec (.blockDispatch id gang) s = .next s)) ∧
  (∀ (s : State) (id : Nat), (launchOf s id).id = id →
    let l := launchOf s id
    let may := l.started = true ∧ l.retired = false ∧ l.mcc = false ∧ l.nblk ≤ l.ended ∧ ctxEnded s l.ctx = false
    (may → ∃ t, exec (.launchRetire id) s = .next t ∧ (launchOf t id).retired = true ∧
      (l.pair ≠ 0 → (launchOf s l.pair).id = l.pair → (launchOf t l.pair).retired = true)) ∧
    (may → l.pair = 0 → s.policies = [] →
      let done (t : State) : Prop := exec (.launchRetire id) s = .next t ∧ (launchOf t id).retired = true
      let retires (t : State) : Prop := done t ∧ t.g = s.g ∧ t.others = s.others
      let same (t : State) : Prop := ∀ a, a < 2 ^ 52 → coherentByte t a = coherentByte s a
      let home (t : State) : Prop := ∀ h ∈ l.handles, handleWrites h = true → ∀ lo hi va pa, handleRange s l.ctx h = some (lo, hi) → va % 128 = 0 →
        lo / 128 * 128 ≤ va → va ≤ hi → anyPlace s l.ctx va = some (.hbm pa) → readN t.mem (pa / 128 * 128) 128 = homeRead s (pa / 128 * 128) 128
      (l.bundle = 0 → l.sig = 0 → ∃ t, retires t ∧ same t ∧ home t) ∧
      (∀ pa, l.bundle = 0 → l.sig ≠ 0 → translateNow s l.ctx l.sig 1 = .ok (.hbm pa) → ∃ t, retires t ∧
        readN t.mem pa 8 = decremented (homeRead s pa 8) ∧ ∀ a, a < 2 ^ 52 → a < pa ∨ pa + 8 ≤ a → coherentByte t a = coherentByte s a) ∧
      (∀ p off, l.bundle = 0 → l.sig ≠ 0 → translateNow s l.ctx l.sig 1 = .ok (.peer p off) → ∃ t q, retires t ∧ same t ∧ home t ∧ Sends s t q ∧
        q.kind = 0x06 ∧ q.dst = p ∧ q.ctx = l.ctx ∧ q.offset = off / 128 * 128 ∧ q.mask = byteMask off 8 ∧ q.data = decrementCode) ∧
      (∀ c, l.bundle = 0 → l.sig ≠ 0 → translateNow s l.ctx l.sig 1 = .fault c → ∃ t u r, done t ∧ u.g = s.g ∧ u.others = s.others ∧ t = postRecord u r ∧ same u ∧ home u ∧
        r.cq = true ∧ r.cause = 0x09 ∧ r.code = c ∧ r.value = 2 ∧ r.ctx = l.ctx ∧ r.die = queueDie l.queue ∧ r.addrs = [l.sig % 2 ^ 57]) ∧
      (l.bundle ≠ 0 → (bundleOf s l.bundle).id = l.bundle → (bundleOf s l.bundle).retired = false → 1 < (bundleOf s l.bundle).left →
        ∃ t, retires t ∧ same t ∧ home t ∧ bundleOf t l.bundle = { bundleOf s l.bundle with left := (bundleOf s l.bundle).left - 1 })) ∧
    (¬ may → exec (.launchRetire id) s = .next s))) ∧
  ((∀ v, v < 2 ^ 64 → (2 ^ 63 ≤ v → decremented v = v) ∧ (0 < v → v < 2 ^ 63 → decremented v = v - 1) ∧ decremented 0 = 2 ^ 64 - 1) ∧
  (∀ old cause primary, cause < 256 →
    let w := errorWord old cause primary
    w < 2 ^ 64 ∧ w % 2 ^ 48 = old % 2 ^ 48 ∧ w / 2 ^ 48 % 256 = cause ∧ w / 2 ^ 56 % 2 = (if primary = true then 1 else 0) ∧ w / 2 ^ 63 = 1))

/-- R48 to R51, R398: the image of a halted core moves to its siding; the Depot moves images from the sidings to the save area, and a gang
that has left its last siding leaves its banks and records; a gang whose units are all in place and leased goes on, or it finds another place
with all that it holds, once the withdrawals of its locks are answered (R48). A save area that is not mapped with W stops the core where the gang
last ran, when something is saved there and when something is restored, once; a saved gang with an uncorrectable error does not come back. What is
not due changes nothing. That the image stays in State is log 49; that a transfer waits for accesses to land, that a siding holds one gang's image,
and that a gang goes on in place only while nothing of it has left, are log 50. -/
def Obligations.GangMoves : Prop :=
  (∀ (s : State) (core gang : Nat),
    let may := (gangOf s gang).id = gang ∧ (gangOf s gang).place = .halted ∧ (gangCores s gang).contains core = true ∧
      getT 0 s.sidings core = 0 ∧ coreHalted s core gang = true
    (may → ∃ t, exec (.sidingTransfer core gang) s = .next t ∧ getT 0 t.sidings core = gang ∧ t.mem = s.mem ∧ t.g = s.g ∧
      t.others = s.others ∧ t.blocks = s.blocks ∧ (∀ e ∈ t.sections, ¬ (e.gang = gang ∧ e.core = core)) ∧
      ((∀ c ∈ gangCores s gang, c = core ∨ imageOut s gang c = true) → (gangOf t gang).place = .siding) ∧
      ((∃ c ∈ gangCores s gang, c ≠ core ∧ imageOut s gang c = false) → gang ≠ 0 → (gangOf t gang).place = .halted)) ∧
    (¬ may → exec (.sidingTransfer core gang) s = .next s)) ∧
  (∀ (s : State) (gang : Nat),
    let x := gangOf s gang
    let may := x.id = gang ∧ gang ≠ 0 ∧ x.tried = false ∧ (x.lost ≠ [] ∨ ∃ e ∈ s.sidings, e.2 = gang)
    let bad := saveAreaBad s (launchOf s x.launch)
    (may → bad = none → ∃ t, exec (.depotSave gang) s = .next t ∧ (gangOf t gang).lost = [] ∧ (∀ e ∈ t.sidings, e.2 ≠ gang) ∧
      t.g = s.g ∧ t.others = s.others ∧ (x.place = .siding → (gangOf t gang).place = .saved ∧ ∀ b ∈ t.blocks, b.gang = gang → b.banks = []) ∧
      (x.place ≠ .siding → (gangOf t gang).place = x.place)) ∧
    (may → bad ≠ none → ∃ t, exec (.depotSave gang) s = .next t ∧ (gangOf t gang).tried = true ∧ (gangOf t gang).place = x.place ∧
      (s.ended = [] → coreStopped t ((gangCores s gang).headD 0) = true)) ∧
    (¬ may → exec (.depotSave gang) s = .next s)) ∧
  (∀ (s : State) (gang : Nat),
    let x := gangOf s gang
    let ctx := (launchOf s x.launch).ctx
    let may := x.id = gang ∧ gang ≠ 0 ∧ x.place ≠ .resident ∧ x.place ≠ .ended ∧ ctxEnded s ctx = false ∧ getT 0 s.leaving ctx = 0 ∧
      withdrawing s (fun g => g.gang == gang) = false
    let away := x.place = .saved ∨ x.moved ≠ [] ∨ ∃ b ∈ gangBlocks s gang, b.banks.length ≠ b.nbanks
    let reads := away → x.tried = false ∧ saveAreaBad s (launchOf s x.launch) = none
    let sound := s.bad.contains (7, gang) = false
    (may → canStay s gang ctx = true → sound → ∃ t, exec (.gangResume gang) s = .next t ∧ (gangOf t gang).place = .resident ∧
      (∀ g ∈ threads t, g.gang = gang → g.resident = true) ∧ t.mem = s.mem ∧ t.blocks = s.blocks ∧ t.g.pc = s.g.pc ∧ t.g.k = s.g.k ∧
      t.g.v = s.g.v) ∧
    (∀ u, may → reads → sound → resumeGang s gang ctx = some u → exec (.gangResume gang) s = .next u ∧ (gangOf u gang).place = .resident ∧
      ∀ g ∈ threads s, ∃ h ∈ threads u, h.tid = g.tid ∧ h.pc = g.pc ∧ h.k = g.k ∧ h.v = g.v ∧ h.q = g.q ∧ h.M = g.M ∧ h.stack = g.stack ∧
        (g.gang = gang → h.resident = true)) ∧
    (may → reads → sound → resumeGang s gang ctx = none → exec (.gangResume gang) s = .next s) ∧
    (may → reads → ¬ sound → ∃ t, exec (.gangResume gang) s = .next t ∧ (gangOf t gang).place = .ended) ∧
    (may → away → x.tried = false → saveAreaBad s (launchOf s x.launch) ≠ none → ∃ t, exec (.gangResume gang) s = .next t ∧
      (gangOf t gang).tried = true ∧ (gangOf t gang).place = x.place ∧ (s.ended = [] → coreStopped t ((gangCores s gang).headD 0) = true)) ∧
    (may → away → x.tried = true → exec (.gangResume gang) s = .next s) ∧ (¬ may → exec (.gangResume gang) s = .next s))

/-- R364, R365: the end of a context, for a record of it or of a stopped core that holds a group of it, removes its threads, launches and engine
operations, but for those whose packets are still under way, and writes the error word of a launch that has not retired, PRIMARY for the launch of
the record. R295, R323: a context that is to migrate is pre-empted whole, and goes
with its registers, bids and sequences once nothing of it is under way; nothing stays but the number of its new package, to which notify values
are forwarded. One that arrives is taken in with its registers and bids. How a context crosses the fabric is log 29. -/
def Obligations.ContextEnds : Prop :=
  (∀ (s : State) (ctx cause launch : Nat),
    let may := firmwareRuns s = true ∧ ctxEnded s ctx = false ∧ (∃ r ∈ s.causes, r.cause = cause ∧ r.launch = launch ∧
      (r.ctx = ctx ∨ (coreStopped s r.core = true ∧ ∃ g ∈ threads s, g.core = r.core ∧ g.ctx = ctx ∧ g.priv = false)))
    (may → ∃ t, exec (.contextEnd ctx cause launch) s = .next t ∧ ctxEnded t ctx = true ∧ (∀ g ∈ threads t, g.ctx = ctx → g.priv = true) ∧
      (∀ e ∈ t.engines, e.ctx = ctx → e.dead = true ∧ e.inFlight ≠ 0) ∧ (∀ l ∈ t.launches, l.ctx ≠ ctx) ∧ (∀ b ∈ t.bundles, b.ctx ≠ ctx) ∧
      (∀ l pa, s.launches = [l] → s.bundles = [] → l.ctx = ctx → l.retired = false → l.bundle = 0 → l.sig ≠ 0 →
        translateNow s ctx l.sig 1 = .ok (.hbm pa) → homeRead s pa 8 < 2 ^ 63 →
        readN t.mem pa 8 = errorWord (homeRead s pa 8) cause (l.id == launch))) ∧
    (¬ may → exec (.contextEnd ctx cause launch) s = .next s)) ∧
  (∀ (s : State) (ctx pkg : Nat), isReady s = true → ctxExists s ctx = true → pkg ≠ pkgNum s → ctxEnded s ctx = false →
    partnersApart s ctx pkg = true →
    (getT 0 s.leaving ctx = 0 → migrationDue s ctx pkg = true → ∃ t, exec (.cometMigration ctx pkg) s = .next t ∧
      getT 0 t.leaving ctx = pkg + 1 ∧ ∀ x ∈ s.gangs, (launchOf s x.launch).ctx = ctx → x.place = .resident →
        (gangOf t x.id).place = .halted ∧ ∀ g ∈ threads t, g.gang = x.id → g.resident = false) ∧
    (getT 0 s.leaving ctx = 0 → migrationDue s ctx pkg = false → exec (.cometMigration ctx pkg) s = .next s) ∧
    (getT 0 s.leaving ctx = pkg + 1 → readyToLeave s ctx = false → exec (.cometMigration ctx pkg) s = .next s) ∧
    (getT 0 s.leaving ctx = pkg + 1 → readyToLeave s ctx = true →
      ∃ t im, exec (.cometMigration ctx pkg) s = .next t ∧ t.outbound = s.outbound ++ [im] ∧ im.ctx = ctx ∧ im.dst = pkg ∧ im.src = pkgNum s ∧
        im.bids = (List.range 5).map (bidOf s ctx) ∧ im.seqs = s.seqs.filter (fun q => q.isOpen && q.ctx == ctx) ∧
        (∀ g ∈ threads s, g.ctx = ctx → g.priv = false → g ∈ im.threads) ∧ ctxEnded t ctx = true ∧ ctx ∈ t.departed ∧
        (∀ g ∈ threads t, g.ctx = ctx → g.priv = true) ∧ (∀ l ∈ t.launches, l.ctx ≠ ctx) ∧ (∀ c, c < 5 → bidOf t ctx c = 0) ∧
        (∀ q ∈ t.seqs, q.isOpen = true → q.ctx ≠ ctx) ∧
        ∀ q, q < 4096 → queueOn s q = true → queueCtx s q = ctx → (queueOf t q).moved = some pkg)) ∧
  (∀ (s : State) (ctx : Nat) (im : Image), isReady s = true → ctxExists s ctx = true → s.inbound.find? (fun im => im.ctx == ctx) = some im →
    ∃ t, exec (.cometMigration ctx (pkgNum s)) s = .next t ∧ ctxEnded t ctx = false ∧ ctx ∉ t.departed ∧ t.inbound = s.inbound.erase im ∧
      (∀ c v, im.bids[c]? = some v → bidOf t ctx c = v) ∧ t.g = s.g ∧
      ∀ g ∈ im.threads, ∃ h ∈ t.others, h.pc = g.pc ∧ h.k = g.k ∧ h.v = g.v ∧ h.q = g.q ∧ h.M = g.M ∧ h.stack = g.stack ∧ h.ctx = g.ctx)

/-- R70 to R72, Table 05.1: the fields of the binary formats, subnormals among them, and the canonical NaN of each.

R82, Table 05.6: a magnitude of m units of 2^e rounds in each mode to a whole number of units of 2^q: nearest with ties to even, toward
zero, up, down, nearest with ties away from zero; it is inexact when something is left.

R82, R83, R72, Table 05.7: an exact value is rounded once, at the last fraction bit of its binade or of the subnormals. A result too
large for the format is ±∞ or the largest finite value by the mode, with OF and NX. Otherwise the bits stand for the rounded value; NX says
that it is inexact, and UF that it is also tiny after a rounding without the exponent's bound. Zero keeps its sign.

R72, R83, R176, R178: sums, products, fused products, quotients and roots: a NaN gives the canonical NaN, with NV when one is signalling;
so do invalid operations, always with NV; a finite value over zero gives ∞ and DZ; an exact zero sum has the sign of the mode; every other
result is the exact value rounded once (R82). A quotient or root that does not end is rounded from more bits than the format has, the last of
which says that something is left.

R177, R179, R181: the order of values, minimum and maximum, and integral rounding. −0 is equal to +0 in a compare and less in a minimum.

R183, Table 08.7: the special operands of the approximations, the reciprocal and the root as quotients rounded to F12, and powers of two
and logarithms that are exact. What `VEXP2.f` and `VLOG2.f` give elsewhere rests on the 256-bit computation of log 8.

R84, R107, R108, Tables 05.8 and 06.9: the source and destination of each conversion code, and what each kind of conversion gives. -/
def Obligations.FloatRounding : Prop :=
  ((nanBits fmtD = 0x7FF8000000000000 ∧ nanBits fmtF = 0x7FC00000 ∧ nanBits fmtH = 0x7E00 ∧ nanBits fmtB = 0x7FC0) ∧
  (fmtQmin fmtD = -1074 ∧ fmtQmin fmtF = -149 ∧ fmtQmin fmtH = -24 ∧ fmtQmin fmtB = -133 ∧ fmtQmin fmtF12 = -138) ∧
  (∀ f ∈ [fmtD, fmtF, fmtH, fmtB, fmtF12], ∀ (sg : Bool) (ex fr : Nat), ex < 2 ^ f.ebits → fr < 2 ^ f.fbits →
    let x := (if sg then 2 ^ (f.ebits + f.fbits) else 0) + ex * 2 ^ f.fbits + fr
    (ex = 2 ^ f.ebits - 1 → fr = 0 → x = infBits f sg ∧ unpack f x = .inf sg ∧ classOf f x = if sg then 4 else 512) ∧
    (ex = 2 ^ f.ebits - 1 → fr ≠ 0 → unpack f x = .nan (decide (fr < 2 ^ (f.fbits - 1))) ∧ classOf f x = if fr < 2 ^ (f.fbits - 1) then 1 else 2) ∧
    (ex = 0 → unpack f x = .fin sg fr (fmtQmin f) ∧
      classOf f x = if fr = 0 then (if sg then 32 else 64) else if sg then 16 else 128) ∧
    (ex = 0 → fr = 0 → x = zeroBits f sg) ∧
    (0 < ex → ex < 2 ^ f.ebits - 1 → unpack f x = .fin sg (2 ^ f.fbits + fr) (fmtQmin f + ex - 1) ∧ classOf f x = if sg then 8 else 256) ∧
    (ex = 2 ^ f.ebits - 2 → fr = 2 ^ f.fbits - 1 → x = maxBits f sg))) ∧
  ((∀ (mode : Nat) (s : Bool) (m : Nat) (e q : Int), q ≤ e → roundAt mode s m e q = (m * 2 ^ (e - q).toNat, false)) ∧
  (∀ (mode : Nat) (s : Bool) (m : Nat) (e q : Int), e < q → mode ≤ 4 →
    let u := 2 ^ (q - e).toNat
    let t := (roundAt mode s m e q).1 * u
    ((roundAt mode s m e q).2 = true ↔ ¬ u ∣ m) ∧
    (mode = 0 → 2 * t ≤ 2 * m + u ∧ 2 * m ≤ 2 * t + u ∧ (2 * t = 2 * m + u ∨ 2 * m = 2 * t + u → (roundAt mode s m e q).1 % 2 = 0)) ∧
    (mode = 1 ∨ (mode = 2 ∧ s = true) ∨ (mode = 3 ∧ s = false) → t ≤ m ∧ m < t + u) ∧
    ((mode = 2 ∧ s = false) ∨ (mode = 3 ∧ s = true) → m ≤ t ∧ t < m + u) ∧
    (mode = 4 → 2 * t ≤ 2 * m + u ∧ 2 * m < 2 * t + u))) ∧
  (∀ f ∈ [fmtD, fmtF, fmtH, fmtB, fmtF12], ∀ (mode : Nat) (s : Bool) (m : Nat) (e : Int), mode ≤ 4 →
    (m = 0 → roundTo f mode s m e = (zeroBits f s, 0)) ∧
    (m ≠ 0 →
      let free := e + Nat.log2 m - f.fbits
      let q := max free (fmtQmin f)
      let x := (roundAt mode s m e q).1 * 2 ^ (q - fmtQmin f).toNat
      let out := roundTo f mode s m e
      (2 ^ (f.fbits + 2 ^ f.ebits - 2) ≤ x →
        out = (if mode = 1 ∨ (mode = 2 ∧ s = true) ∨ (mode = 3 ∧ s = false) then maxBits f s else infBits f s, flagOF ||| flagNX)) ∧
      (x < 2 ^ (f.fbits + 2 ^ f.ebits - 2) →
        (∃ m' e', unpack f out.1 = .fin s m' e' ∧ m' * 2 ^ (e' - fmtQmin f).toNat = x) ∧
        out.2 = if (roundAt mode s m e q).2 = false then 0
          else if free < fmtQmin f ∧ (roundAt mode s m e free).1 < 2 ^ (f.fbits + (fmtQmin f - free).toNat) then flagNX ||| flagUF
          else flagNX))) ∧
  (let nv (c : Prop) [Decidable c] : Flags := if c then flagNV else 0
  (∀ (f : FloatFmt) (mode : Nat) (x y : FVal), isNan x = true ∨ isNan y = true →
    let r := (nanBits f, nv (x = .nan true ∨ y = .nan true))
    addReal f mode x y = r ∧ mulReal f mode x y = r ∧ divReal f mode x y = r) ∧
  (∀ (f : FloatFmt) (mode : Nat) (a b : Bool) (m : Nat) (e : Int),
    addReal f mode (.inf a) (.inf b) = (if a = b then (infBits f a, 0) else (nanBits f, flagNV)) ∧
    addReal f mode (.inf a) (.fin b m e) = (infBits f a, 0) ∧ addReal f mode (.fin b m e) (.inf a) = (infBits f a, 0) ∧
    mulReal f mode (.inf a) (.inf b) = (infBits f (a != b), 0) ∧
    mulReal f mode (.inf a) (.fin b m e) = (if m = 0 then (nanBits f, flagNV) else (infBits f (a != b), 0)) ∧
    mulReal f mode (.fin b m e) (.inf a) = (if m = 0 then (nanBits f, flagNV) else (infBits f (b != a), 0)) ∧
    divReal f mode (.inf a) (.inf b) = (nanBits f, flagNV) ∧ divReal f mode (.inf a) (.fin b m e) = (infBits f (a != b), 0) ∧
    divReal f mode (.fin b m e) (.inf a) = (zeroBits f (b != a), 0)) ∧
  (∀ (f : FloatFmt) (mode : Nat) (a b : Bool) (m n : Nat) (d e : Int),
    let x := (if a then -1 else 1) * (m : Int) * 2 ^ (d - min d e).toNat + (if b then -1 else 1) * (n : Int) * 2 ^ (e - min d e).toNat
    (x = 0 → addReal f mode (.fin a m d) (.fin b n e) = (zeroBits f (if m = 0 ∧ n = 0 ∧ a = b then a else mode == 3), 0)) ∧
    (x ≠ 0 → addReal f mode (.fin a m d) (.fin b n e) = roundTo f mode (decide (x < 0)) x.natAbs (min d e)) ∧
    mulReal f mode (.fin a m d) (.fin b n e) = roundTo f mode (a != b) (m * n) (d + e)) ∧
  (∀ (f : FloatFmt) (mode : Nat) (a b : Bool) (m n : Nat) (d e : Int) (z : FVal),
    fmaReal f mode (.fin a m d) (.fin b n e) z = addReal f mode (.fin (a != b) (m * n) (d + e)) z ∧
    fmaReal f mode (.inf a) (.inf b) z = addReal f mode (.inf (a != b)) z ∧
    fmaReal f mode (.inf a) (.fin b n e) z = (if n = 0 then (nanBits f, flagNV) else addReal f mode (.inf (a != b)) z) ∧
    fmaReal f mode (.fin b n e) (.inf a) z = (if n = 0 then (nanBits f, flagNV) else addReal f mode (.inf (b != a)) z)) ∧
  (∀ (f : FloatFmt) (mode : Nat) (x y z : FVal), isNan x = true ∨ isNan y = true →
    fmaReal f mode x y z = (nanBits f, nv (x = .nan true ∨ y = .nan true ∨ z = .nan true))) ∧
  (∀ (f : FloatFmt) (mode : Nat) (a b : Bool) (m n : Nat) (d e : Int),
    (n = 0 → divReal f mode (.fin a m d) (.fin b n e) = if m = 0 then (nanBits f, flagNV) else (infBits f (a != b), flagDZ)) ∧
    (n ≠ 0 → ∃ k t : Nat, (m ≠ 0 → 2 ^ (f.fbits + 4) ≤ t) ∧ t * n ≤ m * 2 ^ k ∧ m * 2 ^ k < (t + 1) * n ∧
      divReal f mode (.fin a m d) (.fin b n e) = roundTo f mode (a != b) (if t * n = m * 2 ^ k then 2 * t else 2 * t + 1) (d - e - k - 1))) ∧
  (∀ (f : FloatFmt) (mode : Nat) (a b : Bool) (m : Nat) (e : Int),
    sqrtReal f mode (.nan a) = (nanBits f, nv (a = true)) ∧ sqrtReal f mode (.inf a) = (if a then (nanBits f, flagNV) else (infBits f false, 0)) ∧
    (m = 0 → sqrtReal f mode (.fin b m e) = (zeroBits f b, 0)) ∧ (m ≠ 0 → b = true → sqrtReal f mode (.fin b m e) = (nanBits f, flagNV)) ∧
    (m ≠ 0 → b = false → ∃ k t : Nat, 2 ^ (f.fbits + 3) ≤ t ∧
      let n := m * 2 ^ (2 * k + (e % 2).toNat)
      t * t ≤ n ∧ n < (t + 1) * (t + 1) ∧ sqrtReal f mode (.fin b m e) = roundTo f mode false (if t * t = n then 2 * t else 2 * t + 1) (e / 2 - k - 1)))) ∧
  ((∀ (a b : Bool) (m n : Nat) (d e : Int),
    let x := (if a then -1 else 1) * (m : Int) * 2 ^ (d - min d e).toNat - (if b then -1 else 1) * (n : Int) * 2 ^ (e - min d e).toNat
    compareReal (.fin a m d) (.fin b n e) = (if x < 0 then -1 else if x = 0 then 0 else 1) ∧
    compareReal (.inf a) (.fin b n e) = (if a then -1 else 1) ∧ compareReal (.fin b n e) (.inf a) = (if a then 1 else -1) ∧
    compareReal (.inf a) (.inf b) = (if a = b then 0 else if a then -1 else 1)) ∧
  (∀ (f : FloatFmt) (a b : Nat),
    let x := unpack f a
    let y := unpack f b
    let fl : Flags := if x = .nan true ∨ y = .nan true then flagNV else 0
    (isNan x = true → isNan y = true → ∀ mx, minMaxBits f mx a b = (nanBits f, fl)) ∧
    (isNan x = true → isNan y = false → ∀ mx, minMaxBits f mx a b = (b, fl)) ∧
    (isNan x = false → isNan y = true → ∀ mx, minMaxBits f mx a b = (a, fl)) ∧
    (isNan x = false → isNan y = false →
      (compareReal x y < 0 ∨ (compareReal x y = 0 ∧ signOf x = true ∧ signOf y = false) →
        minMaxBits f false a b = (a, 0) ∧ minMaxBits f true a b = (b, 0)) ∧
      (0 < compareReal x y ∨ (compareReal x y = 0 ∧ signOf x = false ∧ signOf y = true) →
        minMaxBits f false a b = (b, 0) ∧ minMaxBits f true a b = (a, 0))) ∧
    (isNan x = true ∨ isNan y = true → fcmpBits f 0 a b = (false, fl) ∧ fcmpBits f 3 a b = (true, fl) ∧
      fcmpBits f 1 a b = (false, flagNV) ∧ fcmpBits f 2 a b = (false, flagNV)) ∧
    (isNan x = false → isNan y = false → fcmpBits f 0 a b = (decide (compareReal x y = 0), 0) ∧
      fcmpBits f 1 a b = (decide (compareReal x y < 0), 0) ∧ fcmpBits f 2 a b = (decide (compareReal x y ≤ 0), 0) ∧ fcmpBits f 3 a b = (false, 0))) ∧
  (∀ (f : FloatFmt) (mode : Nat) (a : Bool) (m : Nat) (e : Int),
    rintReal f mode (.nan a) = (nanBits f, if a then flagNV else 0) ∧ rintReal f mode (.inf a) = (infBits f a, 0) ∧
    (0 ≤ e → rintReal f mode (.fin a m e) = ((roundTo f mode a m e).1, 0)) ∧
    (e < 0 → rintReal f mode (.fin a m e) =
      ((roundTo f mode a (roundAt mode a m e 0).1 0).1, if (roundAt mode a m e 0).2 then flagNX else 0)))) ∧
  (let nan (a : Bool) : Nat × Flags := (0x7FC00000, if a then flagNV else 0)
  (∀ a, rcpF12 (.nan a) = nan a ∧ rsqF12 (.nan a) = nan a ∧ exp2F12 (.nan a) = nan a ∧ log2F12 (.nan a) = nan a) ∧
  (∀ (a : Bool) (e : Int), rcpF12 (.fin a 0 e) = (infBits fmtF a, flagDZ) ∧ rcpF12 (.inf a) = (zeroBits fmtF a, 0) ∧
    rsqF12 (.fin a 0 e) = (infBits fmtF a, flagDZ) ∧ rsqF12 (.inf a) = (if a then (0x7FC00000, flagNV) else (0, 0)) ∧
    exp2F12 (.inf a) = (if a then 0 else 0x7F800000, 0) ∧ exp2F12 (.fin a 0 e) = (0x3F800000, 0) ∧
    log2F12 (.fin a 0 e) = (0xFF800000, flagDZ) ∧ log2F12 (.inf a) = (if a then (0x7FC00000, flagNV) else (0x7F800000, 0))) ∧
  (∀ (m : Nat) (e : Int), m ≠ 0 → rsqF12 (.fin true m e) = (0x7FC00000, flagNV) ∧ log2F12 (.fin true m e) = (0x7FC00000, flagNV)) ∧
  (∀ (sg : Bool) (x : Nat) (fl : Flags), x < 2 ^ 20 →
    f12 ((if sg then 2 ^ 20 else 0) + x, fl) = ((if sg then 2 ^ 31 else 0) + x * 2 ^ 11, fl)) ∧
  (∀ (a : Bool) (m : Nat) (e : Int), rcpF12 (.fin a m e) = f12 (divReal fmtF12 0 (.fin false 1 0) (.fin a m e))) ∧
  (∀ (m : Nat) (e : Int), m ≠ 0 → ∃ t : Nat,
    let n := m * 2 ^ (e % 2).toNat
    t * t * n ≤ 2 ^ 160 ∧ 2 ^ 160 < (t + 1) * (t + 1) * n ∧
    rsqF12 (.fin false m e) = f12 (roundTo fmtF12 0 false (if t * t * n = 2 ^ 160 then 2 * t else 2 * t + 1) (-(e / 2) - 81))) ∧
  (∀ n : Int, n ≠ 0 → -149 ≤ n → n ≤ 127 → exp2F12 (.fin (decide (n < 0)) n.natAbs 0) = f12 (roundTo fmtF12 0 false 1 n)) ∧
  (∀ n : Int, log2F12 (.fin false 1 n) = f12 (roundTo fmtF12 0 (decide (n < 0)) n.natAbs 0)) ∧
  rcpF12 (unpack fmtF 0x40400000) = (0x3EAAA800, flagNX)) ∧
  (((List.range 0x3C).map convPair =
    [(0, 1), (0, 2), (0, 3), (0, 4), (0, 5), (0, 6), (0, 7), (0, 8), (1, 0), (1, 2), (1, 3), (1, 4), (1, 5), (1, 6), (1, 7), (1, 8),
     (2, 0), (2, 1), (2, 3), (2, 4), (2, 5), (2, 6), (2, 7), (2, 8), (3, 0), (3, 1), (3, 2), (3, 4), (3, 5), (3, 6), (3, 7), (3, 8),
     (4, 0), (4, 1), (4, 2), (4, 3), (4, 5), (5, 0), (5, 1), (5, 2), (5, 3), (5, 4),
     (6, 0), (6, 1), (6, 2), (6, 3), (6, 7), (6, 8), (7, 0), (7, 1), (7, 2), (7, 3), (7, 6), (7, 8),
     (8, 0), (8, 1), (8, 2), (8, 3), (8, 6), (8, 7)]) ∧
  (∀ (mode raw : Nat), ∀ x ∈ [(0, fmtD), (1, fmtF), (2, fmtH), (3, fmtB)],
    (∀ y ∈ [(0, fmtD), (1, fmtF), (2, fmtH), (3, fmtB)], convElem x.1 y.1 mode raw = match unpack x.2 raw with
      | .nan a => (nanBits y.2, if a then flagNV else 0)
      | .inf a => (infBits y.2 a, 0)
      | .fin a m e => roundTo y.2 mode a m e) ∧
    (∀ y ∈ ([(6, -(2 ^ 31), 2 ^ 31 - 1), (7, -(2 ^ 63), 2 ^ 63 - 1), (8, 0, 2 ^ 32 - 1)] : List (Nat × Int × Int)),
      convElem x.1 y.1 mode raw =
        let int (v : Int) : Nat := (v % 2 ^ 64).toNat
        match unpack x.2 raw with
        | .nan _ => (0, flagNV)
        | .inf a => (int (if a then y.2.1 else y.2.2), flagNV)
        | .fin a m e =>
          let r := roundAt mode a m e 0
          let v := (if a then -1 else 1) * (r.1 : Int)
          if y.2.2 < v then (int y.2.2, flagNV) else if v < y.2.1 then (int y.2.1, flagNV) else (int v, if r.2 then flagNX else 0))) ∧
  (∀ (mode raw : Nat), ∀ x ∈ ([(6, (BitVec.ofNat 32 raw).toInt), (7, (BitVec.ofNat 64 raw).toInt), (8, (raw : Int))] : List (Nat × Int)),
    (∀ y ∈ [(0, fmtD), (1, fmtF), (2, fmtH), (3, fmtB)], convElem x.1 y.1 mode raw = roundTo y.2 mode (decide (x.2 < 0)) x.2.natAbs 0) ∧
    (∀ y ∈ ([(6, -(2 ^ 31), 2 ^ 31 - 1), (7, -(2 ^ 63), 2 ^ 63 - 1), (8, 0, 2 ^ 32 - 1)] : List (Nat × Int × Int)),
      convElem x.1 y.1 mode raw =
        let v := max y.2.1 (min x.2 y.2.2)
        ((v % 2 ^ 64).toNat, if v = x.2 then 0 else flagNV))))

/-- R309, R403, R406: MG.SEMA. A port takes it when it is free, and is then sent every takeover report that is kept, in order; it frees it when it
holds it; otherwise it stays as it is. It is freed when the port's connection fails. R141: the write wakes firmware that sleeps. R308: it waits for a
notify value of its port that came before it.

R292, R297, R358, R396, R399: writes of control registers by firmware that runs, or by the port that holds MG.SEMA of a part that is
ready. A value that the register admits is stored; with the package number, packets that waited for it leave, those of PRIO first, under that number;
MK.INTV takes effect at the end of the interval; MK.FLOOR is stored only where the class has units for every floor, and until the first clearing the floors alone give the leases;
a context that comes to exist has no bids; QC.CFG enables its queue, and restarts one that was halted at its read index. -/
def Obligations.RegisterWrites : Prop :=
  ((∀ (s : State) (port v : Nat), (port = 1 ∨ port = 2) → v < 3 → s.powered = true →
    let turn := ∀ n ∈ s.notifies, n.2.2 ≠ noCore + port
    let ends (i : Instr) (value : Nat) (told : List Nat) : Prop := ∃ t, exec i s = .next t ∧ csrRaw t csrSema = value ∧
      t = { s with csr := t.csr, reporting := s.reporting ++ told.map (fun r => (v, r)), g := t.g, others := t.others
                   host := s.host ++ told.map (HostMsg.report v) ++ [.written (port - 1) true] } ∧
      (∀ n, n ≠ csrSema → csrRaw t n = csrRaw s n) ∧
      ∀ g ∈ threads t, g.priv = true → (∃ d, d < 4 ∧ g.core = fwCore s d) → g.wait ≠ .sleep
    (turn → v ≠ 0 → ownerPort s = 0 → ends (.mgSemaWrite port v) v s.reports) ∧
    (turn → v ≠ 0 → ownerPort s ≠ 0 → ends (.mgSemaWrite port v) (csrRaw s csrSema) []) ∧
    (turn → v = 0 → ownerPort s = port → ends (.mgSemaWrite port v) 0 []) ∧
    (turn → v = 0 → ownerPort s ≠ port → ends (.mgSemaWrite port v) (csrRaw s csrSema) []) ∧
    (¬ turn → exec (.mgSemaWrite port v) s = .next s)) ∧
  (∀ (s : State) (port : Nat), port ≠ 0 →
    (ownerPort s = port → ∃ t, exec (.rodConnectionFailure port) s = .next t ∧ csrRaw t csrSema = 0 ∧ t = { s with csr := t.csr } ∧
      ∀ n, n ≠ csrSema → csrRaw t n = csrRaw s n) ∧
    (ownerPort s ≠ port → exec (.rodConnectionFailure port) s = .next s))) ∧
  (∀ (s : State) (agent v : Nat), MayWrite s agent → (agent ≠ 0 → ∀ n ∈ s.notifies, n.2.2 ≠ noCore + agent) →
    let told (t : State) : Prop := t.host = s.host ++ (if agent = 0 then [] else [.written (agent - 1) true])
    let woken (t : State) : Prop := agent = 0 ∨ (∀ g ∈ threads s, g.wait ≠ .sleep) → t.g = s.g ∧ t.others = s.others
    (∀ n, csrValueOk n v = true → csrAccess n = .rw → n ≠ csrSema → n ≠ csrPkgid → n ≠ csrIntv → isFloor n = false → isCmd n = false →
      isQcfg n = false → isTenant n = false →
      ∃ t, exec (.csrWrite agent n v) s = .next t ∧ csrRaw t n = v ∧ told t ∧ woken t ∧
        t = { s with csr := t.csr, host := t.host, g := t.g, others := t.others } ∧ ∀ m, m ≠ n → csrRaw t m = csrRaw s m) ∧
    (csrValueOk csrPkgid v = true →
      ∃ t, exec (.mgPkgidWrite agent v) s = .next t ∧ csrRaw t csrPkgid = v ∧ told t ∧ woken t ∧
        t = { s with csr := t.csr, host := t.host, g := t.g, others := t.others, sent := t.sent, outbox := t.outbox
                     kept := t.kept } ∧
        pkgNum t = v % 4096 ∧ (∀ m, m ≠ csrPkgid → csrRaw t m = csrRaw s m) ∧ t.outbox = s.outbox.filter (fun p => !mayLeave t p) ∧
        (let out := s.outbox.filter (mayLeave t)
         t.sent = s.sent ++ (out.filter (fun p => p.prio) ++ out.filter fun p => !p.prio).map (underNumber t) ∧
         t.kept = s.kept.map fun k => if out.contains k.packet then { k with packet := underNumber t k.packet } else k)) ∧
    (csrValueOk csrIntv v = true →
      ∃ t, exec (.mkIntvWrite agent v) s = .next t ∧ t.intvNext = v ∧ told t ∧ woken t ∧
        t = { s with intvNext := v, host := t.host, g := t.g, others := t.others }) ∧
    (∀ n, isFloor n = true → csrValueOk n v = true →
      let fits := floorSum s (n % 16) - csrRaw s n % 2 ^ 16 + v ≤ unitsOf s (n % 16)
      (fits → ∃ t, exec (.mkFloorWrite agent n v) s = .next t ∧ csrRaw t n = v ∧ told t ∧
        (s.curSeq ≠ 0 → ∀ m, m ≠ n → csrRaw t m = csrRaw s m) ∧ (s.curSeq = 0 → t.leases = floorLeases t 0)) ∧
      (¬ fits → ∃ t, exec (.mkFloorWrite agent n v) s = .next t ∧ told t ∧ woken t ∧
        t = { s with host := t.host, g := t.g, others := t.others })) ∧
    (∀ x, x < 65536 → csrValueOk (csrTenant x) v = true →
      ∃ t, exec (.cxTenantWrite agent (csrTenant x) v) s = .next t ∧ csrRaw t (csrTenant x) = v ∧ told t ∧ tenantOf t x = v % 64 ∧
        (s.curSeq ≠ 0 → ∀ m, m ≠ csrTenant x → csrRaw t m = csrRaw s m) ∧ (s.curSeq = 0 → t.leases = floorLeases t 0) ∧
        (ctxExists s x = false → v / 64 % 2 = 1 → ctxEnded t x = false ∧ ∀ c, c < 5 → bidOf t x c = 0)) ∧
    (∀ q, q < 4096 → csrValueOk (csrQcfg q) v = true →
      ∃ t, exec (.qcCfgWrite agent (csrQcfg q) v) s = .next t ∧ csrRaw t (csrQcfg q) = v ∧ told t ∧
        (∀ m, m ≠ csrQcfg q → csrRaw t m = csrRaw s m) ∧
        (v / 2 ^ 21 % 2 = 0 → queueOn t q = false ∧ (queueOf t q).waitSig = none) ∧
        (v / 2 ^ 21 % 2 = 1 → queueOn s q = false → (queueOf s q).halted = false → (queueOf t q).look = true) ∧
        (v / 2 ^ 21 % 2 = 1 → queueOn s q = false → (queueOf s q).halted = true →
          (queueOf t q).halted = false ∧ (queueOf t q).cause = 0 ∧ (queueOf t q).widx = (queueOf s q).ridx ∧
            (queueOf t q).ridx = (queueOf s q).ridx)))

/-- R308, R310, R357: what a host reads and writes. A register or a place of memory that it may use is read or written, and the host is
told; one that it may not completes with the error and changes nothing. A port's writes wait for its notify values that came before them, and
notify values wait in the order of their arrival. -/
def Obligations.HostAccesses : Prop :=
  (∀ (s : State) (r : Rma) (port n : Nat), s.powered = true → rmaReg r = some (port, n) → r.off % 8 = 0 → r.size = 8 →
    let x := r.data % 2 ^ 64
    let turn := ∀ y ∈ s.notifies, y.2.2 ≠ noCore + port
    (portMayRead s n = true → ∃ t, exec (.rmaRead r) s = .next t ∧ t = { s with rdc := t.rdc, host := s.host ++ [.read r.port true (csrRead s n)] }) ∧
    (portMayRead s n = false → ∃ t, exec (.rmaRead r) s = .next t ∧ t = { s with rdc := t.rdc, host := s.host ++ [.read r.port false 0] }) ∧
    (portMayWrite s port n = false → turn → exec (.rmaWrite r) s = .next { s with host := s.host ++ [.written r.port false] }) ∧
    (csrValueOk n x = true → ownerPort s = port → isReady s = true → n ∈ [csrMig, csrRegion, csrFmRoot] → turn →
      ∃ t, exec (.rmaWrite r) s = .next t ∧ csrRaw t n = x ∧
        t = { s with csr := t.csr, host := s.host ++ [.written r.port true], g := t.g, others := t.others } ∧ ∀ m, m ≠ n → csrRaw t m = csrRaw s m) ∧
    (isNotify n = false → ¬ turn → exec (.rmaWrite r) s = .next s) ∧
    (∀ q, q < 4096 → n = csrNotify q → isReady s = true → csrValueOk n x = true →
      ∃ t, exec (.rmaWrite r) s = .next t ∧ t.notifies = s.notifies ++ [(q, x % 2 ^ 32, noCore + port)] ∧ t.csr = s.csr ∧ t.mem = s.mem ∧
        t.host = s.host ++ [.written r.port true])) ∧
  (∀ (s : State) (r : Rma), s.powered = true → rmaReg r = none →
    let turn := r.command = true → ∀ y ∈ s.notifies, y.2.2 ≠ noCore + (r.port + 1)
    (∀ ctx va pa, rmaPlace s r = some (ctx, va) → 0 < r.size → va % 128 + r.size ≤ 128 →
      (translateNow s ctx va 0 = .ok (.hbm pa) →
        ∃ t, exec (.rmaRead r) s = .next t ∧ t = { s with rdc := t.rdc, host := s.host ++ [.read r.port true (homeRead s pa r.size)] }) ∧
      (translateNow s ctx va 1 = .ok (.hbm pa) → turn →
        ∃ t, exec (.rmaWrite r) s = .next t ∧ readN t.mem pa r.size = r.data % 2 ^ (8 * r.size) ∧
          (∀ a, a < 2 ^ 52 → a < pa ∨ pa + r.size ≤ a → coherentByte t a = coherentByte s a) ∧
          t.host = s.host ++ [.written r.port true] ∧ t.g = s.g ∧ t.csr = s.csr)) ∧
    (rmaPlace s r = none → turn → exec (.rmaWrite r) s = .next { s with host := s.host ++ [.written r.port false] }) ∧
    (rmaPlace s r = none → ∃ t, exec (.rmaRead r) s = .next t ∧ t = { s with rdc := t.rdc, host := s.host ++ [.read r.port false 0] })) ∧
  (∀ (s : State) (nonce : Nat),
    (isReady s = true → ∃ t m, exec (.attestationRequest nonce) s = .next t ∧ t = { s with free := s.free + 1, host := s.host ++ [m] } ∧
      ∃ sig, m = .attest nonce Config.firmwareDigest Config.firmwareConfig sig) ∧
    (isReady s = false → exec (.attestationRequest nonce) s = .next s))

/-- R310, R404, R18, R406: bring-up stage by stage, what ends it, and the loss of power. Firmware's core of a die is local core 2 of its
first cluster that passes self-test, and the clusters that fail are withheld; a die without a good cluster ends bring-up (log 53). A takeover report
that was sent is no longer kept. -/
def Obligations.BringUp : Prop :=
  (∀ (s : State), s.powered = false → exec .powerGood s = .next { s with powered := true }) ∧
  (∀ (s : State) (failed : List Nat), s.powered = true → isReady s = false →
    (stageOf s = 1 → ∃ t, exec (.bringupStageDone failed) s = .next t ∧ stageOf t = 2 ∧ t = { s with csr := t.csr }) ∧
    (stageOf s = 2 → ∃ t, exec (.bringupStageDone failed) s = .next t ∧ stageOf t = 3 ∧ t = { s with csr := t.csr, mem := [] }) ∧
    (stageOf s = 3 → ∃ t, exec (.bringupStageDone failed) s = .next t ∧ stageOf t = 4 ∧ t = { s with csr := t.csr }) ∧
    (stageOf s = 4 → (∀ d, d < 4 → ∃ c, 8 * d ≤ c ∧ c < 8 * d + 8 ∧ c ∉ failed) →
      ∃ t, exec (.bringupStageDone failed) s = .next t ∧ stageOf t = 5 ∧ isReady t = true ∧ t = { s with csr := t.csr, withheld := t.withheld } ∧
        (∀ c, c ∈ t.withheld ↔ c ∈ failed ∧ c < 32) ∧
        ∀ d, d < 4 → ∃ c, 8 * d ≤ c ∧ c < 8 * d + 8 ∧ c ∉ failed ∧ (∀ b, 8 * d ≤ b → b < c → b ∈ failed) ∧ fwCore t d = 3 * c + 2) ∧
    (stageOf s = 4 → (∃ d, d < 4 ∧ ∀ c, 8 * d ≤ c → c < 8 * d + 8 → c ∈ failed) →
      ∃ t, exec (.bringupStageDone failed) s = .next t ∧ stageOf t = 7 ∧ isReady t = false ∧ t = { s with csr := t.csr }) ∧
    (1 ≤ stageOf s → stageOf s ≤ 4 → ∃ t, exec (.bringupStageTimeout false) s = .next t ∧ stageOf t = 7 ∧ isReady t = false ∧
      t = { s with csr := t.csr }) ∧
    (stageOf s = 3 → ∃ t, exec (.bringupStageTimeout true) s = .next t ∧ stageOf t = 6 ∧ t = { s with csr := t.csr })) ∧
  (∀ (s : State), ∃ t, exec .powerLoss s = .next t ∧ t.powered = false ∧ t.mem = [] ∧ threads t = [] ∧ t.launches = [] ∧ t.seqs = [] ∧
    (∀ n, csrRaw t n = csrRaw State.reset n) ∧ t.host = s.host ∧ t.sent = s.sent) ∧
  (∀ (s : State) (p r : Nat) (rest : List (Nat × Nat)), s.reporting = (p, r) :: rest →
    exec (.takeoverReportSendComplete true) s = .next { s with reporting := rest, reports := s.reports.erase r } ∧
    exec (.takeoverReportSendComplete false) s = .next { s with reporting := rest }) ∧
  (∀ (s : State) (good : Bool), s.reporting = [] → exec (.takeoverReportSendComplete good) s = .next s)

/-- R310, R355, Tables 14.8 and 21.2: what reset leaves: no thread, memory that reads 0, and the registers' reset values. The invariant
holds. -/
def Obligations.ResetState : Prop :=
  State.Ok State.reset ∧ threads State.reset = [] ∧ (∀ a, readByte State.reset.mem a = 0) ∧ stageOf State.reset = 1 ∧
    isReady State.reset = false ∧ fabricUp State.reset = false ∧ csrRaw State.reset csrIntv = 21 ∧
    (∀ d, d < 4 → csrRaw State.reset (csrCmdst d) = 2 ^ 63) ∧ (∀ q, q < 4096 → csrRaw State.reset (csrQdead q) = 2 ^ 64 - 1) ∧
    (∀ n, csrReset n = 0 → csrRaw State.reset n = 0)

/-- The model's own invariant (log 3; R310 gives the bytes that nothing has written): memory keeps its canonical form at every step from every state. -/
def Obligations.StepKeepsMemory : Prop :=
 ∀ s t : State, s.Ok → step s = .next t → t.Ok

/-- R92 to R107: the word of a well-formed instruction decodes to it, and a word that decodes to an instruction is that instruction's
word, which is well-formed. -/
def Obligations.EncodingRoundTrip : Prop :=
  (∀ (i : Instr) (w : Nat), i.wf = true → i.word = some w → w < 2 ^ 32 ∧ decodeWord w = .ok i) ∧
  (∀ (i : Instr) (w : Nat), w < 2 ^ 32 → decodeWord w = .ok i → i.word = some w ∧ i.wf = true)

/-- R2, R53, R92, R375: a step with the current thread to issue: where the word at its program counter is in this package's memory and decodes, the
step is that instruction's meaning. The step itself only takes the entry off the tape, counts, and puts stack entries below the 32 on chip into the
save area; the line of the word enters L2 for its context (R244), once a miss entry is there (R245). Outside a speculation window the thread has not come to the end of a path or of itself; control has not landed on a hint word. -/
def Obligations.StepRunsDecoded : Prop :=
  ∀ (s : State) (rest : List Act) (va pa : Nat) (i : Instr), s.tape = .issue :: rest →
    let s0 := { s with tick := s.tick + 1, tape := rest }
    let s1 := if windowOf s s.g.tid = none then spillStack s0 s.g else s0
    mayIssue s s.g = true →
    (windowOf s s.g.tid = none → (s.g.run = [] → atJoin s.g = false) ∧ hasEnded s.g = false) →
    (∀ w, windowOf s s.g.tid = some w → w.resolved = none ∧ windowEnded s w = false) →
    checkAccess s1 s.g ⟨3, 4, 4, false, false⟩ [(0, s.g.pc)] = .ok [(0, va, .hbm pa)] →
    homeRoom s1 (.hbm pa) = true → writesTo s1 s.g.launch (pa / 128) = [] → decodeWord (homeRead s1 pa 4) = .ok i →
    (s.g.landed = true → s.g.run = [] → isHint (homeRead s1 pa 4) = false) →
    step s = exec i (fillL2 s1 (some s.g.ctx) (pa / 128))

/-- R92 to R102: words written out from the encoding tables decode to the instructions they stand for. -/
def Obligations.DecodeWords : Prop :=
  decodeWord (0x01 * 2 ^ 25 + 5 * 2 ^ 19 + 3 * 2 ^ 13 + 4 * 2 ^ 7 + 0 * 2 ^ 4 + 1 * 2 ^ 3 + 0 * 2 ^ 2 + 1) = .ok (.sub ⟨5, 3, 4, true, false⟩) ∧
  decodeWord (0x09 * 2 ^ 25 + 7 * 2 ^ 19 + 63 * 2 ^ 13 + (2 ^ 13 - 2)) = .ok (.addi ⟨7, 63, -2⟩) ∧
  decodeWord (0x14 * 2 ^ 25 + 0 * 2 ^ 22 + 3 * 2 ^ 19 + (2 ^ 19 - 1)) = .ok (.brV 3 (-1)) ∧
  decodeWord (0x18 * 2 ^ 25 + 7 * 2 ^ 19 + 0x12 * 2 ^ 13) = .ok (.get 7 0x12) ∧
  decodeWord (0x28 * 2 ^ 25 + 5 * 2 ^ 19 + 1 * 2 ^ 13 + 2 * 2 ^ 7 + 6 * 2 ^ 4 + 0 * 2 ^ 3 + 1 * 2 ^ 2) =
    .ok (.vcmpEqI64 ⟨5, 1, 2, 6, false, true⟩) ∧
  decodeWord (0x40 * 2 ^ 25 + 9 * 2 ^ 19 + 8 * 2 ^ 13 + 7 * 2 ^ 7 + 2 * 2 ^ 4 + 1 * 2 ^ 3 + 2 * 2 ^ 1 + 1) = .ok (.vldD ⟨9, 8, 7, 2, true, 2, true⟩) ∧
  decodeWord (0x6D * 2 ^ 25 + 4 * 2 ^ 19 + 5 * 2 ^ 13 + 6 * 2 ^ 7) = .ok (.jnlX 4 5 6) ∧
  decodeWord (0x7F * 2 ^ 25 + 0 * 2 ^ 21 + 5) = .ok (.hx 5)
end

