-- ==== Sys2Proof/Laws/Map.lean ====
section
/-! SUPPORT. What sparse tables do: a read after a write, and the canonical form kept. -/
namespace Sys2Proof.Machine

variable {α : Type}

theorem getT_dropT_same (z : α) (t : Table α) (n : Nat) : getT z (dropT t n) n = z := by
  induction t with
  | nil => rfl
  | cons h t ih =>
    obtain ⟨k, v⟩ := h
    by_cases hk : k = n <;> simp [dropT, hk, ih, getT]

theorem getT_dropT_other (z : α) (t : Table α) {n m : Nat} (h : m ≠ n) : getT z (dropT t n) m = getT z t m := by
  induction t with
  | nil => rfl
  | cons p t ih =>
    obtain ⟨k, v⟩ := p
    by_cases hk : k = n
    · subst hk; simp [dropT, getT, Ne.symm h, ih]
    · simp [dropT, hk, getT, ih]

theorem getT_insertT (z : α) (t : Table α) (n : Nat) (x : α) (m : Nat) (hn : getT z t n = z ∨ m ≠ n)
    (h : ∀ v, (n, v) ∉ t) : getT z (insertT t n x) m = if m = n then x else getT z t m := by
  induction t with
  | nil =>
    by_cases hm : m = n
    · simp [insertT, getT, hm]
    · simp [insertT, getT, hm, Ne.symm hm]
  | cons p t ih =>
    obtain ⟨k, v⟩ := p
    have hk : k ≠ n := fun e => h v (by simp [e])
    have ht : ∀ v, (n, v) ∉ t := fun w hw => h w (List.mem_cons_of_mem _ hw)
    have hn' : getT z t n = z ∨ m ≠ n := by simpa [getT, hk] using hn
    by_cases hlt : n < k
    · by_cases hm : m = n
      · simp [insertT, hlt, getT, hm]
      · simp [insertT, hlt, getT, hm, Ne.symm hm]
    · by_cases hm : m = n
      · subst hm; simpa [insertT, hlt, getT, hk] using ih hn' ht
      · by_cases hkm : k = m
        · subst hkm; simp [insertT, hlt, getT, hm]
        · simpa [insertT, hlt, getT, hkm, hm] using ih hn' ht

theorem not_mem_dropT (t : Table α) (n : Nat) (v : α) : (n, v) ∉ dropT t n := by
  induction t with
  | nil => simp [dropT]
  | cons p t ih =>
    obtain ⟨k, w⟩ := p
    by_cases hk : k = n
    · simpa [dropT, hk] using ih
    · simp [dropT, hk, ih, Ne.symm hk]

/-- A read after a write: the value written at the same key, what was there at any other. -/
theorem getT_putT [DecidableEq α] (z : α) (t : Table α) (n : Nat) (x : α) (m : Nat) :
    getT z (putT z t n x) m = if m = n then x else getT z t m := by
  unfold putT
  by_cases hx : x = z
  · by_cases hm : m = n
    · subst hm; simp [hx, getT_dropT_same]
    · simp [hx, hm, getT_dropT_other z t hm]
  · rw [if_neg hx, getT_insertT z _ n x m (Or.inl (getT_dropT_same z t n)) (not_mem_dropT t n)]
    by_cases hm : m = n
    · simp [hm]
    · simp [hm, getT_dropT_other z t hm]

@[simp] theorem getT_putT_same [DecidableEq α] (z : α) (t : Table α) (n : Nat) (x : α) :
    getT z (putT z t n x) n = x := by simp [getT_putT]

theorem getT_putT_other [DecidableEq α] (z : α) (t : Table α) {n m : Nat} (x : α) (h : m ≠ n) :
    getT z (putT z t n x) m = getT z t m := by simp [getT_putT, h]

theorem sortedT_weaken [DecidableEq α] (z : α) {t : Table α} {lo lo' : Nat} (h : lo' ≤ lo)
    (hs : sortedT z (some lo) t = true) : sortedT z (some lo') t = true := by
  cases t with
  | nil => rfl
  | cons p t =>
    obtain ⟨k, v⟩ := p
    simp only [sortedT, Bool.and_eq_true, decide_eq_true_eq] at hs ⊢
    exact ⟨⟨by omega, hs.1.2⟩, hs.2⟩

theorem sortedT_none [DecidableEq α] (z : α) {t : Table α} {lo : Nat}
    (hs : sortedT z (some lo) t = true) : sortedT z none t = true := by
  cases t with
  | nil => rfl
  | cons p t =>
    obtain ⟨k, v⟩ := p
    simp only [sortedT, Bool.and_eq_true, decide_eq_true_eq] at hs ⊢
    exact ⟨⟨trivial, hs.1.2⟩, hs.2⟩

theorem sortedT_dropT [DecidableEq α] (z : α) (t : Table α) (n : Nat) (lo : Option Nat)
    (h : sortedT z lo t = true) : sortedT z lo (dropT t n) = true := by
  induction t generalizing lo with
  | nil => rfl
  | cons p t ih =>
    obtain ⟨k, v⟩ := p
    simp only [sortedT, Bool.and_eq_true] at h
    by_cases hk : k = n
    · simp only [dropT, hk, if_true]
      have h2 := ih (some k) h.2
      cases lo with
      | none => exact sortedT_none z h2
      | some l =>
        have := h.1.1
        simp only [decide_eq_true_eq] at this
        exact sortedT_weaken z (by omega) h2
    · simp only [dropT, hk, if_false, sortedT, Bool.and_eq_true]
      exact ⟨h.1, ih (some k) h.2⟩

theorem sortedT_insertT [DecidableEq α] (z : α) (t : Table α) (n : Nat) (x : α) (lo : Option Nat)
    (hx : x ≠ z) (hn : ∀ v, (n, v) ∉ t) (hlo : ∀ l, lo = some l → l < n) (h : sortedT z lo t = true) :
    sortedT z lo (insertT t n x) = true := by
  induction t generalizing lo with
  | nil =>
    cases lo with
    | none => simp [insertT, sortedT, hx]
    | some l => simp [insertT, sortedT, hx, hlo l rfl]
  | cons p t ih =>
    obtain ⟨k, v⟩ := p
    have hk : k ≠ n := fun e => hn v (by simp [e])
    have ht : ∀ v, (n, v) ∉ t := fun w hw => hn w (List.mem_cons_of_mem _ hw)
    have h' := h
    simp only [sortedT, Bool.and_eq_true] at h
    by_cases hlt : n < k
    · simp only [insertT, hlt, if_true]
      cases lo with
      | none => simp [sortedT, hx, hlt, of_decide_eq_true h.1.2, h.2]
      | some l => simp [sortedT, hx, hlt, hlo l rfl, of_decide_eq_true h.1.2, h.2]
    · simp only [insertT, hlt, if_false, sortedT, Bool.and_eq_true]
      refine ⟨h.1, ih (some k) ht ?_ h.2⟩
      intro l hl
      cases hl
      omega

/-- Every write keeps the canonical form. -/
theorem wfT_putT [DecidableEq α] (z : α) (t : Table α) (n : Nat) (x : α) (h : wfT z t = true) :
    wfT z (putT z t n x) = true := by
  unfold putT wfT
  by_cases hx : x = z
  · simpa [hx] using sortedT_dropT z t n none h
  · rw [if_neg hx]
    exact sortedT_insertT z _ n x none hx (not_mem_dropT t n) (by simp) (sortedT_dropT z t n none h)

theorem wfT_putAll [DecidableEq α] (z : α) (xs : List (Nat × α)) (t : Table α) (h : wfT z t = true) :
    wfT z (putAll z t xs) = true := by
  induction xs generalizing t with
  | nil => exact h
  | cons p xs ih => exact ih _ (wfT_putT z t p.1 p.2 h)

theorem readByte_writeByte (m : Cells) (a : Nat) (b : BitVec 8) (a' : Nat) :
    readByte (writeByte m a b) a' = if a' = a then b else readByte m a' := getT_putT 0 m a b a'

theorem memoryWf_writeByte (m : Cells) (a : Nat) (b : BitVec 8) (h : memoryWf m = true) :
    memoryWf (writeByte m a b) = true := wfT_putT 0 m a b h

theorem memoryWf_writeN (m : Cells) (a n x : Nat) (h : memoryWf m = true) : memoryWf (writeN m a n x) = true := by
  induction n generalizing m a x with
  | zero => exact h
  | succ n ih => exact ih _ _ _ (memoryWf_writeByte m a _ h)

/-- A byte outside the range written reads as before. -/
theorem readByte_writeN_other (m : Cells) (a n x a' : Nat) (h : a' < a ∨ a + n ≤ a') :
    readByte (writeN m a n x) a' = readByte m a' := by
  induction n generalizing m a x with
  | zero => rfl
  | succ n ih =>
    rw [writeN, ih _ _ _ (by omega), readByte_writeByte, if_neg (by omega)]

/-- The bytes written read back. -/
theorem readN_writeN (m : Cells) (a n x : Nat) (h : x < 256 ^ n) : readN (writeN m a n x) a n = x := by
  induction n generalizing m a x with
  | zero => simp at h; simp [readN, h]
  | succ n ih =>
    have h2 : x / 256 < 256 ^ n := by
      rw [Nat.div_lt_iff_lt_mul (by omega)]; rw [Nat.pow_succ] at h; omega
    rw [writeN, readN, ih _ _ _ h2, readByte_writeN_other _ _ _ _ _ (Or.inl (by omega)), readByte_writeByte, if_pos rfl]
    simp [BitVec.toNat_ofNat]
    omega

end Sys2Proof.Machine
end

