-- ==== Sys2Proof/Laws/State.lean ====
section
/-! SUPPORT. One lemma for each field that a named update of the state leaves alone, so that no proof unfolds a record update. -/
namespace Sys2Proof.Machine

section
variable (s : State)

@[simp] theorem setL1_mem (core line : Nat) (l : Line) : (setL1 s core line l).mem = s.mem := rfl
@[simp] theorem setL1_g (core line : Nat) (l : Line) : (setL1 s core line l).g = s.g := rfl
@[simp] theorem setL1_others (core line : Nat) (l : Line) : (setL1 s core line l).others = s.others := rfl
@[simp] theorem setL1_windows (core line : Nat) (l : Line) : (setL1 s core line l).windows = s.windows := rfl
@[simp] theorem setL1_csr (core line : Nat) (l : Line) : (setL1 s core line l).csr = s.csr := rfl
@[simp] theorem setL1_kept (core line : Nat) (l : Line) : (setL1 s core line l).kept = s.kept := rfl
@[simp] theorem setL1_sent (core line : Nat) (l : Line) : (setL1 s core line l).sent = s.sent := rfl
@[simp] theorem setL1_sendSeq (core line : Nat) (l : Line) : (setL1 s core line l).sendSeq = s.sendSeq := rfl
@[simp] theorem setL1_outbox (core line : Nat) (l : Line) : (setL1 s core line l).outbox = s.outbox := rfl
@[simp] theorem setL1_cores (core line : Nat) (l : Line) : (setL1 s core line l).cores = s.cores := rfl
@[simp] theorem setL1_clocks (core line : Nat) (l : Line) : (setL1 s core line l).clocks = s.clocks := rfl
@[simp] theorem setL1_tlb (core line : Nat) (l : Line) : (setL1 s core line l).tlb = s.tlb := rfl
@[simp] theorem setL1_fmTlb (core line : Nat) (l : Line) : (setL1 s core line l).fmTlb = s.fmTlb := rfl
@[simp] theorem setL1_l2 (core line : Nat) (l : Line) : (setL1 s core line l).l2 = s.l2 := rfl
@[simp] theorem setL1_walks (core line : Nat) (l : Line) : (setL1 s core line l).walks = s.walks := rfl
@[simp] theorem setL1_queues (core line : Nat) (l : Line) : (setL1 s core line l).queues = s.queues := rfl
@[simp] theorem setL1_launches (core line : Nat) (l : Line) : (setL1 s core line l).launches = s.launches := rfl
@[simp] theorem setL1_bundles (core line : Nat) (l : Line) : (setL1 s core line l).bundles = s.bundles := rfl
@[simp] theorem setL1_blocks (core line : Nat) (l : Line) : (setL1 s core line l).blocks = s.blocks := rfl
@[simp] theorem setL1_gangs (core line : Nat) (l : Line) : (setL1 s core line l).gangs = s.gangs := rfl
@[simp] theorem setL1_seqs (core line : Nat) (l : Line) : (setL1 s core line l).seqs = s.seqs := rfl
@[simp] theorem setL1_engines (core line : Nat) (l : Line) : (setL1 s core line l).engines = s.engines := rfl
@[simp] theorem setL1_reds (core line : Nat) (l : Line) : (setL1 s core line l).reds = s.reds := rfl
@[simp] theorem setL1_flights (core line : Nat) (l : Line) : (setL1 s core line l).flights = s.flights := rfl
@[simp] theorem setL1_bids (core line : Nat) (l : Line) : (setL1 s core line l).bids = s.bids := rfl
@[simp] theorem setL1_peers (core line : Nat) (l : Line) : (setL1 s core line l).peers = s.peers := rfl
@[simp] theorem setL1_links (core line : Nat) (l : Line) : (setL1 s core line l).links = s.links := rfl
@[simp] theorem setL1_host (core line : Nat) (l : Line) : (setL1 s core line l).host = s.host := rfl
@[simp] theorem setL1_free (core line : Nat) (l : Line) : (setL1 s core line l).free = s.free := rfl
@[simp] theorem setL1_tape (core line : Nat) (l : Line) : (setL1 s core line l).tape = s.tape := rfl
@[simp] theorem setL1_matrix (core line : Nat) (l : Line) : (setL1 s core line l).matrix = s.matrix := rfl
@[simp] theorem setL1_sections (core line : Nat) (l : Line) : (setL1 s core line l).sections = s.sections := rfl
@[simp] theorem setL1_rdc (core line : Nat) (l : Line) : (setL1 s core line l).rdc = s.rdc := rfl
@[simp] theorem setL1_owners (core line : Nat) (l : Line) : (setL1 s core line l).owners = s.owners := rfl
@[simp] theorem setL1_pending (core line : Nat) (l : Line) : (setL1 s core line l).pending = s.pending := rfl
@[simp] theorem setL1_monitors (core line : Nat) (l : Line) : (setL1 s core line l).monitors = s.monitors := rfl
@[simp] theorem setL1_locks (core line : Nat) (l : Line) : (setL1 s core line l).locks = s.locks := rfl
@[simp] theorem setL1_lockMsgs (core line : Nat) (l : Line) : (setL1 s core line l).lockMsgs = s.lockMsgs := rfl
@[simp] theorem setL1_trapWait (core line : Nat) (l : Line) : (setL1 s core line l).trapWait = s.trapWait := rfl
@[simp] theorem setL1_causes (core line : Nat) (l : Line) : (setL1 s core line l).causes = s.causes := rfl
@[simp] theorem setL1_ended (core line : Nat) (l : Line) : (setL1 s core line l).ended = s.ended := rfl
@[simp] theorem setL1_past (core line : Nat) (l : Line) : (setL1 s core line l).past = s.past := rfl
@[simp] theorem setL1_departed (core line : Nat) (l : Line) : (setL1 s core line l).departed = s.departed := rfl
@[simp] theorem setL1_partners (core line : Nat) (l : Line) : (setL1 s core line l).partners = s.partners := rfl
@[simp] theorem setL1_vetting (core line : Nat) (l : Line) : (setL1 s core line l).vetting = s.vetting := rfl
@[simp] theorem setL1_recvSeq (core line : Nat) (l : Line) : (setL1 s core line l).recvSeq = s.recvSeq := rfl
@[simp] theorem setL1_reorder (core line : Nat) (l : Line) : (setL1 s core line l).reorder = s.reorder := rfl
@[simp] theorem setL1_atomParts (core line : Nat) (l : Line) : (setL1 s core line l).atomParts = s.atomParts := rfl
@[simp] theorem setL1_notifies (core line : Nat) (l : Line) : (setL1 s core line l).notifies = s.notifies := rfl
@[simp] theorem setL1_holders (core line : Nat) (l : Line) : (setL1 s core line l).holders = s.holders := rfl
@[simp] theorem setL1_covered (core line : Nat) (l : Line) : (setL1 s core line l).covered = s.covered := rfl
@[simp] theorem setL1_reporting (core line : Nat) (l : Line) : (setL1 s core line l).reporting = s.reporting := rfl
@[simp] theorem setL1_pastBlocks (core line : Nat) (l : Line) : (setL1 s core line l).pastBlocks = s.pastBlocks := rfl
@[simp] theorem setL1_faulted (core line : Nat) (l : Line) : (setL1 s core line l).faulted = s.faulted := rfl

@[simp] theorem setRdc_mem (core line : Nat) (l : Line) : (setRdc s core line l).mem = s.mem := rfl
@[simp] theorem setRdc_g (core line : Nat) (l : Line) : (setRdc s core line l).g = s.g := rfl
@[simp] theorem setRdc_others (core line : Nat) (l : Line) : (setRdc s core line l).others = s.others := rfl
@[simp] theorem setRdc_windows (core line : Nat) (l : Line) : (setRdc s core line l).windows = s.windows := rfl
@[simp] theorem setRdc_csr (core line : Nat) (l : Line) : (setRdc s core line l).csr = s.csr := rfl
@[simp] theorem setRdc_kept (core line : Nat) (l : Line) : (setRdc s core line l).kept = s.kept := rfl
@[simp] theorem setRdc_sent (core line : Nat) (l : Line) : (setRdc s core line l).sent = s.sent := rfl
@[simp] theorem setRdc_sendSeq (core line : Nat) (l : Line) : (setRdc s core line l).sendSeq = s.sendSeq := rfl
@[simp] theorem setRdc_outbox (core line : Nat) (l : Line) : (setRdc s core line l).outbox = s.outbox := rfl
@[simp] theorem setRdc_cores (core line : Nat) (l : Line) : (setRdc s core line l).cores = s.cores := rfl
@[simp] theorem setRdc_clocks (core line : Nat) (l : Line) : (setRdc s core line l).clocks = s.clocks := rfl
@[simp] theorem setRdc_tlb (core line : Nat) (l : Line) : (setRdc s core line l).tlb = s.tlb := rfl
@[simp] theorem setRdc_fmTlb (core line : Nat) (l : Line) : (setRdc s core line l).fmTlb = s.fmTlb := rfl
@[simp] theorem setRdc_l2 (core line : Nat) (l : Line) : (setRdc s core line l).l2 = s.l2 := rfl
@[simp] theorem setRdc_walks (core line : Nat) (l : Line) : (setRdc s core line l).walks = s.walks := rfl
@[simp] theorem setRdc_queues (core line : Nat) (l : Line) : (setRdc s core line l).queues = s.queues := rfl
@[simp] theorem setRdc_launches (core line : Nat) (l : Line) : (setRdc s core line l).launches = s.launches := rfl
@[simp] theorem setRdc_bundles (core line : Nat) (l : Line) : (setRdc s core line l).bundles = s.bundles := rfl
@[simp] theorem setRdc_blocks (core line : Nat) (l : Line) : (setRdc s core line l).blocks = s.blocks := rfl
@[simp] theorem setRdc_gangs (core line : Nat) (l : Line) : (setRdc s core line l).gangs = s.gangs := rfl
@[simp] theorem setRdc_seqs (core line : Nat) (l : Line) : (setRdc s core line l).seqs = s.seqs := rfl
@[simp] theorem setRdc_engines (core line : Nat) (l : Line) : (setRdc s core line l).engines = s.engines := rfl
@[simp] theorem setRdc_reds (core line : Nat) (l : Line) : (setRdc s core line l).reds = s.reds := rfl
@[simp] theorem setRdc_flights (core line : Nat) (l : Line) : (setRdc s core line l).flights = s.flights := rfl
@[simp] theorem setRdc_bids (core line : Nat) (l : Line) : (setRdc s core line l).bids = s.bids := rfl
@[simp] theorem setRdc_peers (core line : Nat) (l : Line) : (setRdc s core line l).peers = s.peers := rfl
@[simp] theorem setRdc_links (core line : Nat) (l : Line) : (setRdc s core line l).links = s.links := rfl
@[simp] theorem setRdc_host (core line : Nat) (l : Line) : (setRdc s core line l).host = s.host := rfl
@[simp] theorem setRdc_free (core line : Nat) (l : Line) : (setRdc s core line l).free = s.free := rfl
@[simp] theorem setRdc_tape (core line : Nat) (l : Line) : (setRdc s core line l).tape = s.tape := rfl
@[simp] theorem setRdc_matrix (core line : Nat) (l : Line) : (setRdc s core line l).matrix = s.matrix := rfl
@[simp] theorem setRdc_sections (core line : Nat) (l : Line) : (setRdc s core line l).sections = s.sections := rfl
@[simp] theorem setRdc_l1 (core line : Nat) (l : Line) : (setRdc s core line l).l1 = s.l1 := rfl
@[simp] theorem setRdc_owners (core line : Nat) (l : Line) : (setRdc s core line l).owners = s.owners := rfl
@[simp] theorem setRdc_pending (core line : Nat) (l : Line) : (setRdc s core line l).pending = s.pending := rfl
@[simp] theorem setRdc_monitors (core line : Nat) (l : Line) : (setRdc s core line l).monitors = s.monitors := rfl
@[simp] theorem setRdc_locks (core line : Nat) (l : Line) : (setRdc s core line l).locks = s.locks := rfl
@[simp] theorem setRdc_lockMsgs (core line : Nat) (l : Line) : (setRdc s core line l).lockMsgs = s.lockMsgs := rfl
@[simp] theorem setRdc_trapWait (core line : Nat) (l : Line) : (setRdc s core line l).trapWait = s.trapWait := rfl
@[simp] theorem setRdc_causes (core line : Nat) (l : Line) : (setRdc s core line l).causes = s.causes := rfl
@[simp] theorem setRdc_ended (core line : Nat) (l : Line) : (setRdc s core line l).ended = s.ended := rfl
@[simp] theorem setRdc_past (core line : Nat) (l : Line) : (setRdc s core line l).past = s.past := rfl
@[simp] theorem setRdc_departed (core line : Nat) (l : Line) : (setRdc s core line l).departed = s.departed := rfl
@[simp] theorem setRdc_partners (core line : Nat) (l : Line) : (setRdc s core line l).partners = s.partners := rfl
@[simp] theorem setRdc_vetting (core line : Nat) (l : Line) : (setRdc s core line l).vetting = s.vetting := rfl
@[simp] theorem setRdc_recvSeq (core line : Nat) (l : Line) : (setRdc s core line l).recvSeq = s.recvSeq := rfl
@[simp] theorem setRdc_reorder (core line : Nat) (l : Line) : (setRdc s core line l).reorder = s.reorder := rfl
@[simp] theorem setRdc_atomParts (core line : Nat) (l : Line) : (setRdc s core line l).atomParts = s.atomParts := rfl
@[simp] theorem setRdc_notifies (core line : Nat) (l : Line) : (setRdc s core line l).notifies = s.notifies := rfl
@[simp] theorem setRdc_holders (core line : Nat) (l : Line) : (setRdc s core line l).holders = s.holders := rfl
@[simp] theorem setRdc_covered (core line : Nat) (l : Line) : (setRdc s core line l).covered = s.covered := rfl
@[simp] theorem setRdc_reporting (core line : Nat) (l : Line) : (setRdc s core line l).reporting = s.reporting := rfl
@[simp] theorem setRdc_pastBlocks (core line : Nat) (l : Line) : (setRdc s core line l).pastBlocks = s.pastBlocks := rfl
@[simp] theorem setRdc_faulted (core line : Nat) (l : Line) : (setRdc s core line l).faulted = s.faulted := rfl

@[simp] theorem wakeLine_mem (line : Nat) : (wakeLine s line).mem = s.mem := rfl
@[simp] theorem wakeLine_g (line : Nat) : (wakeLine s line).g = s.g := rfl
@[simp] theorem wakeLine_others (line : Nat) : (wakeLine s line).others = s.others := rfl
@[simp] theorem wakeLine_windows (line : Nat) : (wakeLine s line).windows = s.windows := rfl
@[simp] theorem wakeLine_csr (line : Nat) : (wakeLine s line).csr = s.csr := rfl
@[simp] theorem wakeLine_kept (line : Nat) : (wakeLine s line).kept = s.kept := rfl
@[simp] theorem wakeLine_sent (line : Nat) : (wakeLine s line).sent = s.sent := rfl
@[simp] theorem wakeLine_sendSeq (line : Nat) : (wakeLine s line).sendSeq = s.sendSeq := rfl
@[simp] theorem wakeLine_outbox (line : Nat) : (wakeLine s line).outbox = s.outbox := rfl
@[simp] theorem wakeLine_cores (line : Nat) : (wakeLine s line).cores = s.cores := rfl
@[simp] theorem wakeLine_clocks (line : Nat) : (wakeLine s line).clocks = s.clocks := rfl
@[simp] theorem wakeLine_tlb (line : Nat) : (wakeLine s line).tlb = s.tlb := rfl
@[simp] theorem wakeLine_fmTlb (line : Nat) : (wakeLine s line).fmTlb = s.fmTlb := rfl
@[simp] theorem wakeLine_l2 (line : Nat) : (wakeLine s line).l2 = s.l2 := rfl
@[simp] theorem wakeLine_walks (line : Nat) : (wakeLine s line).walks = s.walks := rfl
@[simp] theorem wakeLine_queues (line : Nat) : (wakeLine s line).queues = s.queues := rfl
@[simp] theorem wakeLine_launches (line : Nat) : (wakeLine s line).launches = s.launches := rfl
@[simp] theorem wakeLine_bundles (line : Nat) : (wakeLine s line).bundles = s.bundles := rfl
@[simp] theorem wakeLine_blocks (line : Nat) : (wakeLine s line).blocks = s.blocks := rfl
@[simp] theorem wakeLine_gangs (line : Nat) : (wakeLine s line).gangs = s.gangs := rfl
@[simp] theorem wakeLine_seqs (line : Nat) : (wakeLine s line).seqs = s.seqs := rfl
@[simp] theorem wakeLine_engines (line : Nat) : (wakeLine s line).engines = s.engines := rfl
@[simp] theorem wakeLine_reds (line : Nat) : (wakeLine s line).reds = s.reds := rfl
@[simp] theorem wakeLine_flights (line : Nat) : (wakeLine s line).flights = s.flights := rfl
@[simp] theorem wakeLine_bids (line : Nat) : (wakeLine s line).bids = s.bids := rfl
@[simp] theorem wakeLine_peers (line : Nat) : (wakeLine s line).peers = s.peers := rfl
@[simp] theorem wakeLine_links (line : Nat) : (wakeLine s line).links = s.links := rfl
@[simp] theorem wakeLine_host (line : Nat) : (wakeLine s line).host = s.host := rfl
@[simp] theorem wakeLine_free (line : Nat) : (wakeLine s line).free = s.free := rfl
@[simp] theorem wakeLine_tape (line : Nat) : (wakeLine s line).tape = s.tape := rfl
@[simp] theorem wakeLine_matrix (line : Nat) : (wakeLine s line).matrix = s.matrix := rfl
@[simp] theorem wakeLine_sections (line : Nat) : (wakeLine s line).sections = s.sections := rfl
@[simp] theorem wakeLine_l1 (line : Nat) : (wakeLine s line).l1 = s.l1 := rfl
@[simp] theorem wakeLine_rdc (line : Nat) : (wakeLine s line).rdc = s.rdc := rfl
@[simp] theorem wakeLine_owners (line : Nat) : (wakeLine s line).owners = s.owners := rfl
@[simp] theorem wakeLine_pending (line : Nat) : (wakeLine s line).pending = s.pending := rfl
@[simp] theorem wakeLine_locks (line : Nat) : (wakeLine s line).locks = s.locks := rfl
@[simp] theorem wakeLine_lockMsgs (line : Nat) : (wakeLine s line).lockMsgs = s.lockMsgs := rfl
@[simp] theorem wakeLine_trapWait (line : Nat) : (wakeLine s line).trapWait = s.trapWait := rfl
@[simp] theorem wakeLine_causes (line : Nat) : (wakeLine s line).causes = s.causes := rfl
@[simp] theorem wakeLine_ended (line : Nat) : (wakeLine s line).ended = s.ended := rfl
@[simp] theorem wakeLine_past (line : Nat) : (wakeLine s line).past = s.past := rfl
@[simp] theorem wakeLine_departed (line : Nat) : (wakeLine s line).departed = s.departed := rfl
@[simp] theorem wakeLine_partners (line : Nat) : (wakeLine s line).partners = s.partners := rfl
@[simp] theorem wakeLine_vetting (line : Nat) : (wakeLine s line).vetting = s.vetting := rfl
@[simp] theorem wakeLine_recvSeq (line : Nat) : (wakeLine s line).recvSeq = s.recvSeq := rfl
@[simp] theorem wakeLine_reorder (line : Nat) : (wakeLine s line).reorder = s.reorder := rfl
@[simp] theorem wakeLine_atomParts (line : Nat) : (wakeLine s line).atomParts = s.atomParts := rfl
@[simp] theorem wakeLine_notifies (line : Nat) : (wakeLine s line).notifies = s.notifies := rfl
@[simp] theorem wakeLine_holders (line : Nat) : (wakeLine s line).holders = s.holders := rfl
@[simp] theorem wakeLine_covered (line : Nat) : (wakeLine s line).covered = s.covered := rfl
@[simp] theorem wakeLine_reporting (line : Nat) : (wakeLine s line).reporting = s.reporting := rfl
@[simp] theorem wakeLine_pastBlocks (line : Nat) : (wakeLine s line).pastBlocks = s.pastBlocks := rfl
@[simp] theorem wakeLine_faulted (line : Nat) : (wakeLine s line).faulted = s.faulted := rfl

@[simp] theorem csrPut_mem (n v : Nat) : (csrPut s n v).mem = s.mem := rfl
@[simp] theorem csrPut_g (n v : Nat) : (csrPut s n v).g = s.g := rfl
@[simp] theorem csrPut_others (n v : Nat) : (csrPut s n v).others = s.others := rfl
@[simp] theorem csrPut_windows (n v : Nat) : (csrPut s n v).windows = s.windows := rfl
@[simp] theorem csrPut_kept (n v : Nat) : (csrPut s n v).kept = s.kept := rfl
@[simp] theorem csrPut_sent (n v : Nat) : (csrPut s n v).sent = s.sent := rfl
@[simp] theorem csrPut_sendSeq (n v : Nat) : (csrPut s n v).sendSeq = s.sendSeq := rfl
@[simp] theorem csrPut_outbox (n v : Nat) : (csrPut s n v).outbox = s.outbox := rfl
@[simp] theorem csrPut_cores (n v : Nat) : (csrPut s n v).cores = s.cores := rfl
@[simp] theorem csrPut_clocks (n v : Nat) : (csrPut s n v).clocks = s.clocks := rfl
@[simp] theorem csrPut_tlb (n v : Nat) : (csrPut s n v).tlb = s.tlb := rfl
@[simp] theorem csrPut_fmTlb (n v : Nat) : (csrPut s n v).fmTlb = s.fmTlb := rfl
@[simp] theorem csrPut_l2 (n v : Nat) : (csrPut s n v).l2 = s.l2 := rfl
@[simp] theorem csrPut_walks (n v : Nat) : (csrPut s n v).walks = s.walks := rfl
@[simp] theorem csrPut_queues (n v : Nat) : (csrPut s n v).queues = s.queues := rfl
@[simp] theorem csrPut_launches (n v : Nat) : (csrPut s n v).launches = s.launches := rfl
@[simp] theorem csrPut_bundles (n v : Nat) : (csrPut s n v).bundles = s.bundles := rfl
@[simp] theorem csrPut_blocks (n v : Nat) : (csrPut s n v).blocks = s.blocks := rfl
@[simp] theorem csrPut_gangs (n v : Nat) : (csrPut s n v).gangs = s.gangs := rfl
@[simp] theorem csrPut_seqs (n v : Nat) : (csrPut s n v).seqs = s.seqs := rfl
@[simp] theorem csrPut_engines (n v : Nat) : (csrPut s n v).engines = s.engines := rfl
@[simp] theorem csrPut_reds (n v : Nat) : (csrPut s n v).reds = s.reds := rfl
@[simp] theorem csrPut_flights (n v : Nat) : (csrPut s n v).flights = s.flights := rfl
@[simp] theorem csrPut_bids (n v : Nat) : (csrPut s n v).bids = s.bids := rfl
@[simp] theorem csrPut_peers (n v : Nat) : (csrPut s n v).peers = s.peers := rfl
@[simp] theorem csrPut_links (n v : Nat) : (csrPut s n v).links = s.links := rfl
@[simp] theorem csrPut_host (n v : Nat) : (csrPut s n v).host = s.host := rfl
@[simp] theorem csrPut_free (n v : Nat) : (csrPut s n v).free = s.free := rfl
@[simp] theorem csrPut_tape (n v : Nat) : (csrPut s n v).tape = s.tape := rfl
@[simp] theorem csrPut_matrix (n v : Nat) : (csrPut s n v).matrix = s.matrix := rfl
@[simp] theorem csrPut_sections (n v : Nat) : (csrPut s n v).sections = s.sections := rfl
@[simp] theorem csrPut_l1 (n v : Nat) : (csrPut s n v).l1 = s.l1 := rfl
@[simp] theorem csrPut_rdc (n v : Nat) : (csrPut s n v).rdc = s.rdc := rfl
@[simp] theorem csrPut_owners (n v : Nat) : (csrPut s n v).owners = s.owners := rfl
@[simp] theorem csrPut_pending (n v : Nat) : (csrPut s n v).pending = s.pending := rfl
@[simp] theorem csrPut_monitors (n v : Nat) : (csrPut s n v).monitors = s.monitors := rfl
@[simp] theorem csrPut_locks (n v : Nat) : (csrPut s n v).locks = s.locks := rfl
@[simp] theorem csrPut_lockMsgs (n v : Nat) : (csrPut s n v).lockMsgs = s.lockMsgs := rfl
@[simp] theorem csrPut_trapWait (n v : Nat) : (csrPut s n v).trapWait = s.trapWait := rfl
@[simp] theorem csrPut_causes (n v : Nat) : (csrPut s n v).causes = s.causes := rfl
@[simp] theorem csrPut_ended (n v : Nat) : (csrPut s n v).ended = s.ended := rfl
@[simp] theorem csrPut_past (n v : Nat) : (csrPut s n v).past = s.past := rfl
@[simp] theorem csrPut_departed (n v : Nat) : (csrPut s n v).departed = s.departed := rfl
@[simp] theorem csrPut_partners (n v : Nat) : (csrPut s n v).partners = s.partners := rfl
@[simp] theorem csrPut_vetting (n v : Nat) : (csrPut s n v).vetting = s.vetting := rfl
@[simp] theorem csrPut_recvSeq (n v : Nat) : (csrPut s n v).recvSeq = s.recvSeq := rfl
@[simp] theorem csrPut_reorder (n v : Nat) : (csrPut s n v).reorder = s.reorder := rfl
@[simp] theorem csrPut_atomParts (n v : Nat) : (csrPut s n v).atomParts = s.atomParts := rfl
@[simp] theorem csrPut_notifies (n v : Nat) : (csrPut s n v).notifies = s.notifies := rfl
@[simp] theorem csrPut_holders (n v : Nat) : (csrPut s n v).holders = s.holders := rfl
@[simp] theorem csrPut_covered (n v : Nat) : (csrPut s n v).covered = s.covered := rfl
@[simp] theorem csrPut_reporting (n v : Nat) : (csrPut s n v).reporting = s.reporting := rfl
@[simp] theorem csrPut_pastBlocks (n v : Nat) : (csrPut s n v).pastBlocks = s.pastBlocks := rfl
@[simp] theorem csrPut_faulted (n v : Nat) : (csrPut s n v).faulted = s.faulted := rfl

@[simp] theorem updBlock_mem (id : Nat) (f : Block → Block) : (updBlock s id f).mem = s.mem := rfl
@[simp] theorem updBlock_g (id : Nat) (f : Block → Block) : (updBlock s id f).g = s.g := rfl
@[simp] theorem updBlock_others (id : Nat) (f : Block → Block) : (updBlock s id f).others = s.others := rfl
@[simp] theorem updBlock_windows (id : Nat) (f : Block → Block) : (updBlock s id f).windows = s.windows := rfl
@[simp] theorem updBlock_csr (id : Nat) (f : Block → Block) : (updBlock s id f).csr = s.csr := rfl
@[simp] theorem updBlock_kept (id : Nat) (f : Block → Block) : (updBlock s id f).kept = s.kept := rfl
@[simp] theorem updBlock_sent (id : Nat) (f : Block → Block) : (updBlock s id f).sent = s.sent := rfl
@[simp] theorem updBlock_sendSeq (id : Nat) (f : Block → Block) : (updBlock s id f).sendSeq = s.sendSeq := rfl
@[simp] theorem updBlock_outbox (id : Nat) (f : Block → Block) : (updBlock s id f).outbox = s.outbox := rfl
@[simp] theorem updBlock_cores (id : Nat) (f : Block → Block) : (updBlock s id f).cores = s.cores := rfl
@[simp] theorem updBlock_clocks (id : Nat) (f : Block → Block) : (updBlock s id f).clocks = s.clocks := rfl
@[simp] theorem updBlock_tlb (id : Nat) (f : Block → Block) : (updBlock s id f).tlb = s.tlb := rfl
@[simp] theorem updBlock_fmTlb (id : Nat) (f : Block → Block) : (updBlock s id f).fmTlb = s.fmTlb := rfl
@[simp] theorem updBlock_l2 (id : Nat) (f : Block → Block) : (updBlock s id f).l2 = s.l2 := rfl
@[simp] theorem updBlock_walks (id : Nat) (f : Block → Block) : (updBlock s id f).walks = s.walks := rfl
@[simp] theorem updBlock_queues (id : Nat) (f : Block → Block) : (updBlock s id f).queues = s.queues := rfl
@[simp] theorem updBlock_launches (id : Nat) (f : Block → Block) : (updBlock s id f).launches = s.launches := rfl
@[simp] theorem updBlock_bundles (id : Nat) (f : Block → Block) : (updBlock s id f).bundles = s.bundles := rfl
@[simp] theorem updBlock_gangs (id : Nat) (f : Block → Block) : (updBlock s id f).gangs = s.gangs := rfl
@[simp] theorem updBlock_seqs (id : Nat) (f : Block → Block) : (updBlock s id f).seqs = s.seqs := rfl
@[simp] theorem updBlock_engines (id : Nat) (f : Block → Block) : (updBlock s id f).engines = s.engines := rfl
@[simp] theorem updBlock_reds (id : Nat) (f : Block → Block) : (updBlock s id f).reds = s.reds := rfl
@[simp] theorem updBlock_flights (id : Nat) (f : Block → Block) : (updBlock s id f).flights = s.flights := rfl
@[simp] theorem updBlock_bids (id : Nat) (f : Block → Block) : (updBlock s id f).bids = s.bids := rfl
@[simp] theorem updBlock_peers (id : Nat) (f : Block → Block) : (updBlock s id f).peers = s.peers := rfl
@[simp] theorem updBlock_links (id : Nat) (f : Block → Block) : (updBlock s id f).links = s.links := rfl
@[simp] theorem updBlock_host (id : Nat) (f : Block → Block) : (updBlock s id f).host = s.host := rfl
@[simp] theorem updBlock_free (id : Nat) (f : Block → Block) : (updBlock s id f).free = s.free := rfl
@[simp] theorem updBlock_tape (id : Nat) (f : Block → Block) : (updBlock s id f).tape = s.tape := rfl
@[simp] theorem updBlock_matrix (id : Nat) (f : Block → Block) : (updBlock s id f).matrix = s.matrix := rfl
@[simp] theorem updBlock_sections (id : Nat) (f : Block → Block) : (updBlock s id f).sections = s.sections := rfl
@[simp] theorem updBlock_l1 (id : Nat) (f : Block → Block) : (updBlock s id f).l1 = s.l1 := rfl
@[simp] theorem updBlock_rdc (id : Nat) (f : Block → Block) : (updBlock s id f).rdc = s.rdc := rfl
@[simp] theorem updBlock_owners (id : Nat) (f : Block → Block) : (updBlock s id f).owners = s.owners := rfl
@[simp] theorem updBlock_pending (id : Nat) (f : Block → Block) : (updBlock s id f).pending = s.pending := rfl
@[simp] theorem updBlock_monitors (id : Nat) (f : Block → Block) : (updBlock s id f).monitors = s.monitors := rfl
@[simp] theorem updBlock_locks (id : Nat) (f : Block → Block) : (updBlock s id f).locks = s.locks := rfl
@[simp] theorem updBlock_lockMsgs (id : Nat) (f : Block → Block) : (updBlock s id f).lockMsgs = s.lockMsgs := rfl
@[simp] theorem updBlock_trapWait (id : Nat) (f : Block → Block) : (updBlock s id f).trapWait = s.trapWait := rfl
@[simp] theorem updBlock_causes (id : Nat) (f : Block → Block) : (updBlock s id f).causes = s.causes := rfl
@[simp] theorem updBlock_ended (id : Nat) (f : Block → Block) : (updBlock s id f).ended = s.ended := rfl
@[simp] theorem updBlock_past (id : Nat) (f : Block → Block) : (updBlock s id f).past = s.past := rfl
@[simp] theorem updBlock_departed (id : Nat) (f : Block → Block) : (updBlock s id f).departed = s.departed := rfl
@[simp] theorem updBlock_partners (id : Nat) (f : Block → Block) : (updBlock s id f).partners = s.partners := rfl
@[simp] theorem updBlock_vetting (id : Nat) (f : Block → Block) : (updBlock s id f).vetting = s.vetting := rfl
@[simp] theorem updBlock_recvSeq (id : Nat) (f : Block → Block) : (updBlock s id f).recvSeq = s.recvSeq := rfl
@[simp] theorem updBlock_reorder (id : Nat) (f : Block → Block) : (updBlock s id f).reorder = s.reorder := rfl
@[simp] theorem updBlock_atomParts (id : Nat) (f : Block → Block) : (updBlock s id f).atomParts = s.atomParts := rfl
@[simp] theorem updBlock_notifies (id : Nat) (f : Block → Block) : (updBlock s id f).notifies = s.notifies := rfl
@[simp] theorem updBlock_holders (id : Nat) (f : Block → Block) : (updBlock s id f).holders = s.holders := rfl
@[simp] theorem updBlock_covered (id : Nat) (f : Block → Block) : (updBlock s id f).covered = s.covered := rfl
@[simp] theorem updBlock_reporting (id : Nat) (f : Block → Block) : (updBlock s id f).reporting = s.reporting := rfl
@[simp] theorem updBlock_pastBlocks (id : Nat) (f : Block → Block) : (updBlock s id f).pastBlocks = s.pastBlocks := rfl
@[simp] theorem updBlock_faulted (id : Nat) (f : Block → Block) : (updBlock s id f).faulted = s.faulted := rfl

@[simp] theorem updGang_mem (id : Nat) (f : Gang → Gang) : (updGang s id f).mem = s.mem := rfl
@[simp] theorem updGang_g (id : Nat) (f : Gang → Gang) : (updGang s id f).g = s.g := rfl
@[simp] theorem updGang_others (id : Nat) (f : Gang → Gang) : (updGang s id f).others = s.others := rfl
@[simp] theorem updGang_windows (id : Nat) (f : Gang → Gang) : (updGang s id f).windows = s.windows := rfl
@[simp] theorem updGang_csr (id : Nat) (f : Gang → Gang) : (updGang s id f).csr = s.csr := rfl
@[simp] theorem updGang_kept (id : Nat) (f : Gang → Gang) : (updGang s id f).kept = s.kept := rfl
@[simp] theorem updGang_sent (id : Nat) (f : Gang → Gang) : (updGang s id f).sent = s.sent := rfl
@[simp] theorem updGang_sendSeq (id : Nat) (f : Gang → Gang) : (updGang s id f).sendSeq = s.sendSeq := rfl
@[simp] theorem updGang_outbox (id : Nat) (f : Gang → Gang) : (updGang s id f).outbox = s.outbox := rfl
@[simp] theorem updGang_cores (id : Nat) (f : Gang → Gang) : (updGang s id f).cores = s.cores := rfl
@[simp] theorem updGang_clocks (id : Nat) (f : Gang → Gang) : (updGang s id f).clocks = s.clocks := rfl
@[simp] theorem updGang_tlb (id : Nat) (f : Gang → Gang) : (updGang s id f).tlb = s.tlb := rfl
@[simp] theorem updGang_fmTlb (id : Nat) (f : Gang → Gang) : (updGang s id f).fmTlb = s.fmTlb := rfl
@[simp] theorem updGang_l2 (id : Nat) (f : Gang → Gang) : (updGang s id f).l2 = s.l2 := rfl
@[simp] theorem updGang_walks (id : Nat) (f : Gang → Gang) : (updGang s id f).walks = s.walks := rfl
@[simp] theorem updGang_queues (id : Nat) (f : Gang → Gang) : (updGang s id f).queues = s.queues := rfl
@[simp] theorem updGang_launches (id : Nat) (f : Gang → Gang) : (updGang s id f).launches = s.launches := rfl
@[simp] theorem updGang_bundles (id : Nat) (f : Gang → Gang) : (updGang s id f).bundles = s.bundles := rfl
@[simp] theorem updGang_blocks (id : Nat) (f : Gang → Gang) : (updGang s id f).blocks = s.blocks := rfl
@[simp] theorem updGang_seqs (id : Nat) (f : Gang → Gang) : (updGang s id f).seqs = s.seqs := rfl
@[simp] theorem updGang_engines (id : Nat) (f : Gang → Gang) : (updGang s id f).engines = s.engines := rfl
@[simp] theorem updGang_reds (id : Nat) (f : Gang → Gang) : (updGang s id f).reds = s.reds := rfl
@[simp] theorem updGang_flights (id : Nat) (f : Gang → Gang) : (updGang s id f).flights = s.flights := rfl
@[simp] theorem updGang_bids (id : Nat) (f : Gang → Gang) : (updGang s id f).bids = s.bids := rfl
@[simp] theorem updGang_peers (id : Nat) (f : Gang → Gang) : (updGang s id f).peers = s.peers := rfl
@[simp] theorem updGang_links (id : Nat) (f : Gang → Gang) : (updGang s id f).links = s.links := rfl
@[simp] theorem updGang_host (id : Nat) (f : Gang → Gang) : (updGang s id f).host = s.host := rfl
@[simp] theorem updGang_free (id : Nat) (f : Gang → Gang) : (updGang s id f).free = s.free := rfl
@[simp] theorem updGang_tape (id : Nat) (f : Gang → Gang) : (updGang s id f).tape = s.tape := rfl
@[simp] theorem updGang_matrix (id : Nat) (f : Gang → Gang) : (updGang s id f).matrix = s.matrix := rfl
@[simp] theorem updGang_sections (id : Nat) (f : Gang → Gang) : (updGang s id f).sections = s.sections := rfl
@[simp] theorem updGang_l1 (id : Nat) (f : Gang → Gang) : (updGang s id f).l1 = s.l1 := rfl
@[simp] theorem updGang_rdc (id : Nat) (f : Gang → Gang) : (updGang s id f).rdc = s.rdc := rfl
@[simp] theorem updGang_owners (id : Nat) (f : Gang → Gang) : (updGang s id f).owners = s.owners := rfl
@[simp] theorem updGang_pending (id : Nat) (f : Gang → Gang) : (updGang s id f).pending = s.pending := rfl
@[simp] theorem updGang_monitors (id : Nat) (f : Gang → Gang) : (updGang s id f).monitors = s.monitors := rfl
@[simp] theorem updGang_locks (id : Nat) (f : Gang → Gang) : (updGang s id f).locks = s.locks := rfl
@[simp] theorem updGang_lockMsgs (id : Nat) (f : Gang → Gang) : (updGang s id f).lockMsgs = s.lockMsgs := rfl
@[simp] theorem updGang_trapWait (id : Nat) (f : Gang → Gang) : (updGang s id f).trapWait = s.trapWait := rfl
@[simp] theorem updGang_causes (id : Nat) (f : Gang → Gang) : (updGang s id f).causes = s.causes := rfl
@[simp] theorem updGang_ended (id : Nat) (f : Gang → Gang) : (updGang s id f).ended = s.ended := rfl
@[simp] theorem updGang_past (id : Nat) (f : Gang → Gang) : (updGang s id f).past = s.past := rfl
@[simp] theorem updGang_departed (id : Nat) (f : Gang → Gang) : (updGang s id f).departed = s.departed := rfl
@[simp] theorem updGang_partners (id : Nat) (f : Gang → Gang) : (updGang s id f).partners = s.partners := rfl
@[simp] theorem updGang_vetting (id : Nat) (f : Gang → Gang) : (updGang s id f).vetting = s.vetting := rfl
@[simp] theorem updGang_recvSeq (id : Nat) (f : Gang → Gang) : (updGang s id f).recvSeq = s.recvSeq := rfl
@[simp] theorem updGang_reorder (id : Nat) (f : Gang → Gang) : (updGang s id f).reorder = s.reorder := rfl
@[simp] theorem updGang_atomParts (id : Nat) (f : Gang → Gang) : (updGang s id f).atomParts = s.atomParts := rfl
@[simp] theorem updGang_notifies (id : Nat) (f : Gang → Gang) : (updGang s id f).notifies = s.notifies := rfl
@[simp] theorem updGang_holders (id : Nat) (f : Gang → Gang) : (updGang s id f).holders = s.holders := rfl
@[simp] theorem updGang_covered (id : Nat) (f : Gang → Gang) : (updGang s id f).covered = s.covered := rfl
@[simp] theorem updGang_reporting (id : Nat) (f : Gang → Gang) : (updGang s id f).reporting = s.reporting := rfl
@[simp] theorem updGang_pastBlocks (id : Nat) (f : Gang → Gang) : (updGang s id f).pastBlocks = s.pastBlocks := rfl
@[simp] theorem updGang_faulted (id : Nat) (f : Gang → Gang) : (updGang s id f).faulted = s.faulted := rfl

@[simp] theorem updLaunch_mem (id : Nat) (f : Launch → Launch) : (updLaunch s id f).mem = s.mem := rfl
@[simp] theorem updLaunch_g (id : Nat) (f : Launch → Launch) : (updLaunch s id f).g = s.g := rfl
@[simp] theorem updLaunch_others (id : Nat) (f : Launch → Launch) : (updLaunch s id f).others = s.others := rfl
@[simp] theorem updLaunch_windows (id : Nat) (f : Launch → Launch) : (updLaunch s id f).windows = s.windows := rfl
@[simp] theorem updLaunch_csr (id : Nat) (f : Launch → Launch) : (updLaunch s id f).csr = s.csr := rfl
@[simp] theorem updLaunch_kept (id : Nat) (f : Launch → Launch) : (updLaunch s id f).kept = s.kept := rfl
@[simp] theorem updLaunch_sent (id : Nat) (f : Launch → Launch) : (updLaunch s id f).sent = s.sent := rfl
@[simp] theorem updLaunch_sendSeq (id : Nat) (f : Launch → Launch) : (updLaunch s id f).sendSeq = s.sendSeq := rfl
@[simp] theorem updLaunch_outbox (id : Nat) (f : Launch → Launch) : (updLaunch s id f).outbox = s.outbox := rfl
@[simp] theorem updLaunch_cores (id : Nat) (f : Launch → Launch) : (updLaunch s id f).cores = s.cores := rfl
@[simp] theorem updLaunch_clocks (id : Nat) (f : Launch → Launch) : (updLaunch s id f).clocks = s.clocks := rfl
@[simp] theorem updLaunch_tlb (id : Nat) (f : Launch → Launch) : (updLaunch s id f).tlb = s.tlb := rfl
@[simp] theorem updLaunch_fmTlb (id : Nat) (f : Launch → Launch) : (updLaunch s id f).fmTlb = s.fmTlb := rfl
@[simp] theorem updLaunch_l2 (id : Nat) (f : Launch → Launch) : (updLaunch s id f).l2 = s.l2 := rfl
@[simp] theorem updLaunch_walks (id : Nat) (f : Launch → Launch) : (updLaunch s id f).walks = s.walks := rfl
@[simp] theorem updLaunch_queues (id : Nat) (f : Launch → Launch) : (updLaunch s id f).queues = s.queues := rfl
@[simp] theorem updLaunch_bundles (id : Nat) (f : Launch → Launch) : (updLaunch s id f).bundles = s.bundles := rfl
@[simp] theorem updLaunch_blocks (id : Nat) (f : Launch → Launch) : (updLaunch s id f).blocks = s.blocks := rfl
@[simp] theorem updLaunch_gangs (id : Nat) (f : Launch → Launch) : (updLaunch s id f).gangs = s.gangs := rfl
@[simp] theorem updLaunch_seqs (id : Nat) (f : Launch → Launch) : (updLaunch s id f).seqs = s.seqs := rfl
@[simp] theorem updLaunch_engines (id : Nat) (f : Launch → Launch) : (updLaunch s id f).engines = s.engines := rfl
@[simp] theorem updLaunch_reds (id : Nat) (f : Launch → Launch) : (updLaunch s id f).reds = s.reds := rfl
@[simp] theorem updLaunch_flights (id : Nat) (f : Launch → Launch) : (updLaunch s id f).flights = s.flights := rfl
@[simp] theorem updLaunch_bids (id : Nat) (f : Launch → Launch) : (updLaunch s id f).bids = s.bids := rfl
@[simp] theorem updLaunch_peers (id : Nat) (f : Launch → Launch) : (updLaunch s id f).peers = s.peers := rfl
@[simp] theorem updLaunch_links (id : Nat) (f : Launch → Launch) : (updLaunch s id f).links = s.links := rfl
@[simp] theorem updLaunch_host (id : Nat) (f : Launch → Launch) : (updLaunch s id f).host = s.host := rfl
@[simp] theorem updLaunch_free (id : Nat) (f : Launch → Launch) : (updLaunch s id f).free = s.free := rfl
@[simp] theorem updLaunch_tape (id : Nat) (f : Launch → Launch) : (updLaunch s id f).tape = s.tape := rfl
@[simp] theorem updLaunch_matrix (id : Nat) (f : Launch → Launch) : (updLaunch s id f).matrix = s.matrix := rfl
@[simp] theorem updLaunch_sections (id : Nat) (f : Launch → Launch) : (updLaunch s id f).sections = s.sections := rfl
@[simp] theorem updLaunch_l1 (id : Nat) (f : Launch → Launch) : (updLaunch s id f).l1 = s.l1 := rfl
@[simp] theorem updLaunch_rdc (id : Nat) (f : Launch → Launch) : (updLaunch s id f).rdc = s.rdc := rfl
@[simp] theorem updLaunch_owners (id : Nat) (f : Launch → Launch) : (updLaunch s id f).owners = s.owners := rfl
@[simp] theorem updLaunch_pending (id : Nat) (f : Launch → Launch) : (updLaunch s id f).pending = s.pending := rfl
@[simp] theorem updLaunch_monitors (id : Nat) (f : Launch → Launch) : (updLaunch s id f).monitors = s.monitors := rfl
@[simp] theorem updLaunch_locks (id : Nat) (f : Launch → Launch) : (updLaunch s id f).locks = s.locks := rfl
@[simp] theorem updLaunch_lockMsgs (id : Nat) (f : Launch → Launch) : (updLaunch s id f).lockMsgs = s.lockMsgs := rfl
@[simp] theorem updLaunch_trapWait (id : Nat) (f : Launch → Launch) : (updLaunch s id f).trapWait = s.trapWait := rfl
@[simp] theorem updLaunch_causes (id : Nat) (f : Launch → Launch) : (updLaunch s id f).causes = s.causes := rfl
@[simp] theorem updLaunch_ended (id : Nat) (f : Launch → Launch) : (updLaunch s id f).ended = s.ended := rfl
@[simp] theorem updLaunch_past (id : Nat) (f : Launch → Launch) : (updLaunch s id f).past = s.past := rfl
@[simp] theorem updLaunch_departed (id : Nat) (f : Launch → Launch) : (updLaunch s id f).departed = s.departed := rfl
@[simp] theorem updLaunch_partners (id : Nat) (f : Launch → Launch) : (updLaunch s id f).partners = s.partners := rfl
@[simp] theorem updLaunch_vetting (id : Nat) (f : Launch → Launch) : (updLaunch s id f).vetting = s.vetting := rfl
@[simp] theorem updLaunch_recvSeq (id : Nat) (f : Launch → Launch) : (updLaunch s id f).recvSeq = s.recvSeq := rfl
@[simp] theorem updLaunch_reorder (id : Nat) (f : Launch → Launch) : (updLaunch s id f).reorder = s.reorder := rfl
@[simp] theorem updLaunch_atomParts (id : Nat) (f : Launch → Launch) : (updLaunch s id f).atomParts = s.atomParts := rfl
@[simp] theorem updLaunch_notifies (id : Nat) (f : Launch → Launch) : (updLaunch s id f).notifies = s.notifies := rfl
@[simp] theorem updLaunch_holders (id : Nat) (f : Launch → Launch) : (updLaunch s id f).holders = s.holders := rfl
@[simp] theorem updLaunch_covered (id : Nat) (f : Launch → Launch) : (updLaunch s id f).covered = s.covered := rfl
@[simp] theorem updLaunch_reporting (id : Nat) (f : Launch → Launch) : (updLaunch s id f).reporting = s.reporting := rfl
@[simp] theorem updLaunch_pastBlocks (id : Nat) (f : Launch → Launch) : (updLaunch s id f).pastBlocks = s.pastBlocks := rfl
@[simp] theorem updLaunch_faulted (id : Nat) (f : Launch → Launch) : (updLaunch s id f).faulted = s.faulted := rfl

@[simp] theorem updEngine_mem (id : Nat) (f : EngOp → EngOp) : (updEngine s id f).mem = s.mem := rfl
@[simp] theorem updEngine_g (id : Nat) (f : EngOp → EngOp) : (updEngine s id f).g = s.g := rfl
@[simp] theorem updEngine_others (id : Nat) (f : EngOp → EngOp) : (updEngine s id f).others = s.others := rfl
@[simp] theorem updEngine_windows (id : Nat) (f : EngOp → EngOp) : (updEngine s id f).windows = s.windows := rfl
@[simp] theorem updEngine_csr (id : Nat) (f : EngOp → EngOp) : (updEngine s id f).csr = s.csr := rfl
@[simp] theorem updEngine_kept (id : Nat) (f : EngOp → EngOp) : (updEngine s id f).kept = s.kept := rfl
@[simp] theorem updEngine_sent (id : Nat) (f : EngOp → EngOp) : (updEngine s id f).sent = s.sent := rfl
@[simp] theorem updEngine_sendSeq (id : Nat) (f : EngOp → EngOp) : (updEngine s id f).sendSeq = s.sendSeq := rfl
@[simp] theorem updEngine_outbox (id : Nat) (f : EngOp → EngOp) : (updEngine s id f).outbox = s.outbox := rfl
@[simp] theorem updEngine_cores (id : Nat) (f : EngOp → EngOp) : (updEngine s id f).cores = s.cores := rfl
@[simp] theorem updEngine_clocks (id : Nat) (f : EngOp → EngOp) : (updEngine s id f).clocks = s.clocks := rfl
@[simp] theorem updEngine_tlb (id : Nat) (f : EngOp → EngOp) : (updEngine s id f).tlb = s.tlb := rfl
@[simp] theorem updEngine_fmTlb (id : Nat) (f : EngOp → EngOp) : (updEngine s id f).fmTlb = s.fmTlb := rfl
@[simp] theorem updEngine_l2 (id : Nat) (f : EngOp → EngOp) : (updEngine s id f).l2 = s.l2 := rfl
@[simp] theorem updEngine_walks (id : Nat) (f : EngOp → EngOp) : (updEngine s id f).walks = s.walks := rfl
@[simp] theorem updEngine_queues (id : Nat) (f : EngOp → EngOp) : (updEngine s id f).queues = s.queues := rfl
@[simp] theorem updEngine_launches (id : Nat) (f : EngOp → EngOp) : (updEngine s id f).launches = s.launches := rfl
@[simp] theorem updEngine_bundles (id : Nat) (f : EngOp → EngOp) : (updEngine s id f).bundles = s.bundles := rfl
@[simp] theorem updEngine_blocks (id : Nat) (f : EngOp → EngOp) : (updEngine s id f).blocks = s.blocks := rfl
@[simp] theorem updEngine_gangs (id : Nat) (f : EngOp → EngOp) : (updEngine s id f).gangs = s.gangs := rfl
@[simp] theorem updEngine_seqs (id : Nat) (f : EngOp → EngOp) : (updEngine s id f).seqs = s.seqs := rfl
@[simp] theorem updEngine_reds (id : Nat) (f : EngOp → EngOp) : (updEngine s id f).reds = s.reds := rfl
@[simp] theorem updEngine_flights (id : Nat) (f : EngOp → EngOp) : (updEngine s id f).flights = s.flights := rfl
@[simp] theorem updEngine_bids (id : Nat) (f : EngOp → EngOp) : (updEngine s id f).bids = s.bids := rfl
@[simp] theorem updEngine_peers (id : Nat) (f : EngOp → EngOp) : (updEngine s id f).peers = s.peers := rfl
@[simp] theorem updEngine_links (id : Nat) (f : EngOp → EngOp) : (updEngine s id f).links = s.links := rfl
@[simp] theorem updEngine_host (id : Nat) (f : EngOp → EngOp) : (updEngine s id f).host = s.host := rfl
@[simp] theorem updEngine_free (id : Nat) (f : EngOp → EngOp) : (updEngine s id f).free = s.free := rfl
@[simp] theorem updEngine_tape (id : Nat) (f : EngOp → EngOp) : (updEngine s id f).tape = s.tape := rfl
@[simp] theorem updEngine_matrix (id : Nat) (f : EngOp → EngOp) : (updEngine s id f).matrix = s.matrix := rfl
@[simp] theorem updEngine_sections (id : Nat) (f : EngOp → EngOp) : (updEngine s id f).sections = s.sections := rfl
@[simp] theorem updEngine_l1 (id : Nat) (f : EngOp → EngOp) : (updEngine s id f).l1 = s.l1 := rfl
@[simp] theorem updEngine_rdc (id : Nat) (f : EngOp → EngOp) : (updEngine s id f).rdc = s.rdc := rfl
@[simp] theorem updEngine_owners (id : Nat) (f : EngOp → EngOp) : (updEngine s id f).owners = s.owners := rfl
@[simp] theorem updEngine_pending (id : Nat) (f : EngOp → EngOp) : (updEngine s id f).pending = s.pending := rfl
@[simp] theorem updEngine_monitors (id : Nat) (f : EngOp → EngOp) : (updEngine s id f).monitors = s.monitors := rfl
@[simp] theorem updEngine_locks (id : Nat) (f : EngOp → EngOp) : (updEngine s id f).locks = s.locks := rfl
@[simp] theorem updEngine_lockMsgs (id : Nat) (f : EngOp → EngOp) : (updEngine s id f).lockMsgs = s.lockMsgs := rfl
@[simp] theorem updEngine_trapWait (id : Nat) (f : EngOp → EngOp) : (updEngine s id f).trapWait = s.trapWait := rfl
@[simp] theorem updEngine_causes (id : Nat) (f : EngOp → EngOp) : (updEngine s id f).causes = s.causes := rfl
@[simp] theorem updEngine_ended (id : Nat) (f : EngOp → EngOp) : (updEngine s id f).ended = s.ended := rfl
@[simp] theorem updEngine_past (id : Nat) (f : EngOp → EngOp) : (updEngine s id f).past = s.past := rfl
@[simp] theorem updEngine_departed (id : Nat) (f : EngOp → EngOp) : (updEngine s id f).departed = s.departed := rfl
@[simp] theorem updEngine_partners (id : Nat) (f : EngOp → EngOp) : (updEngine s id f).partners = s.partners := rfl
@[simp] theorem updEngine_vetting (id : Nat) (f : EngOp → EngOp) : (updEngine s id f).vetting = s.vetting := rfl
@[simp] theorem updEngine_recvSeq (id : Nat) (f : EngOp → EngOp) : (updEngine s id f).recvSeq = s.recvSeq := rfl
@[simp] theorem updEngine_reorder (id : Nat) (f : EngOp → EngOp) : (updEngine s id f).reorder = s.reorder := rfl
@[simp] theorem updEngine_atomParts (id : Nat) (f : EngOp → EngOp) : (updEngine s id f).atomParts = s.atomParts := rfl
@[simp] theorem updEngine_notifies (id : Nat) (f : EngOp → EngOp) : (updEngine s id f).notifies = s.notifies := rfl
@[simp] theorem updEngine_holders (id : Nat) (f : EngOp → EngOp) : (updEngine s id f).holders = s.holders := rfl
@[simp] theorem updEngine_covered (id : Nat) (f : EngOp → EngOp) : (updEngine s id f).covered = s.covered := rfl
@[simp] theorem updEngine_reporting (id : Nat) (f : EngOp → EngOp) : (updEngine s id f).reporting = s.reporting := rfl
@[simp] theorem updEngine_pastBlocks (id : Nat) (f : EngOp → EngOp) : (updEngine s id f).pastBlocks = s.pastBlocks := rfl
@[simp] theorem updEngine_faulted (id : Nat) (f : EngOp → EngOp) : (updEngine s id f).faulted = s.faulted := rfl

@[simp] theorem setStopped_mem (core : Nat) (b : Bool) : (setStopped s core b).mem = s.mem := rfl
@[simp] theorem setStopped_g (core : Nat) (b : Bool) : (setStopped s core b).g = s.g := rfl
@[simp] theorem setStopped_others (core : Nat) (b : Bool) : (setStopped s core b).others = s.others := rfl
@[simp] theorem setStopped_windows (core : Nat) (b : Bool) : (setStopped s core b).windows = s.windows := rfl
@[simp] theorem setStopped_csr (core : Nat) (b : Bool) : (setStopped s core b).csr = s.csr := rfl
@[simp] theorem setStopped_kept (core : Nat) (b : Bool) : (setStopped s core b).kept = s.kept := rfl
@[simp] theorem setStopped_sent (core : Nat) (b : Bool) : (setStopped s core b).sent = s.sent := rfl
@[simp] theorem setStopped_sendSeq (core : Nat) (b : Bool) : (setStopped s core b).sendSeq = s.sendSeq := rfl
@[simp] theorem setStopped_outbox (core : Nat) (b : Bool) : (setStopped s core b).outbox = s.outbox := rfl
@[simp] theorem setStopped_clocks (core : Nat) (b : Bool) : (setStopped s core b).clocks = s.clocks := rfl
@[simp] theorem setStopped_tlb (core : Nat) (b : Bool) : (setStopped s core b).tlb = s.tlb := rfl
@[simp] theorem setStopped_fmTlb (core : Nat) (b : Bool) : (setStopped s core b).fmTlb = s.fmTlb := rfl
@[simp] theorem setStopped_l2 (core : Nat) (b : Bool) : (setStopped s core b).l2 = s.l2 := rfl
@[simp] theorem setStopped_walks (core : Nat) (b : Bool) : (setStopped s core b).walks = s.walks := rfl
@[simp] theorem setStopped_queues (core : Nat) (b : Bool) : (setStopped s core b).queues = s.queues := rfl
@[simp] theorem setStopped_launches (core : Nat) (b : Bool) : (setStopped s core b).launches = s.launches := rfl
@[simp] theorem setStopped_bundles (core : Nat) (b : Bool) : (setStopped s core b).bundles = s.bundles := rfl
@[simp] theorem setStopped_blocks (core : Nat) (b : Bool) : (setStopped s core b).blocks = s.blocks := rfl
@[simp] theorem setStopped_gangs (core : Nat) (b : Bool) : (setStopped s core b).gangs = s.gangs := rfl
@[simp] theorem setStopped_seqs (core : Nat) (b : Bool) : (setStopped s core b).seqs = s.seqs := rfl
@[simp] theorem setStopped_engines (core : Nat) (b : Bool) : (setStopped s core b).engines = s.engines := rfl
@[simp] theorem setStopped_reds (core : Nat) (b : Bool) : (setStopped s core b).reds = s.reds := rfl
@[simp] theorem setStopped_flights (core : Nat) (b : Bool) : (setStopped s core b).flights = s.flights := rfl
@[simp] theorem setStopped_bids (core : Nat) (b : Bool) : (setStopped s core b).bids = s.bids := rfl
@[simp] theorem setStopped_peers (core : Nat) (b : Bool) : (setStopped s core b).peers = s.peers := rfl
@[simp] theorem setStopped_links (core : Nat) (b : Bool) : (setStopped s core b).links = s.links := rfl
@[simp] theorem setStopped_host (core : Nat) (b : Bool) : (setStopped s core b).host = s.host := rfl
@[simp] theorem setStopped_free (core : Nat) (b : Bool) : (setStopped s core b).free = s.free := rfl
@[simp] theorem setStopped_tape (core : Nat) (b : Bool) : (setStopped s core b).tape = s.tape := rfl
@[simp] theorem setStopped_matrix (core : Nat) (b : Bool) : (setStopped s core b).matrix = s.matrix := rfl
@[simp] theorem setStopped_sections (core : Nat) (b : Bool) : (setStopped s core b).sections = s.sections := rfl
@[simp] theorem setStopped_l1 (core : Nat) (b : Bool) : (setStopped s core b).l1 = s.l1 := rfl
@[simp] theorem setStopped_rdc (core : Nat) (b : Bool) : (setStopped s core b).rdc = s.rdc := rfl
@[simp] theorem setStopped_owners (core : Nat) (b : Bool) : (setStopped s core b).owners = s.owners := rfl
@[simp] theorem setStopped_pending (core : Nat) (b : Bool) : (setStopped s core b).pending = s.pending := rfl
@[simp] theorem setStopped_monitors (core : Nat) (b : Bool) : (setStopped s core b).monitors = s.monitors := rfl
@[simp] theorem setStopped_locks (core : Nat) (b : Bool) : (setStopped s core b).locks = s.locks := rfl
@[simp] theorem setStopped_lockMsgs (core : Nat) (b : Bool) : (setStopped s core b).lockMsgs = s.lockMsgs := rfl
@[simp] theorem setStopped_trapWait (core : Nat) (b : Bool) : (setStopped s core b).trapWait = s.trapWait := rfl
@[simp] theorem setStopped_causes (core : Nat) (b : Bool) : (setStopped s core b).causes = s.causes := rfl
@[simp] theorem setStopped_ended (core : Nat) (b : Bool) : (setStopped s core b).ended = s.ended := rfl
@[simp] theorem setStopped_past (core : Nat) (b : Bool) : (setStopped s core b).past = s.past := rfl
@[simp] theorem setStopped_departed (core : Nat) (b : Bool) : (setStopped s core b).departed = s.departed := rfl
@[simp] theorem setStopped_partners (core : Nat) (b : Bool) : (setStopped s core b).partners = s.partners := rfl
@[simp] theorem setStopped_vetting (core : Nat) (b : Bool) : (setStopped s core b).vetting = s.vetting := rfl
@[simp] theorem setStopped_recvSeq (core : Nat) (b : Bool) : (setStopped s core b).recvSeq = s.recvSeq := rfl
@[simp] theorem setStopped_reorder (core : Nat) (b : Bool) : (setStopped s core b).reorder = s.reorder := rfl
@[simp] theorem setStopped_atomParts (core : Nat) (b : Bool) : (setStopped s core b).atomParts = s.atomParts := rfl
@[simp] theorem setStopped_notifies (core : Nat) (b : Bool) : (setStopped s core b).notifies = s.notifies := rfl
@[simp] theorem setStopped_holders (core : Nat) (b : Bool) : (setStopped s core b).holders = s.holders := rfl
@[simp] theorem setStopped_covered (core : Nat) (b : Bool) : (setStopped s core b).covered = s.covered := rfl
@[simp] theorem setStopped_reporting (core : Nat) (b : Bool) : (setStopped s core b).reporting = s.reporting := rfl
@[simp] theorem setStopped_pastBlocks (core : Nat) (b : Bool) : (setStopped s core b).pastBlocks = s.pastBlocks := rfl
@[simp] theorem setStopped_faulted (core : Nat) (b : Bool) : (setStopped s core b).faulted = s.faulted := rfl

@[simp] theorem setPeer_mem (pkg : Nat) (p : Peer) : (setPeer s pkg p).mem = s.mem := rfl
@[simp] theorem setPeer_g (pkg : Nat) (p : Peer) : (setPeer s pkg p).g = s.g := rfl
@[simp] theorem setPeer_others (pkg : Nat) (p : Peer) : (setPeer s pkg p).others = s.others := rfl
@[simp] theorem setPeer_windows (pkg : Nat) (p : Peer) : (setPeer s pkg p).windows = s.windows := rfl
@[simp] theorem setPeer_csr (pkg : Nat) (p : Peer) : (setPeer s pkg p).csr = s.csr := rfl
@[simp] theorem setPeer_kept (pkg : Nat) (p : Peer) : (setPeer s pkg p).kept = s.kept := rfl
@[simp] theorem setPeer_sent (pkg : Nat) (p : Peer) : (setPeer s pkg p).sent = s.sent := rfl
@[simp] theorem setPeer_sendSeq (pkg : Nat) (p : Peer) : (setPeer s pkg p).sendSeq = s.sendSeq := rfl
@[simp] theorem setPeer_outbox (pkg : Nat) (p : Peer) : (setPeer s pkg p).outbox = s.outbox := rfl
@[simp] theorem setPeer_cores (pkg : Nat) (p : Peer) : (setPeer s pkg p).cores = s.cores := rfl
@[simp] theorem setPeer_clocks (pkg : Nat) (p : Peer) : (setPeer s pkg p).clocks = s.clocks := rfl
@[simp] theorem setPeer_tlb (pkg : Nat) (p : Peer) : (setPeer s pkg p).tlb = s.tlb := rfl
@[simp] theorem setPeer_fmTlb (pkg : Nat) (p : Peer) : (setPeer s pkg p).fmTlb = s.fmTlb := rfl
@[simp] theorem setPeer_l2 (pkg : Nat) (p : Peer) : (setPeer s pkg p).l2 = s.l2 := rfl
@[simp] theorem setPeer_walks (pkg : Nat) (p : Peer) : (setPeer s pkg p).walks = s.walks := rfl
@[simp] theorem setPeer_queues (pkg : Nat) (p : Peer) : (setPeer s pkg p).queues = s.queues := rfl
@[simp] theorem setPeer_launches (pkg : Nat) (p : Peer) : (setPeer s pkg p).launches = s.launches := rfl
@[simp] theorem setPeer_bundles (pkg : Nat) (p : Peer) : (setPeer s pkg p).bundles = s.bundles := rfl
@[simp] theorem setPeer_blocks (pkg : Nat) (p : Peer) : (setPeer s pkg p).blocks = s.blocks := rfl
@[simp] theorem setPeer_gangs (pkg : Nat) (p : Peer) : (setPeer s pkg p).gangs = s.gangs := rfl
@[simp] theorem setPeer_seqs (pkg : Nat) (p : Peer) : (setPeer s pkg p).seqs = s.seqs := rfl
@[simp] theorem setPeer_engines (pkg : Nat) (p : Peer) : (setPeer s pkg p).engines = s.engines := rfl
@[simp] theorem setPeer_reds (pkg : Nat) (p : Peer) : (setPeer s pkg p).reds = s.reds := rfl
@[simp] theorem setPeer_flights (pkg : Nat) (p : Peer) : (setPeer s pkg p).flights = s.flights := rfl
@[simp] theorem setPeer_bids (pkg : Nat) (p : Peer) : (setPeer s pkg p).bids = s.bids := rfl
@[simp] theorem setPeer_links (pkg : Nat) (p : Peer) : (setPeer s pkg p).links = s.links := rfl
@[simp] theorem setPeer_host (pkg : Nat) (p : Peer) : (setPeer s pkg p).host = s.host := rfl
@[simp] theorem setPeer_free (pkg : Nat) (p : Peer) : (setPeer s pkg p).free = s.free := rfl
@[simp] theorem setPeer_tape (pkg : Nat) (p : Peer) : (setPeer s pkg p).tape = s.tape := rfl
@[simp] theorem setPeer_matrix (pkg : Nat) (p : Peer) : (setPeer s pkg p).matrix = s.matrix := rfl
@[simp] theorem setPeer_sections (pkg : Nat) (p : Peer) : (setPeer s pkg p).sections = s.sections := rfl
@[simp] theorem setPeer_l1 (pkg : Nat) (p : Peer) : (setPeer s pkg p).l1 = s.l1 := rfl
@[simp] theorem setPeer_rdc (pkg : Nat) (p : Peer) : (setPeer s pkg p).rdc = s.rdc := rfl
@[simp] theorem setPeer_owners (pkg : Nat) (p : Peer) : (setPeer s pkg p).owners = s.owners := rfl
@[simp] theorem setPeer_pending (pkg : Nat) (p : Peer) : (setPeer s pkg p).pending = s.pending := rfl
@[simp] theorem setPeer_monitors (pkg : Nat) (p : Peer) : (setPeer s pkg p).monitors = s.monitors := rfl
@[simp] theorem setPeer_locks (pkg : Nat) (p : Peer) : (setPeer s pkg p).locks = s.locks := rfl
@[simp] theorem setPeer_lockMsgs (pkg : Nat) (p : Peer) : (setPeer s pkg p).lockMsgs = s.lockMsgs := rfl
@[simp] theorem setPeer_trapWait (pkg : Nat) (p : Peer) : (setPeer s pkg p).trapWait = s.trapWait := rfl
@[simp] theorem setPeer_causes (pkg : Nat) (p : Peer) : (setPeer s pkg p).causes = s.causes := rfl
@[simp] theorem setPeer_ended (pkg : Nat) (p : Peer) : (setPeer s pkg p).ended = s.ended := rfl
@[simp] theorem setPeer_past (pkg : Nat) (p : Peer) : (setPeer s pkg p).past = s.past := rfl
@[simp] theorem setPeer_departed (pkg : Nat) (p : Peer) : (setPeer s pkg p).departed = s.departed := rfl
@[simp] theorem setPeer_partners (pkg : Nat) (p : Peer) : (setPeer s pkg p).partners = s.partners := rfl
@[simp] theorem setPeer_vetting (pkg : Nat) (p : Peer) : (setPeer s pkg p).vetting = s.vetting := rfl
@[simp] theorem setPeer_recvSeq (pkg : Nat) (p : Peer) : (setPeer s pkg p).recvSeq = s.recvSeq := rfl
@[simp] theorem setPeer_reorder (pkg : Nat) (p : Peer) : (setPeer s pkg p).reorder = s.reorder := rfl
@[simp] theorem setPeer_atomParts (pkg : Nat) (p : Peer) : (setPeer s pkg p).atomParts = s.atomParts := rfl
@[simp] theorem setPeer_notifies (pkg : Nat) (p : Peer) : (setPeer s pkg p).notifies = s.notifies := rfl
@[simp] theorem setPeer_holders (pkg : Nat) (p : Peer) : (setPeer s pkg p).holders = s.holders := rfl
@[simp] theorem setPeer_covered (pkg : Nat) (p : Peer) : (setPeer s pkg p).covered = s.covered := rfl
@[simp] theorem setPeer_reporting (pkg : Nat) (p : Peer) : (setPeer s pkg p).reporting = s.reporting := rfl
@[simp] theorem setPeer_pastBlocks (pkg : Nat) (p : Peer) : (setPeer s pkg p).pastBlocks = s.pastBlocks := rfl
@[simp] theorem setPeer_faulted (pkg : Nat) (p : Peer) : (setPeer s pkg p).faulted = s.faulted := rfl

@[simp] theorem putLink_mem (l : Nat) (x : Link) : (putLink s l x).mem = s.mem := rfl
@[simp] theorem putLink_g (l : Nat) (x : Link) : (putLink s l x).g = s.g := rfl
@[simp] theorem putLink_others (l : Nat) (x : Link) : (putLink s l x).others = s.others := rfl
@[simp] theorem putLink_windows (l : Nat) (x : Link) : (putLink s l x).windows = s.windows := rfl
@[simp] theorem putLink_csr (l : Nat) (x : Link) : (putLink s l x).csr = s.csr := rfl
@[simp] theorem putLink_kept (l : Nat) (x : Link) : (putLink s l x).kept = s.kept := rfl
@[simp] theorem putLink_sent (l : Nat) (x : Link) : (putLink s l x).sent = s.sent := rfl
@[simp] theorem putLink_sendSeq (l : Nat) (x : Link) : (putLink s l x).sendSeq = s.sendSeq := rfl
@[simp] theorem putLink_outbox (l : Nat) (x : Link) : (putLink s l x).outbox = s.outbox := rfl
@[simp] theorem putLink_cores (l : Nat) (x : Link) : (putLink s l x).cores = s.cores := rfl
@[simp] theorem putLink_clocks (l : Nat) (x : Link) : (putLink s l x).clocks = s.clocks := rfl
@[simp] theorem putLink_tlb (l : Nat) (x : Link) : (putLink s l x).tlb = s.tlb := rfl
@[simp] theorem putLink_fmTlb (l : Nat) (x : Link) : (putLink s l x).fmTlb = s.fmTlb := rfl
@[simp] theorem putLink_l2 (l : Nat) (x : Link) : (putLink s l x).l2 = s.l2 := rfl
@[simp] theorem putLink_walks (l : Nat) (x : Link) : (putLink s l x).walks = s.walks := rfl
@[simp] theorem putLink_queues (l : Nat) (x : Link) : (putLink s l x).queues = s.queues := rfl
@[simp] theorem putLink_launches (l : Nat) (x : Link) : (putLink s l x).launches = s.launches := rfl
@[simp] theorem putLink_bundles (l : Nat) (x : Link) : (putLink s l x).bundles = s.bundles := rfl
@[simp] theorem putLink_blocks (l : Nat) (x : Link) : (putLink s l x).blocks = s.blocks := rfl
@[simp] theorem putLink_gangs (l : Nat) (x : Link) : (putLink s l x).gangs = s.gangs := rfl
@[simp] theorem putLink_seqs (l : Nat) (x : Link) : (putLink s l x).seqs = s.seqs := rfl
@[simp] theorem putLink_engines (l : Nat) (x : Link) : (putLink s l x).engines = s.engines := rfl
@[simp] theorem putLink_reds (l : Nat) (x : Link) : (putLink s l x).reds = s.reds := rfl
@[simp] theorem putLink_flights (l : Nat) (x : Link) : (putLink s l x).flights = s.flights := rfl
@[simp] theorem putLink_bids (l : Nat) (x : Link) : (putLink s l x).bids = s.bids := rfl
@[simp] theorem putLink_peers (l : Nat) (x : Link) : (putLink s l x).peers = s.peers := rfl
@[simp] theorem putLink_host (l : Nat) (x : Link) : (putLink s l x).host = s.host := rfl
@[simp] theorem putLink_free (l : Nat) (x : Link) : (putLink s l x).free = s.free := rfl
@[simp] theorem putLink_tape (l : Nat) (x : Link) : (putLink s l x).tape = s.tape := rfl
@[simp] theorem putLink_matrix (l : Nat) (x : Link) : (putLink s l x).matrix = s.matrix := rfl
@[simp] theorem putLink_sections (l : Nat) (x : Link) : (putLink s l x).sections = s.sections := rfl
@[simp] theorem putLink_l1 (l : Nat) (x : Link) : (putLink s l x).l1 = s.l1 := rfl
@[simp] theorem putLink_rdc (l : Nat) (x : Link) : (putLink s l x).rdc = s.rdc := rfl
@[simp] theorem putLink_owners (l : Nat) (x : Link) : (putLink s l x).owners = s.owners := rfl
@[simp] theorem putLink_pending (l : Nat) (x : Link) : (putLink s l x).pending = s.pending := rfl
@[simp] theorem putLink_monitors (l : Nat) (x : Link) : (putLink s l x).monitors = s.monitors := rfl
@[simp] theorem putLink_locks (l : Nat) (x : Link) : (putLink s l x).locks = s.locks := rfl
@[simp] theorem putLink_lockMsgs (l : Nat) (x : Link) : (putLink s l x).lockMsgs = s.lockMsgs := rfl
@[simp] theorem putLink_trapWait (l : Nat) (x : Link) : (putLink s l x).trapWait = s.trapWait := rfl
@[simp] theorem putLink_causes (l : Nat) (x : Link) : (putLink s l x).causes = s.causes := rfl
@[simp] theorem putLink_ended (l : Nat) (x : Link) : (putLink s l x).ended = s.ended := rfl
@[simp] theorem putLink_past (l : Nat) (x : Link) : (putLink s l x).past = s.past := rfl
@[simp] theorem putLink_departed (l : Nat) (x : Link) : (putLink s l x).departed = s.departed := rfl
@[simp] theorem putLink_partners (l : Nat) (x : Link) : (putLink s l x).partners = s.partners := rfl
@[simp] theorem putLink_vetting (l : Nat) (x : Link) : (putLink s l x).vetting = s.vetting := rfl
@[simp] theorem putLink_recvSeq (l : Nat) (x : Link) : (putLink s l x).recvSeq = s.recvSeq := rfl
@[simp] theorem putLink_reorder (l : Nat) (x : Link) : (putLink s l x).reorder = s.reorder := rfl
@[simp] theorem putLink_atomParts (l : Nat) (x : Link) : (putLink s l x).atomParts = s.atomParts := rfl
@[simp] theorem putLink_notifies (l : Nat) (x : Link) : (putLink s l x).notifies = s.notifies := rfl
@[simp] theorem putLink_holders (l : Nat) (x : Link) : (putLink s l x).holders = s.holders := rfl
@[simp] theorem putLink_covered (l : Nat) (x : Link) : (putLink s l x).covered = s.covered := rfl
@[simp] theorem putLink_reporting (l : Nat) (x : Link) : (putLink s l x).reporting = s.reporting := rfl
@[simp] theorem putLink_pastBlocks (l : Nat) (x : Link) : (putLink s l x).pastBlocks = s.pastBlocks := rfl
@[simp] theorem putLink_faulted (l : Nat) (x : Link) : (putLink s l x).faulted = s.faulted := rfl

@[simp] theorem depart_mem (p : Packet) : (depart s p).mem = s.mem := by unfold depart; split <;> rfl
@[simp] theorem depart_g (p : Packet) : (depart s p).g = s.g := by unfold depart; split <;> rfl
@[simp] theorem depart_others (p : Packet) : (depart s p).others = s.others := by unfold depart; split <;> rfl
@[simp] theorem depart_windows (p : Packet) : (depart s p).windows = s.windows := by unfold depart; split <;> rfl
@[simp] theorem depart_csr (p : Packet) : (depart s p).csr = s.csr := by unfold depart; split <;> rfl
@[simp] theorem depart_kept (p : Packet) : (depart s p).kept = s.kept := by unfold depart; split <;> rfl
@[simp] theorem depart_sendSeq (p : Packet) : (depart s p).sendSeq = s.sendSeq := by unfold depart; split <;> rfl
@[simp] theorem depart_cores (p : Packet) : (depart s p).cores = s.cores := by unfold depart; split <;> rfl
@[simp] theorem depart_clocks (p : Packet) : (depart s p).clocks = s.clocks := by unfold depart; split <;> rfl
@[simp] theorem depart_tlb (p : Packet) : (depart s p).tlb = s.tlb := by unfold depart; split <;> rfl
@[simp] theorem depart_fmTlb (p : Packet) : (depart s p).fmTlb = s.fmTlb := by unfold depart; split <;> rfl
@[simp] theorem depart_l2 (p : Packet) : (depart s p).l2 = s.l2 := by unfold depart; split <;> rfl
@[simp] theorem depart_walks (p : Packet) : (depart s p).walks = s.walks := by unfold depart; split <;> rfl
@[simp] theorem depart_queues (p : Packet) : (depart s p).queues = s.queues := by unfold depart; split <;> rfl
@[simp] theorem depart_launches (p : Packet) : (depart s p).launches = s.launches := by unfold depart; split <;> rfl
@[simp] theorem depart_bundles (p : Packet) : (depart s p).bundles = s.bundles := by unfold depart; split <;> rfl
@[simp] theorem depart_blocks (p : Packet) : (depart s p).blocks = s.blocks := by unfold depart; split <;> rfl
@[simp] theorem depart_gangs (p : Packet) : (depart s p).gangs = s.gangs := by unfold depart; split <;> rfl
@[simp] theorem depart_seqs (p : Packet) : (depart s p).seqs = s.seqs := by unfold depart; split <;> rfl
@[simp] theorem depart_engines (p : Packet) : (depart s p).engines = s.engines := by unfold depart; split <;> rfl
@[simp] theorem depart_reds (p : Packet) : (depart s p).reds = s.reds := by unfold depart; split <;> rfl
@[simp] theorem depart_flights (p : Packet) : (depart s p).flights = s.flights := by unfold depart; split <;> rfl
@[simp] theorem depart_bids (p : Packet) : (depart s p).bids = s.bids := by unfold depart; split <;> rfl
@[simp] theorem depart_peers (p : Packet) : (depart s p).peers = s.peers := by unfold depart; split <;> rfl
@[simp] theorem depart_links (p : Packet) : (depart s p).links = s.links := by unfold depart; split <;> rfl
@[simp] theorem depart_host (p : Packet) : (depart s p).host = s.host := by unfold depart; split <;> rfl
@[simp] theorem depart_free (p : Packet) : (depart s p).free = s.free := by unfold depart; split <;> rfl
@[simp] theorem depart_tape (p : Packet) : (depart s p).tape = s.tape := by unfold depart; split <;> rfl
@[simp] theorem depart_matrix (p : Packet) : (depart s p).matrix = s.matrix := by unfold depart; split <;> rfl
@[simp] theorem depart_sections (p : Packet) : (depart s p).sections = s.sections := by unfold depart; split <;> rfl
@[simp] theorem depart_l1 (p : Packet) : (depart s p).l1 = s.l1 := by unfold depart; split <;> rfl
@[simp] theorem depart_rdc (p : Packet) : (depart s p).rdc = s.rdc := by unfold depart; split <;> rfl
@[simp] theorem depart_owners (p : Packet) : (depart s p).owners = s.owners := by unfold depart; split <;> rfl
@[simp] theorem depart_pending (p : Packet) : (depart s p).pending = s.pending := by unfold depart; split <;> rfl
@[simp] theorem depart_monitors (p : Packet) : (depart s p).monitors = s.monitors := by unfold depart; split <;> rfl
@[simp] theorem depart_locks (p : Packet) : (depart s p).locks = s.locks := by unfold depart; split <;> rfl
@[simp] theorem depart_lockMsgs (p : Packet) : (depart s p).lockMsgs = s.lockMsgs := by unfold depart; split <;> rfl
@[simp] theorem depart_trapWait (p : Packet) : (depart s p).trapWait = s.trapWait := by unfold depart; split <;> rfl
@[simp] theorem depart_causes (p : Packet) : (depart s p).causes = s.causes := by unfold depart; split <;> rfl
@[simp] theorem depart_ended (p : Packet) : (depart s p).ended = s.ended := by unfold depart; split <;> rfl
@[simp] theorem depart_past (p : Packet) : (depart s p).past = s.past := by unfold depart; split <;> rfl
@[simp] theorem depart_departed (p : Packet) : (depart s p).departed = s.departed := by unfold depart; split <;> rfl
@[simp] theorem depart_partners (p : Packet) : (depart s p).partners = s.partners := by unfold depart; split <;> rfl
@[simp] theorem depart_vetting (p : Packet) : (depart s p).vetting = s.vetting := by unfold depart; split <;> rfl
@[simp] theorem depart_recvSeq (p : Packet) : (depart s p).recvSeq = s.recvSeq := by unfold depart; split <;> rfl
@[simp] theorem depart_reorder (p : Packet) : (depart s p).reorder = s.reorder := by unfold depart; split <;> rfl
@[simp] theorem depart_atomParts (p : Packet) : (depart s p).atomParts = s.atomParts := by unfold depart; split <;> rfl
@[simp] theorem depart_notifies (p : Packet) : (depart s p).notifies = s.notifies := by unfold depart; split <;> rfl
@[simp] theorem depart_holders (p : Packet) : (depart s p).holders = s.holders := by unfold depart; split <;> rfl
@[simp] theorem depart_covered (p : Packet) : (depart s p).covered = s.covered := by unfold depart; split <;> rfl
@[simp] theorem depart_reporting (p : Packet) : (depart s p).reporting = s.reporting := by unfold depart; split <;> rfl
@[simp] theorem depart_pastBlocks (p : Packet) : (depart s p).pastBlocks = s.pastBlocks := by unfold depart; split <;> rfl
@[simp] theorem depart_faulted (p : Packet) : (depart s p).faulted = s.faulted := by unfold depart; split <;> rfl

@[simp] theorem sendOn_mem (p : Packet) (plane : Nat) (k : Kept) : (sendOn s p plane k).mem = s.mem := depart_mem s _
@[simp] theorem sendOn_g (p : Packet) (plane : Nat) (k : Kept) : (sendOn s p plane k).g = s.g := depart_g s _
@[simp] theorem sendOn_others (p : Packet) (plane : Nat) (k : Kept) : (sendOn s p plane k).others = s.others := depart_others s _
@[simp] theorem sendOn_windows (p : Packet) (plane : Nat) (k : Kept) : (sendOn s p plane k).windows = s.windows := depart_windows s _
@[simp] theorem sendOn_csr (p : Packet) (plane : Nat) (k : Kept) : (sendOn s p plane k).csr = s.csr := depart_csr s _
@[simp] theorem sendOn_cores (p : Packet) (plane : Nat) (k : Kept) : (sendOn s p plane k).cores = s.cores := depart_cores s _
@[simp] theorem sendOn_clocks (p : Packet) (plane : Nat) (k : Kept) : (sendOn s p plane k).clocks = s.clocks := depart_clocks s _
@[simp] theorem sendOn_tlb (p : Packet) (plane : Nat) (k : Kept) : (sendOn s p plane k).tlb = s.tlb := depart_tlb s _
@[simp] theorem sendOn_fmTlb (p : Packet) (plane : Nat) (k : Kept) : (sendOn s p plane k).fmTlb = s.fmTlb := depart_fmTlb s _
@[simp] theorem sendOn_l2 (p : Packet) (plane : Nat) (k : Kept) : (sendOn s p plane k).l2 = s.l2 := depart_l2 s _
@[simp] theorem sendOn_walks (p : Packet) (plane : Nat) (k : Kept) : (sendOn s p plane k).walks = s.walks := depart_walks s _
@[simp] theorem sendOn_queues (p : Packet) (plane : Nat) (k : Kept) : (sendOn s p plane k).queues = s.queues := depart_queues s _
@[simp] theorem sendOn_launches (p : Packet) (plane : Nat) (k : Kept) : (sendOn s p plane k).launches = s.launches := depart_launches s _
@[simp] theorem sendOn_bundles (p : Packet) (plane : Nat) (k : Kept) : (sendOn s p plane k).bundles = s.bundles := depart_bundles s _
@[simp] theorem sendOn_blocks (p : Packet) (plane : Nat) (k : Kept) : (sendOn s p plane k).blocks = s.blocks := depart_blocks s _
@[simp] theorem sendOn_gangs (p : Packet) (plane : Nat) (k : Kept) : (sendOn s p plane k).gangs = s.gangs := depart_gangs s _
@[simp] theorem sendOn_seqs (p : Packet) (plane : Nat) (k : Kept) : (sendOn s p plane k).seqs = s.seqs := depart_seqs s _
@[simp] theorem sendOn_engines (p : Packet) (plane : Nat) (k : Kept) : (sendOn s p plane k).engines = s.engines := depart_engines s _
@[simp] theorem sendOn_reds (p : Packet) (plane : Nat) (k : Kept) : (sendOn s p plane k).reds = s.reds := depart_reds s _
@[simp] theorem sendOn_flights (p : Packet) (plane : Nat) (k : Kept) : (sendOn s p plane k).flights = s.flights := depart_flights s _
@[simp] theorem sendOn_bids (p : Packet) (plane : Nat) (k : Kept) : (sendOn s p plane k).bids = s.bids := depart_bids s _
@[simp] theorem sendOn_peers (p : Packet) (plane : Nat) (k : Kept) : (sendOn s p plane k).peers = s.peers := depart_peers s _
@[simp] theorem sendOn_links (p : Packet) (plane : Nat) (k : Kept) : (sendOn s p plane k).links = s.links := depart_links s _
@[simp] theorem sendOn_host (p : Packet) (plane : Nat) (k : Kept) : (sendOn s p plane k).host = s.host := depart_host s _
@[simp] theorem sendOn_free (p : Packet) (plane : Nat) (k : Kept) : (sendOn s p plane k).free = s.free := depart_free s _
@[simp] theorem sendOn_tape (p : Packet) (plane : Nat) (k : Kept) : (sendOn s p plane k).tape = s.tape := depart_tape s _
@[simp] theorem sendOn_matrix (p : Packet) (plane : Nat) (k : Kept) : (sendOn s p plane k).matrix = s.matrix := depart_matrix s _
@[simp] theorem sendOn_sections (p : Packet) (plane : Nat) (k : Kept) : (sendOn s p plane k).sections = s.sections := depart_sections s _
@[simp] theorem sendOn_l1 (p : Packet) (plane : Nat) (k : Kept) : (sendOn s p plane k).l1 = s.l1 := depart_l1 s _
@[simp] theorem sendOn_rdc (p : Packet) (plane : Nat) (k : Kept) : (sendOn s p plane k).rdc = s.rdc := depart_rdc s _
@[simp] theorem sendOn_owners (p : Packet) (plane : Nat) (k : Kept) : (sendOn s p plane k).owners = s.owners := depart_owners s _
@[simp] theorem sendOn_pending (p : Packet) (plane : Nat) (k : Kept) : (sendOn s p plane k).pending = s.pending := depart_pending s _
@[simp] theorem sendOn_monitors (p : Packet) (plane : Nat) (k : Kept) : (sendOn s p plane k).monitors = s.monitors := depart_monitors s _
@[simp] theorem sendOn_locks (p : Packet) (plane : Nat) (k : Kept) : (sendOn s p plane k).locks = s.locks := depart_locks s _
@[simp] theorem sendOn_lockMsgs (p : Packet) (plane : Nat) (k : Kept) : (sendOn s p plane k).lockMsgs = s.lockMsgs := depart_lockMsgs s _
@[simp] theorem sendOn_trapWait (p : Packet) (plane : Nat) (k : Kept) : (sendOn s p plane k).trapWait = s.trapWait := depart_trapWait s _
@[simp] theorem sendOn_causes (p : Packet) (plane : Nat) (k : Kept) : (sendOn s p plane k).causes = s.causes := depart_causes s _
@[simp] theorem sendOn_ended (p : Packet) (plane : Nat) (k : Kept) : (sendOn s p plane k).ended = s.ended := depart_ended s _
@[simp] theorem sendOn_past (p : Packet) (plane : Nat) (k : Kept) : (sendOn s p plane k).past = s.past := depart_past s _
@[simp] theorem sendOn_departed (p : Packet) (plane : Nat) (k : Kept) : (sendOn s p plane k).departed = s.departed := depart_departed s _
@[simp] theorem sendOn_partners (p : Packet) (plane : Nat) (k : Kept) : (sendOn s p plane k).partners = s.partners := depart_partners s _
@[simp] theorem sendOn_vetting (p : Packet) (plane : Nat) (k : Kept) : (sendOn s p plane k).vetting = s.vetting := depart_vetting s _
@[simp] theorem sendOn_recvSeq (p : Packet) (plane : Nat) (k : Kept) : (sendOn s p plane k).recvSeq = s.recvSeq := depart_recvSeq s _
@[simp] theorem sendOn_reorder (p : Packet) (plane : Nat) (k : Kept) : (sendOn s p plane k).reorder = s.reorder := depart_reorder s _
@[simp] theorem sendOn_atomParts (p : Packet) (plane : Nat) (k : Kept) : (sendOn s p plane k).atomParts = s.atomParts := depart_atomParts s _
@[simp] theorem sendOn_notifies (p : Packet) (plane : Nat) (k : Kept) : (sendOn s p plane k).notifies = s.notifies := depart_notifies s _
@[simp] theorem sendOn_holders (p : Packet) (plane : Nat) (k : Kept) : (sendOn s p plane k).holders = s.holders := depart_holders s _
@[simp] theorem sendOn_covered (p : Packet) (plane : Nat) (k : Kept) : (sendOn s p plane k).covered = s.covered := depart_covered s _
@[simp] theorem sendOn_reporting (p : Packet) (plane : Nat) (k : Kept) : (sendOn s p plane k).reporting = s.reporting := depart_reporting s _
@[simp] theorem sendOn_pastBlocks (p : Packet) (plane : Nat) (k : Kept) : (sendOn s p plane k).pastBlocks = s.pastBlocks := depart_pastBlocks s _
@[simp] theorem sendOn_faulted (p : Packet) (plane : Nat) (k : Kept) : (sendOn s p plane k).faulted = s.faulted := depart_faulted s _

@[simp] theorem sendLine_mem (p : Packet) (core tid va : Nat) (flag : Bool) : (sendLine s p core tid va flag).mem = s.mem := sendOn_mem s _ _ _
@[simp] theorem sendLine_g (p : Packet) (core tid va : Nat) (flag : Bool) : (sendLine s p core tid va flag).g = s.g := sendOn_g s _ _ _
@[simp] theorem sendLine_others (p : Packet) (core tid va : Nat) (flag : Bool) : (sendLine s p core tid va flag).others = s.others := sendOn_others s _ _ _
@[simp] theorem sendLine_windows (p : Packet) (core tid va : Nat) (flag : Bool) : (sendLine s p core tid va flag).windows = s.windows := sendOn_windows s _ _ _
@[simp] theorem sendLine_csr (p : Packet) (core tid va : Nat) (flag : Bool) : (sendLine s p core tid va flag).csr = s.csr := sendOn_csr s _ _ _
@[simp] theorem sendLine_cores (p : Packet) (core tid va : Nat) (flag : Bool) : (sendLine s p core tid va flag).cores = s.cores := sendOn_cores s _ _ _
@[simp] theorem sendLine_clocks (p : Packet) (core tid va : Nat) (flag : Bool) : (sendLine s p core tid va flag).clocks = s.clocks := sendOn_clocks s _ _ _
@[simp] theorem sendLine_tlb (p : Packet) (core tid va : Nat) (flag : Bool) : (sendLine s p core tid va flag).tlb = s.tlb := sendOn_tlb s _ _ _
@[simp] theorem sendLine_fmTlb (p : Packet) (core tid va : Nat) (flag : Bool) : (sendLine s p core tid va flag).fmTlb = s.fmTlb := sendOn_fmTlb s _ _ _
@[simp] theorem sendLine_l2 (p : Packet) (core tid va : Nat) (flag : Bool) : (sendLine s p core tid va flag).l2 = s.l2 := sendOn_l2 s _ _ _
@[simp] theorem sendLine_walks (p : Packet) (core tid va : Nat) (flag : Bool) : (sendLine s p core tid va flag).walks = s.walks := sendOn_walks s _ _ _
@[simp] theorem sendLine_queues (p : Packet) (core tid va : Nat) (flag : Bool) : (sendLine s p core tid va flag).queues = s.queues := sendOn_queues s _ _ _
@[simp] theorem sendLine_launches (p : Packet) (core tid va : Nat) (flag : Bool) : (sendLine s p core tid va flag).launches = s.launches := sendOn_launches s _ _ _
@[simp] theorem sendLine_bundles (p : Packet) (core tid va : Nat) (flag : Bool) : (sendLine s p core tid va flag).bundles = s.bundles := sendOn_bundles s _ _ _
@[simp] theorem sendLine_blocks (p : Packet) (core tid va : Nat) (flag : Bool) : (sendLine s p core tid va flag).blocks = s.blocks := sendOn_blocks s _ _ _
@[simp] theorem sendLine_gangs (p : Packet) (core tid va : Nat) (flag : Bool) : (sendLine s p core tid va flag).gangs = s.gangs := sendOn_gangs s _ _ _
@[simp] theorem sendLine_seqs (p : Packet) (core tid va : Nat) (flag : Bool) : (sendLine s p core tid va flag).seqs = s.seqs := sendOn_seqs s _ _ _
@[simp] theorem sendLine_engines (p : Packet) (core tid va : Nat) (flag : Bool) : (sendLine s p core tid va flag).engines = s.engines := sendOn_engines s _ _ _
@[simp] theorem sendLine_reds (p : Packet) (core tid va : Nat) (flag : Bool) : (sendLine s p core tid va flag).reds = s.reds := sendOn_reds s _ _ _
@[simp] theorem sendLine_flights (p : Packet) (core tid va : Nat) (flag : Bool) : (sendLine s p core tid va flag).flights = s.flights := sendOn_flights s _ _ _
@[simp] theorem sendLine_bids (p : Packet) (core tid va : Nat) (flag : Bool) : (sendLine s p core tid va flag).bids = s.bids := sendOn_bids s _ _ _
@[simp] theorem sendLine_peers (p : Packet) (core tid va : Nat) (flag : Bool) : (sendLine s p core tid va flag).peers = s.peers := sendOn_peers s _ _ _
@[simp] theorem sendLine_links (p : Packet) (core tid va : Nat) (flag : Bool) : (sendLine s p core tid va flag).links = s.links := sendOn_links s _ _ _
@[simp] theorem sendLine_host (p : Packet) (core tid va : Nat) (flag : Bool) : (sendLine s p core tid va flag).host = s.host := sendOn_host s _ _ _
@[simp] theorem sendLine_free (p : Packet) (core tid va : Nat) (flag : Bool) : (sendLine s p core tid va flag).free = s.free := sendOn_free s _ _ _
@[simp] theorem sendLine_tape (p : Packet) (core tid va : Nat) (flag : Bool) : (sendLine s p core tid va flag).tape = s.tape := sendOn_tape s _ _ _
@[simp] theorem sendLine_matrix (p : Packet) (core tid va : Nat) (flag : Bool) : (sendLine s p core tid va flag).matrix = s.matrix := sendOn_matrix s _ _ _
@[simp] theorem sendLine_sections (p : Packet) (core tid va : Nat) (flag : Bool) : (sendLine s p core tid va flag).sections = s.sections := sendOn_sections s _ _ _
@[simp] theorem sendLine_l1 (p : Packet) (core tid va : Nat) (flag : Bool) : (sendLine s p core tid va flag).l1 = s.l1 := sendOn_l1 s _ _ _
@[simp] theorem sendLine_rdc (p : Packet) (core tid va : Nat) (flag : Bool) : (sendLine s p core tid va flag).rdc = s.rdc := sendOn_rdc s _ _ _
@[simp] theorem sendLine_owners (p : Packet) (core tid va : Nat) (flag : Bool) : (sendLine s p core tid va flag).owners = s.owners := sendOn_owners s _ _ _
@[simp] theorem sendLine_pending (p : Packet) (core tid va : Nat) (flag : Bool) : (sendLine s p core tid va flag).pending = s.pending := sendOn_pending s _ _ _
@[simp] theorem sendLine_monitors (p : Packet) (core tid va : Nat) (flag : Bool) : (sendLine s p core tid va flag).monitors = s.monitors := sendOn_monitors s _ _ _
@[simp] theorem sendLine_locks (p : Packet) (core tid va : Nat) (flag : Bool) : (sendLine s p core tid va flag).locks = s.locks := sendOn_locks s _ _ _
@[simp] theorem sendLine_lockMsgs (p : Packet) (core tid va : Nat) (flag : Bool) : (sendLine s p core tid va flag).lockMsgs = s.lockMsgs := sendOn_lockMsgs s _ _ _
@[simp] theorem sendLine_trapWait (p : Packet) (core tid va : Nat) (flag : Bool) : (sendLine s p core tid va flag).trapWait = s.trapWait := sendOn_trapWait s _ _ _
@[simp] theorem sendLine_causes (p : Packet) (core tid va : Nat) (flag : Bool) : (sendLine s p core tid va flag).causes = s.causes := sendOn_causes s _ _ _
@[simp] theorem sendLine_ended (p : Packet) (core tid va : Nat) (flag : Bool) : (sendLine s p core tid va flag).ended = s.ended := sendOn_ended s _ _ _
@[simp] theorem sendLine_past (p : Packet) (core tid va : Nat) (flag : Bool) : (sendLine s p core tid va flag).past = s.past := sendOn_past s _ _ _
@[simp] theorem sendLine_departed (p : Packet) (core tid va : Nat) (flag : Bool) : (sendLine s p core tid va flag).departed = s.departed := sendOn_departed s _ _ _
@[simp] theorem sendLine_partners (p : Packet) (core tid va : Nat) (flag : Bool) : (sendLine s p core tid va flag).partners = s.partners := sendOn_partners s _ _ _
@[simp] theorem sendLine_vetting (p : Packet) (core tid va : Nat) (flag : Bool) : (sendLine s p core tid va flag).vetting = s.vetting := sendOn_vetting s _ _ _
@[simp] theorem sendLine_recvSeq (p : Packet) (core tid va : Nat) (flag : Bool) : (sendLine s p core tid va flag).recvSeq = s.recvSeq := sendOn_recvSeq s _ _ _
@[simp] theorem sendLine_reorder (p : Packet) (core tid va : Nat) (flag : Bool) : (sendLine s p core tid va flag).reorder = s.reorder := sendOn_reorder s _ _ _
@[simp] theorem sendLine_atomParts (p : Packet) (core tid va : Nat) (flag : Bool) : (sendLine s p core tid va flag).atomParts = s.atomParts := sendOn_atomParts s _ _ _
@[simp] theorem sendLine_notifies (p : Packet) (core tid va : Nat) (flag : Bool) : (sendLine s p core tid va flag).notifies = s.notifies := sendOn_notifies s _ _ _
@[simp] theorem sendLine_holders (p : Packet) (core tid va : Nat) (flag : Bool) : (sendLine s p core tid va flag).holders = s.holders := sendOn_holders s _ _ _
@[simp] theorem sendLine_covered (p : Packet) (core tid va : Nat) (flag : Bool) : (sendLine s p core tid va flag).covered = s.covered := sendOn_covered s _ _ _
@[simp] theorem sendLine_reporting (p : Packet) (core tid va : Nat) (flag : Bool) : (sendLine s p core tid va flag).reporting = s.reporting := sendOn_reporting s _ _ _
@[simp] theorem sendLine_pastBlocks (p : Packet) (core tid va : Nat) (flag : Bool) : (sendLine s p core tid va flag).pastBlocks = s.pastBlocks := sendOn_pastBlocks s _ _ _
@[simp] theorem sendLine_faulted (p : Packet) (core tid va : Nat) (flag : Bool) : (sendLine s p core tid va flag).faulted = s.faulted := sendOn_faulted s _ _ _

@[simp] theorem countIssue_mem  : (countIssue s).mem = s.mem := rfl
@[simp] theorem countIssue_g  : (countIssue s).g = s.g := rfl
@[simp] theorem countIssue_others  : (countIssue s).others = s.others := rfl
@[simp] theorem countIssue_csr  : (countIssue s).csr = s.csr := rfl
@[simp] theorem countIssue_kept  : (countIssue s).kept = s.kept := rfl
@[simp] theorem countIssue_sent  : (countIssue s).sent = s.sent := rfl
@[simp] theorem countIssue_sendSeq  : (countIssue s).sendSeq = s.sendSeq := rfl
@[simp] theorem countIssue_outbox  : (countIssue s).outbox = s.outbox := rfl
@[simp] theorem countIssue_cores  : (countIssue s).cores = s.cores := rfl
@[simp] theorem countIssue_clocks  : (countIssue s).clocks = s.clocks := rfl
@[simp] theorem countIssue_tlb  : (countIssue s).tlb = s.tlb := rfl
@[simp] theorem countIssue_fmTlb  : (countIssue s).fmTlb = s.fmTlb := rfl
@[simp] theorem countIssue_l2  : (countIssue s).l2 = s.l2 := rfl
@[simp] theorem countIssue_walks  : (countIssue s).walks = s.walks := rfl
@[simp] theorem countIssue_queues  : (countIssue s).queues = s.queues := rfl
@[simp] theorem countIssue_launches  : (countIssue s).launches = s.launches := rfl
@[simp] theorem countIssue_bundles  : (countIssue s).bundles = s.bundles := rfl
@[simp] theorem countIssue_blocks  : (countIssue s).blocks = s.blocks := rfl
@[simp] theorem countIssue_gangs  : (countIssue s).gangs = s.gangs := rfl
@[simp] theorem countIssue_seqs  : (countIssue s).seqs = s.seqs := rfl
@[simp] theorem countIssue_engines  : (countIssue s).engines = s.engines := rfl
@[simp] theorem countIssue_reds  : (countIssue s).reds = s.reds := rfl
@[simp] theorem countIssue_flights  : (countIssue s).flights = s.flights := rfl
@[simp] theorem countIssue_bids  : (countIssue s).bids = s.bids := rfl
@[simp] theorem countIssue_peers  : (countIssue s).peers = s.peers := rfl
@[simp] theorem countIssue_links  : (countIssue s).links = s.links := rfl
@[simp] theorem countIssue_host  : (countIssue s).host = s.host := rfl
@[simp] theorem countIssue_free  : (countIssue s).free = s.free := rfl
@[simp] theorem countIssue_tape  : (countIssue s).tape = s.tape := rfl
@[simp] theorem countIssue_matrix  : (countIssue s).matrix = s.matrix := rfl
@[simp] theorem countIssue_sections  : (countIssue s).sections = s.sections := rfl
@[simp] theorem countIssue_l1  : (countIssue s).l1 = s.l1 := rfl
@[simp] theorem countIssue_rdc  : (countIssue s).rdc = s.rdc := rfl
@[simp] theorem countIssue_owners  : (countIssue s).owners = s.owners := rfl
@[simp] theorem countIssue_pending  : (countIssue s).pending = s.pending := rfl
@[simp] theorem countIssue_monitors  : (countIssue s).monitors = s.monitors := rfl
@[simp] theorem countIssue_locks  : (countIssue s).locks = s.locks := rfl
@[simp] theorem countIssue_lockMsgs  : (countIssue s).lockMsgs = s.lockMsgs := rfl
@[simp] theorem countIssue_trapWait  : (countIssue s).trapWait = s.trapWait := rfl
@[simp] theorem countIssue_causes  : (countIssue s).causes = s.causes := rfl
@[simp] theorem countIssue_ended  : (countIssue s).ended = s.ended := rfl
@[simp] theorem countIssue_past  : (countIssue s).past = s.past := rfl
@[simp] theorem countIssue_departed  : (countIssue s).departed = s.departed := rfl
@[simp] theorem countIssue_partners  : (countIssue s).partners = s.partners := rfl
@[simp] theorem countIssue_vetting  : (countIssue s).vetting = s.vetting := rfl
@[simp] theorem countIssue_recvSeq  : (countIssue s).recvSeq = s.recvSeq := rfl
@[simp] theorem countIssue_reorder  : (countIssue s).reorder = s.reorder := rfl
@[simp] theorem countIssue_atomParts  : (countIssue s).atomParts = s.atomParts := rfl
@[simp] theorem countIssue_notifies  : (countIssue s).notifies = s.notifies := rfl
@[simp] theorem countIssue_holders  : (countIssue s).holders = s.holders := rfl
@[simp] theorem countIssue_covered  : (countIssue s).covered = s.covered := rfl
@[simp] theorem countIssue_reporting  : (countIssue s).reporting = s.reporting := rfl
@[simp] theorem countIssue_pastBlocks  : (countIssue s).pastBlocks = s.pastBlocks := rfl
@[simp] theorem countIssue_faulted  : (countIssue s).faulted = s.faulted := rfl

@[simp] theorem updWhere_mem (p : Group → Bool) (f : Group → Group) : (updWhere s p f).mem = s.mem := rfl
@[simp] theorem updWhere_windows (p : Group → Bool) (f : Group → Group) : (updWhere s p f).windows = s.windows := rfl
@[simp] theorem updWhere_csr (p : Group → Bool) (f : Group → Group) : (updWhere s p f).csr = s.csr := rfl
@[simp] theorem updWhere_kept (p : Group → Bool) (f : Group → Group) : (updWhere s p f).kept = s.kept := rfl
@[simp] theorem updWhere_sent (p : Group → Bool) (f : Group → Group) : (updWhere s p f).sent = s.sent := rfl
@[simp] theorem updWhere_sendSeq (p : Group → Bool) (f : Group → Group) : (updWhere s p f).sendSeq = s.sendSeq := rfl
@[simp] theorem updWhere_outbox (p : Group → Bool) (f : Group → Group) : (updWhere s p f).outbox = s.outbox := rfl
@[simp] theorem updWhere_cores (p : Group → Bool) (f : Group → Group) : (updWhere s p f).cores = s.cores := rfl
@[simp] theorem updWhere_clocks (p : Group → Bool) (f : Group → Group) : (updWhere s p f).clocks = s.clocks := rfl
@[simp] theorem updWhere_tlb (p : Group → Bool) (f : Group → Group) : (updWhere s p f).tlb = s.tlb := rfl
@[simp] theorem updWhere_fmTlb (p : Group → Bool) (f : Group → Group) : (updWhere s p f).fmTlb = s.fmTlb := rfl
@[simp] theorem updWhere_l2 (p : Group → Bool) (f : Group → Group) : (updWhere s p f).l2 = s.l2 := rfl
@[simp] theorem updWhere_walks (p : Group → Bool) (f : Group → Group) : (updWhere s p f).walks = s.walks := rfl
@[simp] theorem updWhere_queues (p : Group → Bool) (f : Group → Group) : (updWhere s p f).queues = s.queues := rfl
@[simp] theorem updWhere_launches (p : Group → Bool) (f : Group → Group) : (updWhere s p f).launches = s.launches := rfl
@[simp] theorem updWhere_bundles (p : Group → Bool) (f : Group → Group) : (updWhere s p f).bundles = s.bundles := rfl
@[simp] theorem updWhere_blocks (p : Group → Bool) (f : Group → Group) : (updWhere s p f).blocks = s.blocks := rfl
@[simp] theorem updWhere_gangs (p : Group → Bool) (f : Group → Group) : (updWhere s p f).gangs = s.gangs := rfl
@[simp] theorem updWhere_seqs (p : Group → Bool) (f : Group → Group) : (updWhere s p f).seqs = s.seqs := rfl
@[simp] theorem updWhere_engines (p : Group → Bool) (f : Group → Group) : (updWhere s p f).engines = s.engines := rfl
@[simp] theorem updWhere_reds (p : Group → Bool) (f : Group → Group) : (updWhere s p f).reds = s.reds := rfl
@[simp] theorem updWhere_flights (p : Group → Bool) (f : Group → Group) : (updWhere s p f).flights = s.flights := rfl
@[simp] theorem updWhere_bids (p : Group → Bool) (f : Group → Group) : (updWhere s p f).bids = s.bids := rfl
@[simp] theorem updWhere_peers (p : Group → Bool) (f : Group → Group) : (updWhere s p f).peers = s.peers := rfl
@[simp] theorem updWhere_links (p : Group → Bool) (f : Group → Group) : (updWhere s p f).links = s.links := rfl
@[simp] theorem updWhere_host (p : Group → Bool) (f : Group → Group) : (updWhere s p f).host = s.host := rfl
@[simp] theorem updWhere_free (p : Group → Bool) (f : Group → Group) : (updWhere s p f).free = s.free := rfl
@[simp] theorem updWhere_tape (p : Group → Bool) (f : Group → Group) : (updWhere s p f).tape = s.tape := rfl
@[simp] theorem updWhere_matrix (p : Group → Bool) (f : Group → Group) : (updWhere s p f).matrix = s.matrix := rfl
@[simp] theorem updWhere_sections (p : Group → Bool) (f : Group → Group) : (updWhere s p f).sections = s.sections := rfl
@[simp] theorem updWhere_l1 (p : Group → Bool) (f : Group → Group) : (updWhere s p f).l1 = s.l1 := rfl
@[simp] theorem updWhere_rdc (p : Group → Bool) (f : Group → Group) : (updWhere s p f).rdc = s.rdc := rfl
@[simp] theorem updWhere_owners (p : Group → Bool) (f : Group → Group) : (updWhere s p f).owners = s.owners := rfl
@[simp] theorem updWhere_pending (p : Group → Bool) (f : Group → Group) : (updWhere s p f).pending = s.pending := rfl
@[simp] theorem updWhere_monitors (p : Group → Bool) (f : Group → Group) : (updWhere s p f).monitors = s.monitors := rfl
@[simp] theorem updWhere_locks (p : Group → Bool) (f : Group → Group) : (updWhere s p f).locks = s.locks := rfl
@[simp] theorem updWhere_lockMsgs (p : Group → Bool) (f : Group → Group) : (updWhere s p f).lockMsgs = s.lockMsgs := rfl
@[simp] theorem updWhere_trapWait (p : Group → Bool) (f : Group → Group) : (updWhere s p f).trapWait = s.trapWait := rfl
@[simp] theorem updWhere_causes (p : Group → Bool) (f : Group → Group) : (updWhere s p f).causes = s.causes := rfl
@[simp] theorem updWhere_ended (p : Group → Bool) (f : Group → Group) : (updWhere s p f).ended = s.ended := rfl
@[simp] theorem updWhere_past (p : Group → Bool) (f : Group → Group) : (updWhere s p f).past = s.past := rfl
@[simp] theorem updWhere_departed (p : Group → Bool) (f : Group → Group) : (updWhere s p f).departed = s.departed := rfl
@[simp] theorem updWhere_partners (p : Group → Bool) (f : Group → Group) : (updWhere s p f).partners = s.partners := rfl
@[simp] theorem updWhere_vetting (p : Group → Bool) (f : Group → Group) : (updWhere s p f).vetting = s.vetting := rfl
@[simp] theorem updWhere_recvSeq (p : Group → Bool) (f : Group → Group) : (updWhere s p f).recvSeq = s.recvSeq := rfl
@[simp] theorem updWhere_reorder (p : Group → Bool) (f : Group → Group) : (updWhere s p f).reorder = s.reorder := rfl
@[simp] theorem updWhere_atomParts (p : Group → Bool) (f : Group → Group) : (updWhere s p f).atomParts = s.atomParts := rfl
@[simp] theorem updWhere_notifies (p : Group → Bool) (f : Group → Group) : (updWhere s p f).notifies = s.notifies := rfl
@[simp] theorem updWhere_holders (p : Group → Bool) (f : Group → Group) : (updWhere s p f).holders = s.holders := rfl
@[simp] theorem updWhere_covered (p : Group → Bool) (f : Group → Group) : (updWhere s p f).covered = s.covered := rfl
@[simp] theorem updWhere_reporting (p : Group → Bool) (f : Group → Group) : (updWhere s p f).reporting = s.reporting := rfl
@[simp] theorem updWhere_pastBlocks (p : Group → Bool) (f : Group → Group) : (updWhere s p f).pastBlocks = s.pastBlocks := rfl
@[simp] theorem updWhere_faulted (p : Group → Bool) (f : Group → Group) : (updWhere s p f).faulted = s.faulted := rfl

@[simp] theorem putQueue_mem (q : Nat) (x : Queue) : (putQueue s q x).mem = s.mem := rfl
@[simp] theorem putQueue_g (q : Nat) (x : Queue) : (putQueue s q x).g = s.g := rfl
@[simp] theorem putQueue_others (q : Nat) (x : Queue) : (putQueue s q x).others = s.others := rfl
@[simp] theorem putQueue_windows (q : Nat) (x : Queue) : (putQueue s q x).windows = s.windows := rfl
@[simp] theorem putQueue_csr (q : Nat) (x : Queue) : (putQueue s q x).csr = s.csr := rfl
@[simp] theorem putQueue_kept (q : Nat) (x : Queue) : (putQueue s q x).kept = s.kept := rfl
@[simp] theorem putQueue_sent (q : Nat) (x : Queue) : (putQueue s q x).sent = s.sent := rfl
@[simp] theorem putQueue_sendSeq (q : Nat) (x : Queue) : (putQueue s q x).sendSeq = s.sendSeq := rfl
@[simp] theorem putQueue_outbox (q : Nat) (x : Queue) : (putQueue s q x).outbox = s.outbox := rfl
@[simp] theorem putQueue_cores (q : Nat) (x : Queue) : (putQueue s q x).cores = s.cores := rfl
@[simp] theorem putQueue_clocks (q : Nat) (x : Queue) : (putQueue s q x).clocks = s.clocks := rfl
@[simp] theorem putQueue_tlb (q : Nat) (x : Queue) : (putQueue s q x).tlb = s.tlb := rfl
@[simp] theorem putQueue_fmTlb (q : Nat) (x : Queue) : (putQueue s q x).fmTlb = s.fmTlb := rfl
@[simp] theorem putQueue_l2 (q : Nat) (x : Queue) : (putQueue s q x).l2 = s.l2 := rfl
@[simp] theorem putQueue_walks (q : Nat) (x : Queue) : (putQueue s q x).walks = s.walks := rfl
@[simp] theorem putQueue_launches (q : Nat) (x : Queue) : (putQueue s q x).launches = s.launches := rfl
@[simp] theorem putQueue_bundles (q : Nat) (x : Queue) : (putQueue s q x).bundles = s.bundles := rfl
@[simp] theorem putQueue_blocks (q : Nat) (x : Queue) : (putQueue s q x).blocks = s.blocks := rfl
@[simp] theorem putQueue_gangs (q : Nat) (x : Queue) : (putQueue s q x).gangs = s.gangs := rfl
@[simp] theorem putQueue_seqs (q : Nat) (x : Queue) : (putQueue s q x).seqs = s.seqs := rfl
@[simp] theorem putQueue_engines (q : Nat) (x : Queue) : (putQueue s q x).engines = s.engines := rfl
@[simp] theorem putQueue_reds (q : Nat) (x : Queue) : (putQueue s q x).reds = s.reds := rfl
@[simp] theorem putQueue_flights (q : Nat) (x : Queue) : (putQueue s q x).flights = s.flights := rfl
@[simp] theorem putQueue_bids (q : Nat) (x : Queue) : (putQueue s q x).bids = s.bids := rfl
@[simp] theorem putQueue_peers (q : Nat) (x : Queue) : (putQueue s q x).peers = s.peers := rfl
@[simp] theorem putQueue_links (q : Nat) (x : Queue) : (putQueue s q x).links = s.links := rfl
@[simp] theorem putQueue_host (q : Nat) (x : Queue) : (putQueue s q x).host = s.host := rfl
@[simp] theorem putQueue_free (q : Nat) (x : Queue) : (putQueue s q x).free = s.free := rfl
@[simp] theorem putQueue_tape (q : Nat) (x : Queue) : (putQueue s q x).tape = s.tape := rfl
@[simp] theorem putQueue_matrix (q : Nat) (x : Queue) : (putQueue s q x).matrix = s.matrix := rfl
@[simp] theorem putQueue_sections (q : Nat) (x : Queue) : (putQueue s q x).sections = s.sections := rfl
@[simp] theorem putQueue_l1 (q : Nat) (x : Queue) : (putQueue s q x).l1 = s.l1 := rfl
@[simp] theorem putQueue_rdc (q : Nat) (x : Queue) : (putQueue s q x).rdc = s.rdc := rfl
@[simp] theorem putQueue_owners (q : Nat) (x : Queue) : (putQueue s q x).owners = s.owners := rfl
@[simp] theorem putQueue_pending (q : Nat) (x : Queue) : (putQueue s q x).pending = s.pending := rfl
@[simp] theorem putQueue_monitors (q : Nat) (x : Queue) : (putQueue s q x).monitors = s.monitors := rfl
@[simp] theorem putQueue_locks (q : Nat) (x : Queue) : (putQueue s q x).locks = s.locks := rfl
@[simp] theorem putQueue_lockMsgs (q : Nat) (x : Queue) : (putQueue s q x).lockMsgs = s.lockMsgs := rfl
@[simp] theorem putQueue_trapWait (q : Nat) (x : Queue) : (putQueue s q x).trapWait = s.trapWait := rfl
@[simp] theorem putQueue_causes (q : Nat) (x : Queue) : (putQueue s q x).causes = s.causes := rfl
@[simp] theorem putQueue_ended (q : Nat) (x : Queue) : (putQueue s q x).ended = s.ended := rfl
@[simp] theorem putQueue_past (q : Nat) (x : Queue) : (putQueue s q x).past = s.past := rfl
@[simp] theorem putQueue_departed (q : Nat) (x : Queue) : (putQueue s q x).departed = s.departed := rfl
@[simp] theorem putQueue_partners (q : Nat) (x : Queue) : (putQueue s q x).partners = s.partners := rfl
@[simp] theorem putQueue_vetting (q : Nat) (x : Queue) : (putQueue s q x).vetting = s.vetting := rfl
@[simp] theorem putQueue_recvSeq (q : Nat) (x : Queue) : (putQueue s q x).recvSeq = s.recvSeq := rfl
@[simp] theorem putQueue_reorder (q : Nat) (x : Queue) : (putQueue s q x).reorder = s.reorder := rfl
@[simp] theorem putQueue_atomParts (q : Nat) (x : Queue) : (putQueue s q x).atomParts = s.atomParts := rfl
@[simp] theorem putQueue_notifies (q : Nat) (x : Queue) : (putQueue s q x).notifies = s.notifies := rfl
@[simp] theorem putQueue_holders (q : Nat) (x : Queue) : (putQueue s q x).holders = s.holders := rfl
@[simp] theorem putQueue_covered (q : Nat) (x : Queue) : (putQueue s q x).covered = s.covered := rfl
@[simp] theorem putQueue_reporting (q : Nat) (x : Queue) : (putQueue s q x).reporting = s.reporting := rfl
@[simp] theorem putQueue_pastBlocks (q : Nat) (x : Queue) : (putQueue s q x).pastBlocks = s.pastBlocks := rfl
@[simp] theorem putQueue_faulted (q : Nat) (x : Queue) : (putQueue s q x).faulted = s.faulted := rfl

@[simp] theorem putBid_mem (ctx c : Nat) (b : BitVec 64) : (putBid s ctx c b).mem = s.mem := rfl
@[simp] theorem putBid_g (ctx c : Nat) (b : BitVec 64) : (putBid s ctx c b).g = s.g := rfl
@[simp] theorem putBid_others (ctx c : Nat) (b : BitVec 64) : (putBid s ctx c b).others = s.others := rfl
@[simp] theorem putBid_windows (ctx c : Nat) (b : BitVec 64) : (putBid s ctx c b).windows = s.windows := rfl
@[simp] theorem putBid_csr (ctx c : Nat) (b : BitVec 64) : (putBid s ctx c b).csr = s.csr := rfl
@[simp] theorem putBid_kept (ctx c : Nat) (b : BitVec 64) : (putBid s ctx c b).kept = s.kept := rfl
@[simp] theorem putBid_sent (ctx c : Nat) (b : BitVec 64) : (putBid s ctx c b).sent = s.sent := rfl
@[simp] theorem putBid_sendSeq (ctx c : Nat) (b : BitVec 64) : (putBid s ctx c b).sendSeq = s.sendSeq := rfl
@[simp] theorem putBid_outbox (ctx c : Nat) (b : BitVec 64) : (putBid s ctx c b).outbox = s.outbox := rfl
@[simp] theorem putBid_cores (ctx c : Nat) (b : BitVec 64) : (putBid s ctx c b).cores = s.cores := rfl
@[simp] theorem putBid_clocks (ctx c : Nat) (b : BitVec 64) : (putBid s ctx c b).clocks = s.clocks := rfl
@[simp] theorem putBid_tlb (ctx c : Nat) (b : BitVec 64) : (putBid s ctx c b).tlb = s.tlb := rfl
@[simp] theorem putBid_fmTlb (ctx c : Nat) (b : BitVec 64) : (putBid s ctx c b).fmTlb = s.fmTlb := rfl
@[simp] theorem putBid_l2 (ctx c : Nat) (b : BitVec 64) : (putBid s ctx c b).l2 = s.l2 := rfl
@[simp] theorem putBid_walks (ctx c : Nat) (b : BitVec 64) : (putBid s ctx c b).walks = s.walks := rfl
@[simp] theorem putBid_queues (ctx c : Nat) (b : BitVec 64) : (putBid s ctx c b).queues = s.queues := rfl
@[simp] theorem putBid_launches (ctx c : Nat) (b : BitVec 64) : (putBid s ctx c b).launches = s.launches := rfl
@[simp] theorem putBid_bundles (ctx c : Nat) (b : BitVec 64) : (putBid s ctx c b).bundles = s.bundles := rfl
@[simp] theorem putBid_blocks (ctx c : Nat) (b : BitVec 64) : (putBid s ctx c b).blocks = s.blocks := rfl
@[simp] theorem putBid_gangs (ctx c : Nat) (b : BitVec 64) : (putBid s ctx c b).gangs = s.gangs := rfl
@[simp] theorem putBid_seqs (ctx c : Nat) (b : BitVec 64) : (putBid s ctx c b).seqs = s.seqs := rfl
@[simp] theorem putBid_engines (ctx c : Nat) (b : BitVec 64) : (putBid s ctx c b).engines = s.engines := rfl
@[simp] theorem putBid_reds (ctx c : Nat) (b : BitVec 64) : (putBid s ctx c b).reds = s.reds := rfl
@[simp] theorem putBid_flights (ctx c : Nat) (b : BitVec 64) : (putBid s ctx c b).flights = s.flights := rfl
@[simp] theorem putBid_peers (ctx c : Nat) (b : BitVec 64) : (putBid s ctx c b).peers = s.peers := rfl
@[simp] theorem putBid_links (ctx c : Nat) (b : BitVec 64) : (putBid s ctx c b).links = s.links := rfl
@[simp] theorem putBid_host (ctx c : Nat) (b : BitVec 64) : (putBid s ctx c b).host = s.host := rfl
@[simp] theorem putBid_free (ctx c : Nat) (b : BitVec 64) : (putBid s ctx c b).free = s.free := rfl
@[simp] theorem putBid_tape (ctx c : Nat) (b : BitVec 64) : (putBid s ctx c b).tape = s.tape := rfl
@[simp] theorem putBid_matrix (ctx c : Nat) (b : BitVec 64) : (putBid s ctx c b).matrix = s.matrix := rfl
@[simp] theorem putBid_sections (ctx c : Nat) (b : BitVec 64) : (putBid s ctx c b).sections = s.sections := rfl
@[simp] theorem putBid_l1 (ctx c : Nat) (b : BitVec 64) : (putBid s ctx c b).l1 = s.l1 := rfl
@[simp] theorem putBid_rdc (ctx c : Nat) (b : BitVec 64) : (putBid s ctx c b).rdc = s.rdc := rfl
@[simp] theorem putBid_owners (ctx c : Nat) (b : BitVec 64) : (putBid s ctx c b).owners = s.owners := rfl
@[simp] theorem putBid_pending (ctx c : Nat) (b : BitVec 64) : (putBid s ctx c b).pending = s.pending := rfl
@[simp] theorem putBid_monitors (ctx c : Nat) (b : BitVec 64) : (putBid s ctx c b).monitors = s.monitors := rfl
@[simp] theorem putBid_locks (ctx c : Nat) (b : BitVec 64) : (putBid s ctx c b).locks = s.locks := rfl
@[simp] theorem putBid_lockMsgs (ctx c : Nat) (b : BitVec 64) : (putBid s ctx c b).lockMsgs = s.lockMsgs := rfl
@[simp] theorem putBid_trapWait (ctx c : Nat) (b : BitVec 64) : (putBid s ctx c b).trapWait = s.trapWait := rfl
@[simp] theorem putBid_causes (ctx c : Nat) (b : BitVec 64) : (putBid s ctx c b).causes = s.causes := rfl
@[simp] theorem putBid_ended (ctx c : Nat) (b : BitVec 64) : (putBid s ctx c b).ended = s.ended := rfl
@[simp] theorem putBid_past (ctx c : Nat) (b : BitVec 64) : (putBid s ctx c b).past = s.past := rfl
@[simp] theorem putBid_departed (ctx c : Nat) (b : BitVec 64) : (putBid s ctx c b).departed = s.departed := rfl
@[simp] theorem putBid_partners (ctx c : Nat) (b : BitVec 64) : (putBid s ctx c b).partners = s.partners := rfl
@[simp] theorem putBid_vetting (ctx c : Nat) (b : BitVec 64) : (putBid s ctx c b).vetting = s.vetting := rfl
@[simp] theorem putBid_recvSeq (ctx c : Nat) (b : BitVec 64) : (putBid s ctx c b).recvSeq = s.recvSeq := rfl
@[simp] theorem putBid_reorder (ctx c : Nat) (b : BitVec 64) : (putBid s ctx c b).reorder = s.reorder := rfl
@[simp] theorem putBid_atomParts (ctx c : Nat) (b : BitVec 64) : (putBid s ctx c b).atomParts = s.atomParts := rfl
@[simp] theorem putBid_notifies (ctx c : Nat) (b : BitVec 64) : (putBid s ctx c b).notifies = s.notifies := rfl
@[simp] theorem putBid_holders (ctx c : Nat) (b : BitVec 64) : (putBid s ctx c b).holders = s.holders := rfl
@[simp] theorem putBid_covered (ctx c : Nat) (b : BitVec 64) : (putBid s ctx c b).covered = s.covered := rfl
@[simp] theorem putBid_reporting (ctx c : Nat) (b : BitVec 64) : (putBid s ctx c b).reporting = s.reporting := rfl
@[simp] theorem putBid_pastBlocks (ctx c : Nat) (b : BitVec 64) : (putBid s ctx c b).pastBlocks = s.pastBlocks := rfl
@[simp] theorem putBid_faulted (ctx c : Nat) (b : BitVec 64) : (putBid s ctx c b).faulted = s.faulted := rfl

@[simp] theorem updSeq_mem (id : Nat) (f : Seq → Seq) : (updSeq s id f).mem = s.mem := rfl
@[simp] theorem updSeq_g (id : Nat) (f : Seq → Seq) : (updSeq s id f).g = s.g := rfl
@[simp] theorem updSeq_others (id : Nat) (f : Seq → Seq) : (updSeq s id f).others = s.others := rfl
@[simp] theorem updSeq_windows (id : Nat) (f : Seq → Seq) : (updSeq s id f).windows = s.windows := rfl
@[simp] theorem updSeq_csr (id : Nat) (f : Seq → Seq) : (updSeq s id f).csr = s.csr := rfl
@[simp] theorem updSeq_kept (id : Nat) (f : Seq → Seq) : (updSeq s id f).kept = s.kept := rfl
@[simp] theorem updSeq_sent (id : Nat) (f : Seq → Seq) : (updSeq s id f).sent = s.sent := rfl
@[simp] theorem updSeq_sendSeq (id : Nat) (f : Seq → Seq) : (updSeq s id f).sendSeq = s.sendSeq := rfl
@[simp] theorem updSeq_outbox (id : Nat) (f : Seq → Seq) : (updSeq s id f).outbox = s.outbox := rfl
@[simp] theorem updSeq_cores (id : Nat) (f : Seq → Seq) : (updSeq s id f).cores = s.cores := rfl
@[simp] theorem updSeq_clocks (id : Nat) (f : Seq → Seq) : (updSeq s id f).clocks = s.clocks := rfl
@[simp] theorem updSeq_tlb (id : Nat) (f : Seq → Seq) : (updSeq s id f).tlb = s.tlb := rfl
@[simp] theorem updSeq_fmTlb (id : Nat) (f : Seq → Seq) : (updSeq s id f).fmTlb = s.fmTlb := rfl
@[simp] theorem updSeq_l2 (id : Nat) (f : Seq → Seq) : (updSeq s id f).l2 = s.l2 := rfl
@[simp] theorem updSeq_walks (id : Nat) (f : Seq → Seq) : (updSeq s id f).walks = s.walks := rfl
@[simp] theorem updSeq_queues (id : Nat) (f : Seq → Seq) : (updSeq s id f).queues = s.queues := rfl
@[simp] theorem updSeq_launches (id : Nat) (f : Seq → Seq) : (updSeq s id f).launches = s.launches := rfl
@[simp] theorem updSeq_bundles (id : Nat) (f : Seq → Seq) : (updSeq s id f).bundles = s.bundles := rfl
@[simp] theorem updSeq_blocks (id : Nat) (f : Seq → Seq) : (updSeq s id f).blocks = s.blocks := rfl
@[simp] theorem updSeq_gangs (id : Nat) (f : Seq → Seq) : (updSeq s id f).gangs = s.gangs := rfl
@[simp] theorem updSeq_engines (id : Nat) (f : Seq → Seq) : (updSeq s id f).engines = s.engines := rfl
@[simp] theorem updSeq_reds (id : Nat) (f : Seq → Seq) : (updSeq s id f).reds = s.reds := rfl
@[simp] theorem updSeq_flights (id : Nat) (f : Seq → Seq) : (updSeq s id f).flights = s.flights := rfl
@[simp] theorem updSeq_bids (id : Nat) (f : Seq → Seq) : (updSeq s id f).bids = s.bids := rfl
@[simp] theorem updSeq_peers (id : Nat) (f : Seq → Seq) : (updSeq s id f).peers = s.peers := rfl
@[simp] theorem updSeq_links (id : Nat) (f : Seq → Seq) : (updSeq s id f).links = s.links := rfl
@[simp] theorem updSeq_host (id : Nat) (f : Seq → Seq) : (updSeq s id f).host = s.host := rfl
@[simp] theorem updSeq_free (id : Nat) (f : Seq → Seq) : (updSeq s id f).free = s.free := rfl
@[simp] theorem updSeq_tape (id : Nat) (f : Seq → Seq) : (updSeq s id f).tape = s.tape := rfl
@[simp] theorem updSeq_matrix (id : Nat) (f : Seq → Seq) : (updSeq s id f).matrix = s.matrix := rfl
@[simp] theorem updSeq_sections (id : Nat) (f : Seq → Seq) : (updSeq s id f).sections = s.sections := rfl
@[simp] theorem updSeq_l1 (id : Nat) (f : Seq → Seq) : (updSeq s id f).l1 = s.l1 := rfl
@[simp] theorem updSeq_rdc (id : Nat) (f : Seq → Seq) : (updSeq s id f).rdc = s.rdc := rfl
@[simp] theorem updSeq_owners (id : Nat) (f : Seq → Seq) : (updSeq s id f).owners = s.owners := rfl
@[simp] theorem updSeq_pending (id : Nat) (f : Seq → Seq) : (updSeq s id f).pending = s.pending := rfl
@[simp] theorem updSeq_monitors (id : Nat) (f : Seq → Seq) : (updSeq s id f).monitors = s.monitors := rfl
@[simp] theorem updSeq_locks (id : Nat) (f : Seq → Seq) : (updSeq s id f).locks = s.locks := rfl
@[simp] theorem updSeq_lockMsgs (id : Nat) (f : Seq → Seq) : (updSeq s id f).lockMsgs = s.lockMsgs := rfl
@[simp] theorem updSeq_trapWait (id : Nat) (f : Seq → Seq) : (updSeq s id f).trapWait = s.trapWait := rfl
@[simp] theorem updSeq_causes (id : Nat) (f : Seq → Seq) : (updSeq s id f).causes = s.causes := rfl
@[simp] theorem updSeq_ended (id : Nat) (f : Seq → Seq) : (updSeq s id f).ended = s.ended := rfl
@[simp] theorem updSeq_past (id : Nat) (f : Seq → Seq) : (updSeq s id f).past = s.past := rfl
@[simp] theorem updSeq_departed (id : Nat) (f : Seq → Seq) : (updSeq s id f).departed = s.departed := rfl
@[simp] theorem updSeq_partners (id : Nat) (f : Seq → Seq) : (updSeq s id f).partners = s.partners := rfl
@[simp] theorem updSeq_vetting (id : Nat) (f : Seq → Seq) : (updSeq s id f).vetting = s.vetting := rfl
@[simp] theorem updSeq_recvSeq (id : Nat) (f : Seq → Seq) : (updSeq s id f).recvSeq = s.recvSeq := rfl
@[simp] theorem updSeq_reorder (id : Nat) (f : Seq → Seq) : (updSeq s id f).reorder = s.reorder := rfl
@[simp] theorem updSeq_atomParts (id : Nat) (f : Seq → Seq) : (updSeq s id f).atomParts = s.atomParts := rfl
@[simp] theorem updSeq_notifies (id : Nat) (f : Seq → Seq) : (updSeq s id f).notifies = s.notifies := rfl
@[simp] theorem updSeq_holders (id : Nat) (f : Seq → Seq) : (updSeq s id f).holders = s.holders := rfl
@[simp] theorem updSeq_covered (id : Nat) (f : Seq → Seq) : (updSeq s id f).covered = s.covered := rfl
@[simp] theorem updSeq_reporting (id : Nat) (f : Seq → Seq) : (updSeq s id f).reporting = s.reporting := rfl
@[simp] theorem updSeq_pastBlocks (id : Nat) (f : Seq → Seq) : (updSeq s id f).pastBlocks = s.pastBlocks := rfl
@[simp] theorem updSeq_faulted (id : Nat) (f : Seq → Seq) : (updSeq s id f).faulted = s.faulted := rfl

@[simp] theorem setMatrix_mem (clu : Nat) (m : Matrix) : (setMatrix s clu m).mem = s.mem := rfl
@[simp] theorem setMatrix_g (clu : Nat) (m : Matrix) : (setMatrix s clu m).g = s.g := rfl
@[simp] theorem setMatrix_others (clu : Nat) (m : Matrix) : (setMatrix s clu m).others = s.others := rfl
@[simp] theorem setMatrix_windows (clu : Nat) (m : Matrix) : (setMatrix s clu m).windows = s.windows := rfl
@[simp] theorem setMatrix_csr (clu : Nat) (m : Matrix) : (setMatrix s clu m).csr = s.csr := rfl
@[simp] theorem setMatrix_kept (clu : Nat) (m : Matrix) : (setMatrix s clu m).kept = s.kept := rfl
@[simp] theorem setMatrix_sent (clu : Nat) (m : Matrix) : (setMatrix s clu m).sent = s.sent := rfl
@[simp] theorem setMatrix_sendSeq (clu : Nat) (m : Matrix) : (setMatrix s clu m).sendSeq = s.sendSeq := rfl
@[simp] theorem setMatrix_outbox (clu : Nat) (m : Matrix) : (setMatrix s clu m).outbox = s.outbox := rfl
@[simp] theorem setMatrix_cores (clu : Nat) (m : Matrix) : (setMatrix s clu m).cores = s.cores := rfl
@[simp] theorem setMatrix_clocks (clu : Nat) (m : Matrix) : (setMatrix s clu m).clocks = s.clocks := rfl
@[simp] theorem setMatrix_tlb (clu : Nat) (m : Matrix) : (setMatrix s clu m).tlb = s.tlb := rfl
@[simp] theorem setMatrix_fmTlb (clu : Nat) (m : Matrix) : (setMatrix s clu m).fmTlb = s.fmTlb := rfl
@[simp] theorem setMatrix_l2 (clu : Nat) (m : Matrix) : (setMatrix s clu m).l2 = s.l2 := rfl
@[simp] theorem setMatrix_walks (clu : Nat) (m : Matrix) : (setMatrix s clu m).walks = s.walks := rfl
@[simp] theorem setMatrix_queues (clu : Nat) (m : Matrix) : (setMatrix s clu m).queues = s.queues := rfl
@[simp] theorem setMatrix_launches (clu : Nat) (m : Matrix) : (setMatrix s clu m).launches = s.launches := rfl
@[simp] theorem setMatrix_bundles (clu : Nat) (m : Matrix) : (setMatrix s clu m).bundles = s.bundles := rfl
@[simp] theorem setMatrix_blocks (clu : Nat) (m : Matrix) : (setMatrix s clu m).blocks = s.blocks := rfl
@[simp] theorem setMatrix_gangs (clu : Nat) (m : Matrix) : (setMatrix s clu m).gangs = s.gangs := rfl
@[simp] theorem setMatrix_seqs (clu : Nat) (m : Matrix) : (setMatrix s clu m).seqs = s.seqs := rfl
@[simp] theorem setMatrix_engines (clu : Nat) (m : Matrix) : (setMatrix s clu m).engines = s.engines := rfl
@[simp] theorem setMatrix_reds (clu : Nat) (m : Matrix) : (setMatrix s clu m).reds = s.reds := rfl
@[simp] theorem setMatrix_flights (clu : Nat) (m : Matrix) : (setMatrix s clu m).flights = s.flights := rfl
@[simp] theorem setMatrix_bids (clu : Nat) (m : Matrix) : (setMatrix s clu m).bids = s.bids := rfl
@[simp] theorem setMatrix_peers (clu : Nat) (m : Matrix) : (setMatrix s clu m).peers = s.peers := rfl
@[simp] theorem setMatrix_links (clu : Nat) (m : Matrix) : (setMatrix s clu m).links = s.links := rfl
@[simp] theorem setMatrix_host (clu : Nat) (m : Matrix) : (setMatrix s clu m).host = s.host := rfl
@[simp] theorem setMatrix_free (clu : Nat) (m : Matrix) : (setMatrix s clu m).free = s.free := rfl
@[simp] theorem setMatrix_tape (clu : Nat) (m : Matrix) : (setMatrix s clu m).tape = s.tape := rfl
@[simp] theorem setMatrix_sections (clu : Nat) (m : Matrix) : (setMatrix s clu m).sections = s.sections := rfl
@[simp] theorem setMatrix_l1 (clu : Nat) (m : Matrix) : (setMatrix s clu m).l1 = s.l1 := rfl
@[simp] theorem setMatrix_rdc (clu : Nat) (m : Matrix) : (setMatrix s clu m).rdc = s.rdc := rfl
@[simp] theorem setMatrix_owners (clu : Nat) (m : Matrix) : (setMatrix s clu m).owners = s.owners := rfl
@[simp] theorem setMatrix_pending (clu : Nat) (m : Matrix) : (setMatrix s clu m).pending = s.pending := rfl
@[simp] theorem setMatrix_monitors (clu : Nat) (m : Matrix) : (setMatrix s clu m).monitors = s.monitors := rfl
@[simp] theorem setMatrix_locks (clu : Nat) (m : Matrix) : (setMatrix s clu m).locks = s.locks := rfl
@[simp] theorem setMatrix_lockMsgs (clu : Nat) (m : Matrix) : (setMatrix s clu m).lockMsgs = s.lockMsgs := rfl
@[simp] theorem setMatrix_trapWait (clu : Nat) (m : Matrix) : (setMatrix s clu m).trapWait = s.trapWait := rfl
@[simp] theorem setMatrix_causes (clu : Nat) (m : Matrix) : (setMatrix s clu m).causes = s.causes := rfl
@[simp] theorem setMatrix_ended (clu : Nat) (m : Matrix) : (setMatrix s clu m).ended = s.ended := rfl
@[simp] theorem setMatrix_past (clu : Nat) (m : Matrix) : (setMatrix s clu m).past = s.past := rfl
@[simp] theorem setMatrix_departed (clu : Nat) (m : Matrix) : (setMatrix s clu m).departed = s.departed := rfl
@[simp] theorem setMatrix_partners (clu : Nat) (m : Matrix) : (setMatrix s clu m).partners = s.partners := rfl
@[simp] theorem setMatrix_vetting (clu : Nat) (m : Matrix) : (setMatrix s clu m).vetting = s.vetting := rfl
@[simp] theorem setMatrix_recvSeq (clu : Nat) (m : Matrix) : (setMatrix s clu m).recvSeq = s.recvSeq := rfl
@[simp] theorem setMatrix_reorder (clu : Nat) (m : Matrix) : (setMatrix s clu m).reorder = s.reorder := rfl
@[simp] theorem setMatrix_atomParts (clu : Nat) (m : Matrix) : (setMatrix s clu m).atomParts = s.atomParts := rfl
@[simp] theorem setMatrix_notifies (clu : Nat) (m : Matrix) : (setMatrix s clu m).notifies = s.notifies := rfl
@[simp] theorem setMatrix_holders (clu : Nat) (m : Matrix) : (setMatrix s clu m).holders = s.holders := rfl
@[simp] theorem setMatrix_covered (clu : Nat) (m : Matrix) : (setMatrix s clu m).covered = s.covered := rfl
@[simp] theorem setMatrix_reporting (clu : Nat) (m : Matrix) : (setMatrix s clu m).reporting = s.reporting := rfl
@[simp] theorem setMatrix_pastBlocks (clu : Nat) (m : Matrix) : (setMatrix s clu m).pastBlocks = s.pastBlocks := rfl
@[simp] theorem setMatrix_faulted (clu : Nat) (m : Matrix) : (setMatrix s clu m).faulted = s.faulted := rfl

@[simp] theorem dropKept_mem (k : Kept) : (dropKept s k).mem = s.mem := rfl
@[simp] theorem dropKept_g (k : Kept) : (dropKept s k).g = s.g := rfl
@[simp] theorem dropKept_others (k : Kept) : (dropKept s k).others = s.others := rfl
@[simp] theorem dropKept_windows (k : Kept) : (dropKept s k).windows = s.windows := rfl
@[simp] theorem dropKept_csr (k : Kept) : (dropKept s k).csr = s.csr := rfl
@[simp] theorem dropKept_sent (k : Kept) : (dropKept s k).sent = s.sent := rfl
@[simp] theorem dropKept_sendSeq (k : Kept) : (dropKept s k).sendSeq = s.sendSeq := rfl
@[simp] theorem dropKept_outbox (k : Kept) : (dropKept s k).outbox = s.outbox := rfl
@[simp] theorem dropKept_cores (k : Kept) : (dropKept s k).cores = s.cores := rfl
@[simp] theorem dropKept_clocks (k : Kept) : (dropKept s k).clocks = s.clocks := rfl
@[simp] theorem dropKept_tlb (k : Kept) : (dropKept s k).tlb = s.tlb := rfl
@[simp] theorem dropKept_fmTlb (k : Kept) : (dropKept s k).fmTlb = s.fmTlb := rfl
@[simp] theorem dropKept_l2 (k : Kept) : (dropKept s k).l2 = s.l2 := rfl
@[simp] theorem dropKept_walks (k : Kept) : (dropKept s k).walks = s.walks := rfl
@[simp] theorem dropKept_queues (k : Kept) : (dropKept s k).queues = s.queues := rfl
@[simp] theorem dropKept_launches (k : Kept) : (dropKept s k).launches = s.launches := rfl
@[simp] theorem dropKept_bundles (k : Kept) : (dropKept s k).bundles = s.bundles := rfl
@[simp] theorem dropKept_blocks (k : Kept) : (dropKept s k).blocks = s.blocks := rfl
@[simp] theorem dropKept_gangs (k : Kept) : (dropKept s k).gangs = s.gangs := rfl
@[simp] theorem dropKept_seqs (k : Kept) : (dropKept s k).seqs = s.seqs := rfl
@[simp] theorem dropKept_engines (k : Kept) : (dropKept s k).engines = s.engines := rfl
@[simp] theorem dropKept_reds (k : Kept) : (dropKept s k).reds = s.reds := rfl
@[simp] theorem dropKept_flights (k : Kept) : (dropKept s k).flights = s.flights := rfl
@[simp] theorem dropKept_bids (k : Kept) : (dropKept s k).bids = s.bids := rfl
@[simp] theorem dropKept_peers (k : Kept) : (dropKept s k).peers = s.peers := rfl
@[simp] theorem dropKept_links (k : Kept) : (dropKept s k).links = s.links := rfl
@[simp] theorem dropKept_host (k : Kept) : (dropKept s k).host = s.host := rfl
@[simp] theorem dropKept_free (k : Kept) : (dropKept s k).free = s.free := rfl
@[simp] theorem dropKept_tape (k : Kept) : (dropKept s k).tape = s.tape := rfl
@[simp] theorem dropKept_matrix (k : Kept) : (dropKept s k).matrix = s.matrix := rfl
@[simp] theorem dropKept_sections (k : Kept) : (dropKept s k).sections = s.sections := rfl
@[simp] theorem dropKept_l1 (k : Kept) : (dropKept s k).l1 = s.l1 := rfl
@[simp] theorem dropKept_rdc (k : Kept) : (dropKept s k).rdc = s.rdc := rfl
@[simp] theorem dropKept_owners (k : Kept) : (dropKept s k).owners = s.owners := rfl
@[simp] theorem dropKept_pending (k : Kept) : (dropKept s k).pending = s.pending := rfl
@[simp] theorem dropKept_monitors (k : Kept) : (dropKept s k).monitors = s.monitors := rfl
@[simp] theorem dropKept_locks (k : Kept) : (dropKept s k).locks = s.locks := rfl
@[simp] theorem dropKept_lockMsgs (k : Kept) : (dropKept s k).lockMsgs = s.lockMsgs := rfl
@[simp] theorem dropKept_trapWait (k : Kept) : (dropKept s k).trapWait = s.trapWait := rfl
@[simp] theorem dropKept_causes (k : Kept) : (dropKept s k).causes = s.causes := rfl
@[simp] theorem dropKept_ended (k : Kept) : (dropKept s k).ended = s.ended := rfl
@[simp] theorem dropKept_past (k : Kept) : (dropKept s k).past = s.past := rfl
@[simp] theorem dropKept_departed (k : Kept) : (dropKept s k).departed = s.departed := rfl
@[simp] theorem dropKept_partners (k : Kept) : (dropKept s k).partners = s.partners := rfl
@[simp] theorem dropKept_vetting (k : Kept) : (dropKept s k).vetting = s.vetting := rfl
@[simp] theorem dropKept_recvSeq (k : Kept) : (dropKept s k).recvSeq = s.recvSeq := rfl
@[simp] theorem dropKept_reorder (k : Kept) : (dropKept s k).reorder = s.reorder := rfl
@[simp] theorem dropKept_atomParts (k : Kept) : (dropKept s k).atomParts = s.atomParts := rfl
@[simp] theorem dropKept_notifies (k : Kept) : (dropKept s k).notifies = s.notifies := rfl
@[simp] theorem dropKept_holders (k : Kept) : (dropKept s k).holders = s.holders := rfl
@[simp] theorem dropKept_covered (k : Kept) : (dropKept s k).covered = s.covered := rfl
@[simp] theorem dropKept_reporting (k : Kept) : (dropKept s k).reporting = s.reporting := rfl
@[simp] theorem dropKept_pastBlocks (k : Kept) : (dropKept s k).pastBlocks = s.pastBlocks := rfl
@[simp] theorem dropKept_faulted (k : Kept) : (dropKept s k).faulted = s.faulted := rfl

@[simp] theorem writeSpad_mem (block off n x : Nat) : (writeSpad s block off n x).mem = s.mem := rfl
@[simp] theorem writeSpad_g (block off n x : Nat) : (writeSpad s block off n x).g = s.g := rfl
@[simp] theorem writeSpad_others (block off n x : Nat) : (writeSpad s block off n x).others = s.others := rfl
@[simp] theorem writeSpad_windows (block off n x : Nat) : (writeSpad s block off n x).windows = s.windows := rfl
@[simp] theorem writeSpad_csr (block off n x : Nat) : (writeSpad s block off n x).csr = s.csr := rfl
@[simp] theorem writeSpad_kept (block off n x : Nat) : (writeSpad s block off n x).kept = s.kept := rfl
@[simp] theorem writeSpad_sent (block off n x : Nat) : (writeSpad s block off n x).sent = s.sent := rfl
@[simp] theorem writeSpad_sendSeq (block off n x : Nat) : (writeSpad s block off n x).sendSeq = s.sendSeq := rfl
@[simp] theorem writeSpad_outbox (block off n x : Nat) : (writeSpad s block off n x).outbox = s.outbox := rfl
@[simp] theorem writeSpad_cores (block off n x : Nat) : (writeSpad s block off n x).cores = s.cores := rfl
@[simp] theorem writeSpad_clocks (block off n x : Nat) : (writeSpad s block off n x).clocks = s.clocks := rfl
@[simp] theorem writeSpad_tlb (block off n x : Nat) : (writeSpad s block off n x).tlb = s.tlb := rfl
@[simp] theorem writeSpad_fmTlb (block off n x : Nat) : (writeSpad s block off n x).fmTlb = s.fmTlb := rfl
@[simp] theorem writeSpad_l2 (block off n x : Nat) : (writeSpad s block off n x).l2 = s.l2 := rfl
@[simp] theorem writeSpad_walks (block off n x : Nat) : (writeSpad s block off n x).walks = s.walks := rfl
@[simp] theorem writeSpad_queues (block off n x : Nat) : (writeSpad s block off n x).queues = s.queues := rfl
@[simp] theorem writeSpad_launches (block off n x : Nat) : (writeSpad s block off n x).launches = s.launches := rfl
@[simp] theorem writeSpad_bundles (block off n x : Nat) : (writeSpad s block off n x).bundles = s.bundles := rfl
@[simp] theorem writeSpad_gangs (block off n x : Nat) : (writeSpad s block off n x).gangs = s.gangs := rfl
@[simp] theorem writeSpad_seqs (block off n x : Nat) : (writeSpad s block off n x).seqs = s.seqs := rfl
@[simp] theorem writeSpad_engines (block off n x : Nat) : (writeSpad s block off n x).engines = s.engines := rfl
@[simp] theorem writeSpad_reds (block off n x : Nat) : (writeSpad s block off n x).reds = s.reds := rfl
@[simp] theorem writeSpad_flights (block off n x : Nat) : (writeSpad s block off n x).flights = s.flights := rfl
@[simp] theorem writeSpad_bids (block off n x : Nat) : (writeSpad s block off n x).bids = s.bids := rfl
@[simp] theorem writeSpad_peers (block off n x : Nat) : (writeSpad s block off n x).peers = s.peers := rfl
@[simp] theorem writeSpad_links (block off n x : Nat) : (writeSpad s block off n x).links = s.links := rfl
@[simp] theorem writeSpad_host (block off n x : Nat) : (writeSpad s block off n x).host = s.host := rfl
@[simp] theorem writeSpad_free (block off n x : Nat) : (writeSpad s block off n x).free = s.free := rfl
@[simp] theorem writeSpad_tape (block off n x : Nat) : (writeSpad s block off n x).tape = s.tape := rfl
@[simp] theorem writeSpad_matrix (block off n x : Nat) : (writeSpad s block off n x).matrix = s.matrix := rfl
@[simp] theorem writeSpad_sections (block off n x : Nat) : (writeSpad s block off n x).sections = s.sections := rfl
@[simp] theorem writeSpad_l1 (block off n x : Nat) : (writeSpad s block off n x).l1 = s.l1 := rfl
@[simp] theorem writeSpad_rdc (block off n x : Nat) : (writeSpad s block off n x).rdc = s.rdc := rfl
@[simp] theorem writeSpad_owners (block off n x : Nat) : (writeSpad s block off n x).owners = s.owners := rfl
@[simp] theorem writeSpad_pending (block off n x : Nat) : (writeSpad s block off n x).pending = s.pending := rfl
@[simp] theorem writeSpad_monitors (block off n x : Nat) : (writeSpad s block off n x).monitors = s.monitors := rfl
@[simp] theorem writeSpad_locks (block off n x : Nat) : (writeSpad s block off n x).locks = s.locks := rfl
@[simp] theorem writeSpad_lockMsgs (block off n x : Nat) : (writeSpad s block off n x).lockMsgs = s.lockMsgs := rfl
@[simp] theorem writeSpad_trapWait (block off n x : Nat) : (writeSpad s block off n x).trapWait = s.trapWait := rfl
@[simp] theorem writeSpad_causes (block off n x : Nat) : (writeSpad s block off n x).causes = s.causes := rfl
@[simp] theorem writeSpad_ended (block off n x : Nat) : (writeSpad s block off n x).ended = s.ended := rfl
@[simp] theorem writeSpad_past (block off n x : Nat) : (writeSpad s block off n x).past = s.past := rfl
@[simp] theorem writeSpad_departed (block off n x : Nat) : (writeSpad s block off n x).departed = s.departed := rfl
@[simp] theorem writeSpad_partners (block off n x : Nat) : (writeSpad s block off n x).partners = s.partners := rfl
@[simp] theorem writeSpad_vetting (block off n x : Nat) : (writeSpad s block off n x).vetting = s.vetting := rfl
@[simp] theorem writeSpad_recvSeq (block off n x : Nat) : (writeSpad s block off n x).recvSeq = s.recvSeq := rfl
@[simp] theorem writeSpad_reorder (block off n x : Nat) : (writeSpad s block off n x).reorder = s.reorder := rfl
@[simp] theorem writeSpad_atomParts (block off n x : Nat) : (writeSpad s block off n x).atomParts = s.atomParts := rfl
@[simp] theorem writeSpad_notifies (block off n x : Nat) : (writeSpad s block off n x).notifies = s.notifies := rfl
@[simp] theorem writeSpad_holders (block off n x : Nat) : (writeSpad s block off n x).holders = s.holders := rfl
@[simp] theorem writeSpad_covered (block off n x : Nat) : (writeSpad s block off n x).covered = s.covered := rfl
@[simp] theorem writeSpad_reporting (block off n x : Nat) : (writeSpad s block off n x).reporting = s.reporting := rfl
@[simp] theorem writeSpad_pastBlocks (block off n x : Nat) : (writeSpad s block off n x).pastBlocks = s.pastBlocks := rfl
@[simp] theorem writeSpad_faulted (block off n x : Nat) : (writeSpad s block off n x).faulted = s.faulted := rfl

end

/-! What the update itself leaves in its field. -/

@[simp] theorem csrRaw_csrPut_same (s : State) (n v : Nat) (h : v < 2 ^ 64) : csrRaw (csrPut s n v) n = v := by
  have e : (BitVec.ofNat 64 v ^^^ csrReset n) ^^^ csrReset n = BitVec.ofNat 64 v := by rw [BitVec.xor_assoc, BitVec.xor_self, BitVec.xor_zero]
  rw [csrRaw, csrPut, getT_putT_same, e, BitVec.toNat_ofNat, Nat.mod_eq_of_lt h]

theorem csrRaw_csrPut_other (s : State) {n m : Nat} (v : Nat) (h : m ≠ n) : csrRaw (csrPut s n v) m = csrRaw s m := by
  simp [csrRaw, csrPut, getT_putT_other _ _ _ h]

@[simp] theorem queueOf_putQueue (s : State) (q : Nat) (x : Queue) : queueOf (putQueue s q x) q = x := by simp [queueOf, putQueue]

theorem queueOf_putQueue_other (s : State) {q r : Nat} (x : Queue) (h : r ≠ q) : queueOf (putQueue s q x) r = queueOf s r := by
  simp [queueOf, putQueue, getT_putT_other _ _ _ h]

@[simp] theorem coreStopped_setStopped (s : State) (c d : Nat) (b : Bool) :
    coreStopped (setStopped s c b) d = if d = c then b else coreStopped s d := by
  unfold coreStopped setStopped
  rw [getT_putT]
  split <;> rfl

@[simp] theorem linkOf_putLink (s : State) (l m : Nat) (x : Link) : linkOf (putLink s l x) m = if m = l then x else linkOf s m := by
  simp [linkOf, putLink, getT_putT]

@[simp] theorem peerOf_setPeer (s : State) (p q : Nat) (x : Peer) : peerOf (setPeer s p x) q = if q = p then x else peerOf s q := by
  simp [peerOf, setPeer, getT_putT]

@[simp] theorem bidOf_putBid (s : State) (ctx c : Nat) (b : BitVec 64) : bidOf (putBid s ctx c b) ctx c = b := by simp [bidOf, putBid]

@[simp] theorem l1Line_setL1 (s : State) (core line : Nat) (l : Line) : l1Line (setL1 s core line l) core line = l := by simp [l1Line, setL1]
@[simp] theorem rdcLine_setRdc (s : State) (core line : Nat) (l : Line) : rdcLine (setRdc s core line l) core line = l := by
  simp [rdcLine, setRdc]

/-- The element found by its number, after it has been changed without its number changing. -/
theorem find_mapFirst {α : Type} (key : α → Nat) (n : Nat) (f : α → α) (hf : ∀ x, key x = n → key (f x) = n) (l : List α) :
    (mapFirst (fun x => key x == n) f l).find? (fun x => key x == n) = (l.find? fun x => key x == n).map f := by
  induction l with
  | nil => rfl
  | cons a l ih =>
    by_cases h : key a = n
    · simp [mapFirst, h, hf a h]
    · simp [mapFirst, h, ih]

theorem find_mapFirst_other {α : Type} (key : α → Nat) {n m : Nat} (hm : m ≠ n) (f : α → α) (hf : ∀ x, key x = n → key (f x) = n)
    (l : List α) : (mapFirst (fun x => key x == n) f l).find? (fun x => key x == m) = l.find? fun x => key x == m := by
  induction l with
  | nil => rfl
  | cons a l ih =>
    by_cases h : key a = n
    · simp [mapFirst, h, hf a h, Ne.symm hm]
    · by_cases h2 : key a = m
      · simp [mapFirst, h2, hm]
      · simp [mapFirst, h, h2, ih]

theorem seqOf_updSeq (s : State) (id : Nat) (f : Seq → Seq) (hf : ∀ q, q.id = id → (f q).id = id) :
    seqOf (updSeq s id f) id = (seqOf s id).map f := find_mapFirst Seq.id id f hf s.seqs

theorem engineOf_updEngine (s : State) (id : Nat) (f : EngOp → EngOp) (hf : ∀ e, e.id = id → (f e).id = id) :
    engineOf (updEngine s id f) id = (engineOf s id).map f := find_mapFirst EngOp.id id f hf s.engines

theorem launchOf_updLaunch (s : State) (id : Nat) (f : Launch → Launch) (hf : ∀ l, l.id = id → (f l).id = id)
    (h : (launchOf s id).id = id) (h0 : id ≠ 0) : launchOf (updLaunch s id f) id = f (launchOf s id) := by
  unfold launchOf updLaunch at *
  rw [find_mapFirst Launch.id id f hf]
  cases e : s.launches.find? fun b => b.id == id with
  | none => rw [e] at h; exact absurd h.symm h0
  | some l => rfl

theorem gangOf_updGang (s : State) (id : Nat) (f : Gang → Gang) (hf : ∀ l, l.id = id → (f l).id = id)
    (h : (gangOf s id).id = id) (h0 : id ≠ 0) : gangOf (updGang s id f) id = f (gangOf s id) := by
  unfold gangOf updGang at *
  rw [find_mapFirst Gang.id id f hf]
  cases e : s.gangs.find? fun b => b.id == id with
  | none => rw [e] at h; exact absurd h.symm h0
  | some l => rfl

theorem blockOf_updBlock (s : State) (id : Nat) (f : Block → Block) (hf : ∀ l, l.id = id → (f l).id = id)
    (h : (blockOf s id).id = id) (h0 : id ≠ 0) : blockOf (updBlock s id f) id = f (blockOf s id) := by
  unfold blockOf updBlock at *
  rw [find_mapFirst Block.id id f hf]
  cases e : s.blocks.find? fun b => b.id == id with
  | none => rw [e] at h; exact absurd h.symm h0
  | some l => rfl

/-! Registers of a thread. -/

theorem readK_writeK (g : Group) (n m : Fin 64) (x : BitVec 64) (h : n ≠ 0) : readK (writeK g n x) m = if m = n then x else readK g m := by
  unfold readK writeK
  by_cases hm : m = 0
  · subst hm; simp [Ne.symm h]
  · by_cases e : m = n
    · subst e; simp [h]
    · have e' : n.val ≠ m.val := fun c => e (Fin.ext c.symm)
      simp [h, hm, e]
      exact Vector.getElem_set_ne _ _ e'

theorem readQ_writeQ (g : Group) (n m : Fin 8) (x : Mask) (h : n ≠ 0) : readQ (writeQ g n x) m = if m = n then x else readQ g m := by
  unfold readQ writeQ
  by_cases hm : m = 0
  · subst hm; simp [Ne.symm h]
  · by_cases e : m = n
    · subst e; simp [h]
    · have e' : n.val ≠ m.val := fun c => e (Fin.ext c.symm)
      simp [h, hm, e]
      exact Vector.getElem_set_ne _ _ e'

@[simp] theorem writeK_live (g : Group) (n : Fin 64) (x : BitVec 64) : (writeK g n x).live = g.live := by unfold writeK; split <;> rfl
@[simp] theorem writeK_tid (g : Group) (n : Fin 64) (x : BitVec 64) : (writeK g n x).tid = g.tid := by unfold writeK; split <;> rfl
@[simp] theorem writeK_core (g : Group) (n : Fin 64) (x : BitVec 64) : (writeK g n x).core = g.core := by unfold writeK; split <;> rfl
@[simp] theorem writeK_ctx (g : Group) (n : Fin 64) (x : BitVec 64) : (writeK g n x).ctx = g.ctx := by unfold writeK; split <;> rfl
@[simp] theorem writeK_priv (g : Group) (n : Fin 64) (x : BitVec 64) : (writeK g n x).priv = g.priv := by unfold writeK; split <;> rfl
@[simp] theorem writeK_launch (g : Group) (n : Fin 64) (x : BitVec 64) : (writeK g n x).launch = g.launch := by unfold writeK; split <;> rfl
@[simp] theorem writeK_gang (g : Group) (n : Fin 64) (x : BitVec 64) : (writeK g n x).gang = g.gang := by unfold writeK; split <;> rfl
@[simp] theorem writeK_block (g : Group) (n : Fin 64) (x : BitVec 64) : (writeK g n x).block = g.block := by unfold writeK; split <;> rfl
@[simp] theorem writeK_rows (g : Group) (n : Fin 64) (x : BitVec 64) : (writeK g n x).rows = g.rows := by unfold writeK; split <;> rfl
@[simp] theorem writeK_allot (g : Group) (n : Fin 64) (x : BitVec 64) : (writeK g n x).allot = g.allot := by unfold writeK; split <;> rfl
@[simp] theorem writeK_pc (g : Group) (n : Fin 64) (x : BitVec 64) : (writeK g n x).pc = g.pc := by unfold writeK; split <;> rfl
@[simp] theorem writeK_kEmpty (g : Group) (n : Fin 64) (x : BitVec 64) : (writeK g n x).kEmpty = g.kEmpty := by unfold writeK; split <;> rfl
@[simp] theorem writeK_v (g : Group) (n : Fin 64) (x : BitVec 64) : (writeK g n x).v = g.v := by unfold writeK; split <;> rfl
@[simp] theorem writeK_vEmpty (g : Group) (n : Fin 64) (x : BitVec 64) : (writeK g n x).vEmpty = g.vEmpty := by unfold writeK; split <;> rfl
@[simp] theorem writeK_vBad (g : Group) (n : Fin 64) (x : BitVec 64) : (writeK g n x).vBad = g.vBad := by unfold writeK; split <;> rfl
@[simp] theorem writeK_q (g : Group) (n : Fin 64) (x : BitVec 64) : (writeK g n x).q = g.q := by unfold writeK; split <;> rfl
@[simp] theorem writeK_qBusy (g : Group) (n : Fin 64) (x : BitVec 64) : (writeK g n x).qBusy = g.qBusy := by unfold writeK; split <;> rfl
@[simp] theorem writeK_M (g : Group) (n : Fin 64) (x : BitVec 64) : (writeK g n x).M = g.M := by unfold writeK; split <;> rfl
@[simp] theorem writeK_X (g : Group) (n : Fin 64) (x : BitVec 64) : (writeK g n x).X = g.X := by unfold writeK; split <;> rfl
@[simp] theorem writeK_fmt (g : Group) (n : Fin 64) (x : BitVec 64) : (writeK g n x).fmt = g.fmt := by unfold writeK; split <;> rfl
@[simp] theorem writeK_wv (g : Group) (n : Fin 64) (x : BitVec 64) : (writeK g n x).wv = g.wv := by unfold writeK; split <;> rfl
@[simp] theorem writeK_fpflags (g : Group) (n : Fin 64) (x : BitVec 64) : (writeK g n x).fpflags = g.fpflags := by unfold writeK; split <;> rfl
@[simp] theorem writeK_stack (g : Group) (n : Fin 64) (x : BitVec 64) : (writeK g n x).stack = g.stack := by unfold writeK; split <;> rfl
@[simp] theorem writeK_run (g : Group) (n : Fin 64) (x : BitVec 64) : (writeK g n x).run = g.run := by unfold writeK; split <;> rfl
@[simp] theorem writeK_wait (g : Group) (n : Fin 64) (x : BitVec 64) : (writeK g n x).wait = g.wait := by unfold writeK; split <;> rfl
@[simp] theorem writeK_barA (g : Group) (n : Fin 64) (x : BitVec 64) : (writeK g n x).barA = g.barA := by unfold writeK; split <;> rfl
@[simp] theorem writeK_barP (g : Group) (n : Fin 64) (x : BitVec 64) : (writeK g n x).barP = g.barP := by unfold writeK; split <;> rfl
@[simp] theorem writeK_locks (g : Group) (n : Fin 64) (x : BitVec 64) : (writeK g n x).locks = g.locks := by unfold writeK; split <;> rfl

@[simp] theorem writeQ_live (g : Group) (n : Fin 8) (x : Mask) : (writeQ g n x).live = g.live := by unfold writeQ; split <;> rfl
@[simp] theorem writeQ_tid (g : Group) (n : Fin 8) (x : Mask) : (writeQ g n x).tid = g.tid := by unfold writeQ; split <;> rfl
@[simp] theorem writeQ_core (g : Group) (n : Fin 8) (x : Mask) : (writeQ g n x).core = g.core := by unfold writeQ; split <;> rfl
@[simp] theorem writeQ_ctx (g : Group) (n : Fin 8) (x : Mask) : (writeQ g n x).ctx = g.ctx := by unfold writeQ; split <;> rfl
@[simp] theorem writeQ_priv (g : Group) (n : Fin 8) (x : Mask) : (writeQ g n x).priv = g.priv := by unfold writeQ; split <;> rfl
@[simp] theorem writeQ_launch (g : Group) (n : Fin 8) (x : Mask) : (writeQ g n x).launch = g.launch := by unfold writeQ; split <;> rfl
@[simp] theorem writeQ_gang (g : Group) (n : Fin 8) (x : Mask) : (writeQ g n x).gang = g.gang := by unfold writeQ; split <;> rfl
@[simp] theorem writeQ_block (g : Group) (n : Fin 8) (x : Mask) : (writeQ g n x).block = g.block := by unfold writeQ; split <;> rfl
@[simp] theorem writeQ_rows (g : Group) (n : Fin 8) (x : Mask) : (writeQ g n x).rows = g.rows := by unfold writeQ; split <;> rfl
@[simp] theorem writeQ_allot (g : Group) (n : Fin 8) (x : Mask) : (writeQ g n x).allot = g.allot := by unfold writeQ; split <;> rfl
@[simp] theorem writeQ_pc (g : Group) (n : Fin 8) (x : Mask) : (writeQ g n x).pc = g.pc := by unfold writeQ; split <;> rfl
@[simp] theorem writeQ_k (g : Group) (n : Fin 8) (x : Mask) : (writeQ g n x).k = g.k := by unfold writeQ; split <;> rfl
@[simp] theorem writeQ_kEmpty (g : Group) (n : Fin 8) (x : Mask) : (writeQ g n x).kEmpty = g.kEmpty := by unfold writeQ; split <;> rfl
@[simp] theorem writeQ_kBad (g : Group) (n : Fin 8) (x : Mask) : (writeQ g n x).kBad = g.kBad := by unfold writeQ; split <;> rfl
@[simp] theorem writeQ_v (g : Group) (n : Fin 8) (x : Mask) : (writeQ g n x).v = g.v := by unfold writeQ; split <;> rfl
@[simp] theorem writeQ_vEmpty (g : Group) (n : Fin 8) (x : Mask) : (writeQ g n x).vEmpty = g.vEmpty := by unfold writeQ; split <;> rfl
@[simp] theorem writeQ_vBad (g : Group) (n : Fin 8) (x : Mask) : (writeQ g n x).vBad = g.vBad := by unfold writeQ; split <;> rfl
@[simp] theorem writeQ_qBusy (g : Group) (n : Fin 8) (x : Mask) : (writeQ g n x).qBusy = g.qBusy := by unfold writeQ; split <;> rfl
@[simp] theorem writeQ_M (g : Group) (n : Fin 8) (x : Mask) : (writeQ g n x).M = g.M := by unfold writeQ; split <;> rfl
@[simp] theorem writeQ_X (g : Group) (n : Fin 8) (x : Mask) : (writeQ g n x).X = g.X := by unfold writeQ; split <;> rfl
@[simp] theorem writeQ_fmt (g : Group) (n : Fin 8) (x : Mask) : (writeQ g n x).fmt = g.fmt := by unfold writeQ; split <;> rfl
@[simp] theorem writeQ_wv (g : Group) (n : Fin 8) (x : Mask) : (writeQ g n x).wv = g.wv := by unfold writeQ; split <;> rfl
@[simp] theorem writeQ_fpflags (g : Group) (n : Fin 8) (x : Mask) : (writeQ g n x).fpflags = g.fpflags := by unfold writeQ; split <;> rfl
@[simp] theorem writeQ_stack (g : Group) (n : Fin 8) (x : Mask) : (writeQ g n x).stack = g.stack := by unfold writeQ; split <;> rfl
@[simp] theorem writeQ_run (g : Group) (n : Fin 8) (x : Mask) : (writeQ g n x).run = g.run := by unfold writeQ; split <;> rfl
@[simp] theorem writeQ_wait (g : Group) (n : Fin 8) (x : Mask) : (writeQ g n x).wait = g.wait := by unfold writeQ; split <;> rfl
@[simp] theorem writeQ_barA (g : Group) (n : Fin 8) (x : Mask) : (writeQ g n x).barA = g.barA := by unfold writeQ; split <;> rfl
@[simp] theorem writeQ_barP (g : Group) (n : Fin 8) (x : Mask) : (writeQ g n x).barP = g.barP := by unfold writeQ; split <;> rfl
@[simp] theorem writeQ_locks (g : Group) (n : Fin 8) (x : Mask) : (writeQ g n x).locks = g.locks := by unfold writeQ; split <;> rfl

@[simp] theorem setKEmpty_live (g : Group) (n : Fin 64) (e : Bool) : (setKEmpty g n e).live = g.live := by unfold setKEmpty; split <;> rfl
@[simp] theorem setKEmpty_tid (g : Group) (n : Fin 64) (e : Bool) : (setKEmpty g n e).tid = g.tid := by unfold setKEmpty; split <;> rfl
@[simp] theorem setKEmpty_core (g : Group) (n : Fin 64) (e : Bool) : (setKEmpty g n e).core = g.core := by unfold setKEmpty; split <;> rfl
@[simp] theorem setKEmpty_ctx (g : Group) (n : Fin 64) (e : Bool) : (setKEmpty g n e).ctx = g.ctx := by unfold setKEmpty; split <;> rfl
@[simp] theorem setKEmpty_priv (g : Group) (n : Fin 64) (e : Bool) : (setKEmpty g n e).priv = g.priv := by unfold setKEmpty; split <;> rfl
@[simp] theorem setKEmpty_launch (g : Group) (n : Fin 64) (e : Bool) : (setKEmpty g n e).launch = g.launch := by unfold setKEmpty; split <;> rfl
@[simp] theorem setKEmpty_gang (g : Group) (n : Fin 64) (e : Bool) : (setKEmpty g n e).gang = g.gang := by unfold setKEmpty; split <;> rfl
@[simp] theorem setKEmpty_block (g : Group) (n : Fin 64) (e : Bool) : (setKEmpty g n e).block = g.block := by unfold setKEmpty; split <;> rfl
@[simp] theorem setKEmpty_rows (g : Group) (n : Fin 64) (e : Bool) : (setKEmpty g n e).rows = g.rows := by unfold setKEmpty; split <;> rfl
@[simp] theorem setKEmpty_allot (g : Group) (n : Fin 64) (e : Bool) : (setKEmpty g n e).allot = g.allot := by unfold setKEmpty; split <;> rfl
@[simp] theorem setKEmpty_pc (g : Group) (n : Fin 64) (e : Bool) : (setKEmpty g n e).pc = g.pc := by unfold setKEmpty; split <;> rfl
@[simp] theorem setKEmpty_k (g : Group) (n : Fin 64) (e : Bool) : (setKEmpty g n e).k = g.k := by unfold setKEmpty; split <;> rfl
@[simp] theorem setKEmpty_kBad (g : Group) (n : Fin 64) (e : Bool) : (setKEmpty g n e).kBad = g.kBad := by unfold setKEmpty; split <;> rfl
@[simp] theorem setKEmpty_v (g : Group) (n : Fin 64) (e : Bool) : (setKEmpty g n e).v = g.v := by unfold setKEmpty; split <;> rfl
@[simp] theorem setKEmpty_vEmpty (g : Group) (n : Fin 64) (e : Bool) : (setKEmpty g n e).vEmpty = g.vEmpty := by unfold setKEmpty; split <;> rfl
@[simp] theorem setKEmpty_vBad (g : Group) (n : Fin 64) (e : Bool) : (setKEmpty g n e).vBad = g.vBad := by unfold setKEmpty; split <;> rfl
@[simp] theorem setKEmpty_q (g : Group) (n : Fin 64) (e : Bool) : (setKEmpty g n e).q = g.q := by unfold setKEmpty; split <;> rfl
@[simp] theorem setKEmpty_qBusy (g : Group) (n : Fin 64) (e : Bool) : (setKEmpty g n e).qBusy = g.qBusy := by unfold setKEmpty; split <;> rfl
@[simp] theorem setKEmpty_M (g : Group) (n : Fin 64) (e : Bool) : (setKEmpty g n e).M = g.M := by unfold setKEmpty; split <;> rfl
@[simp] theorem setKEmpty_X (g : Group) (n : Fin 64) (e : Bool) : (setKEmpty g n e).X = g.X := by unfold setKEmpty; split <;> rfl
@[simp] theorem setKEmpty_fmt (g : Group) (n : Fin 64) (e : Bool) : (setKEmpty g n e).fmt = g.fmt := by unfold setKEmpty; split <;> rfl
@[simp] theorem setKEmpty_wv (g : Group) (n : Fin 64) (e : Bool) : (setKEmpty g n e).wv = g.wv := by unfold setKEmpty; split <;> rfl
@[simp] theorem setKEmpty_fpflags (g : Group) (n : Fin 64) (e : Bool) : (setKEmpty g n e).fpflags = g.fpflags := by unfold setKEmpty; split <;> rfl
@[simp] theorem setKEmpty_stack (g : Group) (n : Fin 64) (e : Bool) : (setKEmpty g n e).stack = g.stack := by unfold setKEmpty; split <;> rfl
@[simp] theorem setKEmpty_run (g : Group) (n : Fin 64) (e : Bool) : (setKEmpty g n e).run = g.run := by unfold setKEmpty; split <;> rfl
@[simp] theorem setKEmpty_wait (g : Group) (n : Fin 64) (e : Bool) : (setKEmpty g n e).wait = g.wait := by unfold setKEmpty; split <;> rfl
@[simp] theorem setKEmpty_barA (g : Group) (n : Fin 64) (e : Bool) : (setKEmpty g n e).barA = g.barA := by unfold setKEmpty; split <;> rfl
@[simp] theorem setKEmpty_barP (g : Group) (n : Fin 64) (e : Bool) : (setKEmpty g n e).barP = g.barP := by unfold setKEmpty; split <;> rfl
@[simp] theorem setKEmpty_locks (g : Group) (n : Fin 64) (e : Bool) : (setKEmpty g n e).locks = g.locks := by unfold setKEmpty; split <;> rfl

@[simp] theorem setRows_live (g : Group) (phys : Nat) (rows : BitVec 16) (e : Bool) : (setRows g phys rows e).live = g.live := rfl
@[simp] theorem setRows_tid (g : Group) (phys : Nat) (rows : BitVec 16) (e : Bool) : (setRows g phys rows e).tid = g.tid := rfl
@[simp] theorem setRows_core (g : Group) (phys : Nat) (rows : BitVec 16) (e : Bool) : (setRows g phys rows e).core = g.core := rfl
@[simp] theorem setRows_ctx (g : Group) (phys : Nat) (rows : BitVec 16) (e : Bool) : (setRows g phys rows e).ctx = g.ctx := rfl
@[simp] theorem setRows_priv (g : Group) (phys : Nat) (rows : BitVec 16) (e : Bool) : (setRows g phys rows e).priv = g.priv := rfl
@[simp] theorem setRows_launch (g : Group) (phys : Nat) (rows : BitVec 16) (e : Bool) : (setRows g phys rows e).launch = g.launch := rfl
@[simp] theorem setRows_gang (g : Group) (phys : Nat) (rows : BitVec 16) (e : Bool) : (setRows g phys rows e).gang = g.gang := rfl
@[simp] theorem setRows_block (g : Group) (phys : Nat) (rows : BitVec 16) (e : Bool) : (setRows g phys rows e).block = g.block := rfl
@[simp] theorem setRows_rows (g : Group) (phys : Nat) (rows : BitVec 16) (e : Bool) : (setRows g phys rows e).rows = g.rows := rfl
@[simp] theorem setRows_allot (g : Group) (phys : Nat) (rows : BitVec 16) (e : Bool) : (setRows g phys rows e).allot = g.allot := rfl
@[simp] theorem setRows_pc (g : Group) (phys : Nat) (rows : BitVec 16) (e : Bool) : (setRows g phys rows e).pc = g.pc := rfl
@[simp] theorem setRows_k (g : Group) (phys : Nat) (rows : BitVec 16) (e : Bool) : (setRows g phys rows e).k = g.k := rfl
@[simp] theorem setRows_kEmpty (g : Group) (phys : Nat) (rows : BitVec 16) (e : Bool) : (setRows g phys rows e).kEmpty = g.kEmpty := rfl
@[simp] theorem setRows_kBad (g : Group) (phys : Nat) (rows : BitVec 16) (e : Bool) : (setRows g phys rows e).kBad = g.kBad := rfl
@[simp] theorem setRows_v (g : Group) (phys : Nat) (rows : BitVec 16) (e : Bool) : (setRows g phys rows e).v = g.v := rfl
@[simp] theorem setRows_vBad (g : Group) (phys : Nat) (rows : BitVec 16) (e : Bool) : (setRows g phys rows e).vBad = g.vBad := rfl
@[simp] theorem setRows_q (g : Group) (phys : Nat) (rows : BitVec 16) (e : Bool) : (setRows g phys rows e).q = g.q := rfl
@[simp] theorem setRows_qBusy (g : Group) (phys : Nat) (rows : BitVec 16) (e : Bool) : (setRows g phys rows e).qBusy = g.qBusy := rfl
@[simp] theorem setRows_M (g : Group) (phys : Nat) (rows : BitVec 16) (e : Bool) : (setRows g phys rows e).M = g.M := rfl
@[simp] theorem setRows_X (g : Group) (phys : Nat) (rows : BitVec 16) (e : Bool) : (setRows g phys rows e).X = g.X := rfl
@[simp] theorem setRows_fmt (g : Group) (phys : Nat) (rows : BitVec 16) (e : Bool) : (setRows g phys rows e).fmt = g.fmt := rfl
@[simp] theorem setRows_wv (g : Group) (phys : Nat) (rows : BitVec 16) (e : Bool) : (setRows g phys rows e).wv = g.wv := rfl
@[simp] theorem setRows_fpflags (g : Group) (phys : Nat) (rows : BitVec 16) (e : Bool) : (setRows g phys rows e).fpflags = g.fpflags := rfl
@[simp] theorem setRows_stack (g : Group) (phys : Nat) (rows : BitVec 16) (e : Bool) : (setRows g phys rows e).stack = g.stack := rfl
@[simp] theorem setRows_run (g : Group) (phys : Nat) (rows : BitVec 16) (e : Bool) : (setRows g phys rows e).run = g.run := rfl
@[simp] theorem setRows_wait (g : Group) (phys : Nat) (rows : BitVec 16) (e : Bool) : (setRows g phys rows e).wait = g.wait := rfl
@[simp] theorem setRows_barA (g : Group) (phys : Nat) (rows : BitVec 16) (e : Bool) : (setRows g phys rows e).barA = g.barA := rfl
@[simp] theorem setRows_barP (g : Group) (phys : Nat) (rows : BitVec 16) (e : Bool) : (setRows g phys rows e).barP = g.barP := rfl
@[simp] theorem setRows_locks (g : Group) (phys : Nat) (rows : BitVec 16) (e : Bool) : (setRows g phys rows e).locks = g.locks := rfl

@[simp] theorem writeLanes_live (g : Group) (phys : Nat) (xs : List (Nat × BitVec 64)) : (writeLanes g phys xs).live = g.live := rfl
@[simp] theorem writeLanes_tid (g : Group) (phys : Nat) (xs : List (Nat × BitVec 64)) : (writeLanes g phys xs).tid = g.tid := rfl
@[simp] theorem writeLanes_core (g : Group) (phys : Nat) (xs : List (Nat × BitVec 64)) : (writeLanes g phys xs).core = g.core := rfl
@[simp] theorem writeLanes_ctx (g : Group) (phys : Nat) (xs : List (Nat × BitVec 64)) : (writeLanes g phys xs).ctx = g.ctx := rfl
@[simp] theorem writeLanes_priv (g : Group) (phys : Nat) (xs : List (Nat × BitVec 64)) : (writeLanes g phys xs).priv = g.priv := rfl
@[simp] theorem writeLanes_launch (g : Group) (phys : Nat) (xs : List (Nat × BitVec 64)) : (writeLanes g phys xs).launch = g.launch := rfl
@[simp] theorem writeLanes_gang (g : Group) (phys : Nat) (xs : List (Nat × BitVec 64)) : (writeLanes g phys xs).gang = g.gang := rfl
@[simp] theorem writeLanes_block (g : Group) (phys : Nat) (xs : List (Nat × BitVec 64)) : (writeLanes g phys xs).block = g.block := rfl
@[simp] theorem writeLanes_rows (g : Group) (phys : Nat) (xs : List (Nat × BitVec 64)) : (writeLanes g phys xs).rows = g.rows := rfl
@[simp] theorem writeLanes_allot (g : Group) (phys : Nat) (xs : List (Nat × BitVec 64)) : (writeLanes g phys xs).allot = g.allot := rfl
@[simp] theorem writeLanes_pc (g : Group) (phys : Nat) (xs : List (Nat × BitVec 64)) : (writeLanes g phys xs).pc = g.pc := rfl
@[simp] theorem writeLanes_k (g : Group) (phys : Nat) (xs : List (Nat × BitVec 64)) : (writeLanes g phys xs).k = g.k := rfl
@[simp] theorem writeLanes_kEmpty (g : Group) (phys : Nat) (xs : List (Nat × BitVec 64)) : (writeLanes g phys xs).kEmpty = g.kEmpty := rfl
@[simp] theorem writeLanes_kBad (g : Group) (phys : Nat) (xs : List (Nat × BitVec 64)) : (writeLanes g phys xs).kBad = g.kBad := rfl
@[simp] theorem writeLanes_vEmpty (g : Group) (phys : Nat) (xs : List (Nat × BitVec 64)) : (writeLanes g phys xs).vEmpty = g.vEmpty := rfl
@[simp] theorem writeLanes_q (g : Group) (phys : Nat) (xs : List (Nat × BitVec 64)) : (writeLanes g phys xs).q = g.q := rfl
@[simp] theorem writeLanes_qBusy (g : Group) (phys : Nat) (xs : List (Nat × BitVec 64)) : (writeLanes g phys xs).qBusy = g.qBusy := rfl
@[simp] theorem writeLanes_M (g : Group) (phys : Nat) (xs : List (Nat × BitVec 64)) : (writeLanes g phys xs).M = g.M := rfl
@[simp] theorem writeLanes_X (g : Group) (phys : Nat) (xs : List (Nat × BitVec 64)) : (writeLanes g phys xs).X = g.X := rfl
@[simp] theorem writeLanes_fmt (g : Group) (phys : Nat) (xs : List (Nat × BitVec 64)) : (writeLanes g phys xs).fmt = g.fmt := rfl
@[simp] theorem writeLanes_wv (g : Group) (phys : Nat) (xs : List (Nat × BitVec 64)) : (writeLanes g phys xs).wv = g.wv := rfl
@[simp] theorem writeLanes_fpflags (g : Group) (phys : Nat) (xs : List (Nat × BitVec 64)) : (writeLanes g phys xs).fpflags = g.fpflags := rfl
@[simp] theorem writeLanes_stack (g : Group) (phys : Nat) (xs : List (Nat × BitVec 64)) : (writeLanes g phys xs).stack = g.stack := rfl
@[simp] theorem writeLanes_run (g : Group) (phys : Nat) (xs : List (Nat × BitVec 64)) : (writeLanes g phys xs).run = g.run := rfl
@[simp] theorem writeLanes_wait (g : Group) (phys : Nat) (xs : List (Nat × BitVec 64)) : (writeLanes g phys xs).wait = g.wait := rfl
@[simp] theorem writeLanes_barA (g : Group) (phys : Nat) (xs : List (Nat × BitVec 64)) : (writeLanes g phys xs).barA = g.barA := rfl
@[simp] theorem writeLanes_barP (g : Group) (phys : Nat) (xs : List (Nat × BitVec 64)) : (writeLanes g phys xs).barP = g.barP := rfl
@[simp] theorem writeLanes_locks (g : Group) (phys : Nat) (xs : List (Nat × BitVec 64)) : (writeLanes g phys xs).locks = g.locks := rfl

@[simp] theorem afterHints_live (g : Group) : (afterHints g).live = g.live := by
  unfold afterHints; split
  · rfl
  · split <;> rfl
@[simp] theorem afterHints_tid (g : Group) : (afterHints g).tid = g.tid := by
  unfold afterHints; split
  · rfl
  · split <;> rfl
@[simp] theorem afterHints_core (g : Group) : (afterHints g).core = g.core := by
  unfold afterHints; split
  · rfl
  · split <;> rfl
@[simp] theorem afterHints_ctx (g : Group) : (afterHints g).ctx = g.ctx := by
  unfold afterHints; split
  · rfl
  · split <;> rfl
@[simp] theorem afterHints_priv (g : Group) : (afterHints g).priv = g.priv := by
  unfold afterHints; split
  · rfl
  · split <;> rfl
@[simp] theorem afterHints_launch (g : Group) : (afterHints g).launch = g.launch := by
  unfold afterHints; split
  · rfl
  · split <;> rfl
@[simp] theorem afterHints_gang (g : Group) : (afterHints g).gang = g.gang := by
  unfold afterHints; split
  · rfl
  · split <;> rfl
@[simp] theorem afterHints_block (g : Group) : (afterHints g).block = g.block := by
  unfold afterHints; split
  · rfl
  · split <;> rfl
@[simp] theorem afterHints_rows (g : Group) : (afterHints g).rows = g.rows := by
  unfold afterHints; split
  · rfl
  · split <;> rfl
@[simp] theorem afterHints_allot (g : Group) : (afterHints g).allot = g.allot := by
  unfold afterHints; split
  · rfl
  · split <;> rfl
@[simp] theorem afterHints_pc (g : Group) : (afterHints g).pc = g.pc := by
  unfold afterHints; split
  · rfl
  · split <;> rfl
@[simp] theorem afterHints_k (g : Group) : (afterHints g).k = g.k := by
  unfold afterHints; split
  · rfl
  · split <;> rfl
@[simp] theorem afterHints_kEmpty (g : Group) : (afterHints g).kEmpty = g.kEmpty := by
  unfold afterHints; split
  · rfl
  · split <;> rfl
@[simp] theorem afterHints_kBad (g : Group) : (afterHints g).kBad = g.kBad := by
  unfold afterHints; split
  · rfl
  · split <;> rfl
@[simp] theorem afterHints_v (g : Group) : (afterHints g).v = g.v := by
  unfold afterHints; split
  · rfl
  · split <;> rfl
@[simp] theorem afterHints_vEmpty (g : Group) : (afterHints g).vEmpty = g.vEmpty := by
  unfold afterHints; split
  · rfl
  · split <;> rfl
@[simp] theorem afterHints_vBad (g : Group) : (afterHints g).vBad = g.vBad := by
  unfold afterHints; split
  · rfl
  · split <;> rfl
@[simp] theorem afterHints_q (g : Group) : (afterHints g).q = g.q := by
  unfold afterHints; split
  · rfl
  · split <;> rfl
@[simp] theorem afterHints_qBusy (g : Group) : (afterHints g).qBusy = g.qBusy := by
  unfold afterHints; split
  · rfl
  · split <;> rfl
@[simp] theorem afterHints_M (g : Group) : (afterHints g).M = g.M := by
  unfold afterHints; split
  · rfl
  · split <;> rfl
@[simp] theorem afterHints_X (g : Group) : (afterHints g).X = g.X := by
  unfold afterHints; split
  · rfl
  · split <;> rfl
@[simp] theorem afterHints_fmt (g : Group) : (afterHints g).fmt = g.fmt := by
  unfold afterHints; split
  · rfl
  · split <;> rfl
@[simp] theorem afterHints_wv (g : Group) : (afterHints g).wv = g.wv := by
  unfold afterHints; split
  · rfl
  · split <;> rfl
@[simp] theorem afterHints_fpflags (g : Group) : (afterHints g).fpflags = g.fpflags := by
  unfold afterHints; split
  · rfl
  · split <;> rfl
@[simp] theorem afterHints_stack (g : Group) : (afterHints g).stack = g.stack := by
  unfold afterHints; split
  · rfl
  · split <;> rfl
@[simp] theorem afterHints_wait (g : Group) : (afterHints g).wait = g.wait := by
  unfold afterHints; split
  · rfl
  · split <;> rfl
@[simp] theorem afterHints_barA (g : Group) : (afterHints g).barA = g.barA := by
  unfold afterHints; split
  · rfl
  · split <;> rfl
@[simp] theorem afterHints_barP (g : Group) : (afterHints g).barP = g.barP := by
  unfold afterHints; split
  · rfl
  · split <;> rfl
@[simp] theorem afterHints_locks (g : Group) : (afterHints g).locks = g.locks := by
  unfold afterHints; split
  · rfl
  · split <;> rfl
@[simp] theorem afterHints_run (g : Group) : (afterHints g).run = [] := by
  unfold afterHints; split
  · rfl
  · split <;> rfl

@[simp] theorem advance_live (g : Group)  : (advance g).live = g.live := by simp [advance]
@[simp] theorem advance_tid (g : Group)  : (advance g).tid = g.tid := by simp [advance]
@[simp] theorem advance_core (g : Group)  : (advance g).core = g.core := by simp [advance]
@[simp] theorem advance_ctx (g : Group)  : (advance g).ctx = g.ctx := by simp [advance]
@[simp] theorem advance_priv (g : Group)  : (advance g).priv = g.priv := by simp [advance]
@[simp] theorem advance_launch (g : Group)  : (advance g).launch = g.launch := by simp [advance]
@[simp] theorem advance_gang (g : Group)  : (advance g).gang = g.gang := by simp [advance]
@[simp] theorem advance_block (g : Group)  : (advance g).block = g.block := by simp [advance]
@[simp] theorem advance_rows (g : Group)  : (advance g).rows = g.rows := by simp [advance]
@[simp] theorem advance_allot (g : Group)  : (advance g).allot = g.allot := by simp [advance]
@[simp] theorem advance_pc (g : Group)  : (advance g).pc = g.pc + 4 := by simp [advance]
@[simp] theorem advance_k (g : Group)  : (advance g).k = g.k := by simp [advance]
@[simp] theorem advance_kEmpty (g : Group)  : (advance g).kEmpty = g.kEmpty := by simp [advance]
@[simp] theorem advance_kBad (g : Group)  : (advance g).kBad = g.kBad := by simp [advance]
@[simp] theorem advance_v (g : Group)  : (advance g).v = g.v := by simp [advance]
@[simp] theorem advance_vEmpty (g : Group)  : (advance g).vEmpty = g.vEmpty := by simp [advance]
@[simp] theorem advance_vBad (g : Group)  : (advance g).vBad = g.vBad := by simp [advance]
@[simp] theorem advance_q (g : Group)  : (advance g).q = g.q := by simp [advance]
@[simp] theorem advance_qBusy (g : Group)  : (advance g).qBusy = g.qBusy := by simp [advance]
@[simp] theorem advance_M (g : Group)  : (advance g).M = g.M := by simp [advance]
@[simp] theorem advance_X (g : Group)  : (advance g).X = g.X := by simp [advance]
@[simp] theorem advance_fmt (g : Group)  : (advance g).fmt = g.fmt := by simp [advance]
@[simp] theorem advance_wv (g : Group)  : (advance g).wv = g.wv := by simp [advance]
@[simp] theorem advance_fpflags (g : Group)  : (advance g).fpflags = g.fpflags := by simp [advance]
@[simp] theorem advance_stack (g : Group)  : (advance g).stack = g.stack := by simp [advance]
@[simp] theorem advance_run (g : Group)  : (advance g).run = [] := by simp [advance]
@[simp] theorem advance_wait (g : Group)  : (advance g).wait = g.wait := by simp [advance]
@[simp] theorem advance_barA (g : Group)  : (advance g).barA = g.barA := by simp [advance]
@[simp] theorem advance_barP (g : Group)  : (advance g).barP = g.barP := by simp [advance]
@[simp] theorem advance_locks (g : Group)  : (advance g).locks = g.locks := by simp [advance]

@[simp] theorem jumpTo_live (g : Group) (t : Nat) : (jumpTo g t).live = g.live := by simp [jumpTo]
@[simp] theorem jumpTo_tid (g : Group) (t : Nat) : (jumpTo g t).tid = g.tid := by simp [jumpTo]
@[simp] theorem jumpTo_core (g : Group) (t : Nat) : (jumpTo g t).core = g.core := by simp [jumpTo]
@[simp] theorem jumpTo_ctx (g : Group) (t : Nat) : (jumpTo g t).ctx = g.ctx := by simp [jumpTo]
@[simp] theorem jumpTo_priv (g : Group) (t : Nat) : (jumpTo g t).priv = g.priv := by simp [jumpTo]
@[simp] theorem jumpTo_launch (g : Group) (t : Nat) : (jumpTo g t).launch = g.launch := by simp [jumpTo]
@[simp] theorem jumpTo_gang (g : Group) (t : Nat) : (jumpTo g t).gang = g.gang := by simp [jumpTo]
@[simp] theorem jumpTo_block (g : Group) (t : Nat) : (jumpTo g t).block = g.block := by simp [jumpTo]
@[simp] theorem jumpTo_rows (g : Group) (t : Nat) : (jumpTo g t).rows = g.rows := by simp [jumpTo]
@[simp] theorem jumpTo_allot (g : Group) (t : Nat) : (jumpTo g t).allot = g.allot := by simp [jumpTo]
@[simp] theorem jumpTo_pc (g : Group) (t : Nat) : (jumpTo g t).pc = t := by simp [jumpTo]
@[simp] theorem jumpTo_k (g : Group) (t : Nat) : (jumpTo g t).k = g.k := by simp [jumpTo]
@[simp] theorem jumpTo_kEmpty (g : Group) (t : Nat) : (jumpTo g t).kEmpty = g.kEmpty := by simp [jumpTo]
@[simp] theorem jumpTo_kBad (g : Group) (t : Nat) : (jumpTo g t).kBad = g.kBad := by simp [jumpTo]
@[simp] theorem jumpTo_v (g : Group) (t : Nat) : (jumpTo g t).v = g.v := by simp [jumpTo]
@[simp] theorem jumpTo_vEmpty (g : Group) (t : Nat) : (jumpTo g t).vEmpty = g.vEmpty := by simp [jumpTo]
@[simp] theorem jumpTo_vBad (g : Group) (t : Nat) : (jumpTo g t).vBad = g.vBad := by simp [jumpTo]
@[simp] theorem jumpTo_q (g : Group) (t : Nat) : (jumpTo g t).q = g.q := by simp [jumpTo]
@[simp] theorem jumpTo_qBusy (g : Group) (t : Nat) : (jumpTo g t).qBusy = g.qBusy := by simp [jumpTo]
@[simp] theorem jumpTo_M (g : Group) (t : Nat) : (jumpTo g t).M = g.M := by simp [jumpTo]
@[simp] theorem jumpTo_X (g : Group) (t : Nat) : (jumpTo g t).X = g.X := by simp [jumpTo]
@[simp] theorem jumpTo_fmt (g : Group) (t : Nat) : (jumpTo g t).fmt = g.fmt := by simp [jumpTo]
@[simp] theorem jumpTo_wv (g : Group) (t : Nat) : (jumpTo g t).wv = g.wv := by simp [jumpTo]
@[simp] theorem jumpTo_fpflags (g : Group) (t : Nat) : (jumpTo g t).fpflags = g.fpflags := by simp [jumpTo]
@[simp] theorem jumpTo_stack (g : Group) (t : Nat) : (jumpTo g t).stack = g.stack := by simp [jumpTo]
@[simp] theorem jumpTo_run (g : Group) (t : Nat) : (jumpTo g t).run = [] := by simp [jumpTo]
@[simp] theorem jumpTo_wait (g : Group) (t : Nat) : (jumpTo g t).wait = g.wait := by simp [jumpTo]
@[simp] theorem jumpTo_barA (g : Group) (t : Nat) : (jumpTo g t).barA = g.barA := by simp [jumpTo]
@[simp] theorem jumpTo_barP (g : Group) (t : Nat) : (jumpTo g t).barP = g.barP := by simp [jumpTo]
@[simp] theorem jumpTo_locks (g : Group) (t : Nat) : (jumpTo g t).locks = g.locks := by simp [jumpTo]

/-- An instruction that has issued and goes on at the next word, as the statements say it. -/
theorem finish_moves (s : State) (g : Group) : ∃ t, finish s g = .next t ∧ MovesTo s t g (g.pc + 4) := by
  refine ⟨_, rfl, ?_, ?_⟩
  · simp only [countIssue, advance]
    unfold afterHints
    split
    · rfl
    · split <;> rfl
  · simp only [countIssue, mapIf, List.map_map]
    apply List.map_congr_left
    intro w _
    simp only [Function.comp]
    split <;> rfl

/-- An instruction that has issued and moves control. -/
theorem finishAt_moves (s : State) (g : Group) (pc : Nat) : ∃ t, finishAt s g pc = .next t ∧ MovesTo s t g pc := by
  refine ⟨_, rfl, ?_, ?_⟩
  · simp only [countIssue, jumpTo]
    unfold afterHints
    split
    · rfl
    · split <;> rfl
  · simp only [countIssue, mapIf, List.map_map]
    apply List.map_congr_left
    intro w _
    simp only [Function.comp]
    split <;> rfl

end Sys2Proof.Machine
end

