-- ==== Sys2Proof/Laws/Memory.lean ====
section
/-! SUPPORT. What the operations on memory and its caches can change, that each keeps the canonical form, and what reads give after
them. -/
namespace Sys2Proof.Machine

/-! The footprint of a memory operation: two states that differ there alone have one `pastMemory`. A field outside it is read off with
`congrArg`. -/

/-- The state without what an operation at the home may change. -/
def pastMemory (s : State) : State :=
  { s with mem := [], l1 := [], rdc := [], owners := [], oldCode := [], monitors := [], trapWait := [] }

/-- What filling a cache may change besides: room is made by a free choice, and a peer is told of a line that has left. -/
def pastFill (s : State) : State := { pastMemory s with free := 0, sent := [], sendSeq := [], kept := [], outbox := [] }

theorem pastFill_of {s t : State} (h : pastMemory s = pastMemory t) : pastFill s = pastFill t := by
  unfold pastFill
  rw [h]

theorem foldl_same {α β γ : Type} (key : α → γ) (f : α → β → α) (h : ∀ a b, key (f a b) = key a) (l : List β) (a : α) :
    key (l.foldl f a) = key a := by
  induction l generalizing a with
  | nil => rfl
  | cons b l ih => rw [List.foldl_cons, ih, h]

theorem foldl_keeps {α β : Type} (P : α → Prop) (f : α → β → α) (h : ∀ a b, P a → P (f a b)) (l : List β) (a : α) (ha : P a) :
    P (l.foldl f a) := by
  induction l generalizing a with
  | nil => exact ha
  | cons b l ih => exact ih _ (h _ _ ha)

theorem pastMemory_noteWrite (s : State) (pa n : Nat) : pastMemory (noteWrite s pa n) = pastMemory s := rfl

theorem pastMemory_mem (s : State) (m : Cells) : pastMemory { s with mem := m } = pastMemory s := rfl

theorem pastMemory_wakeLine (s : State) (line : Nat) : pastMemory (wakeLine s line) = pastMemory s := rfl
theorem pastMemory_setL1 (s : State) (c n : Nat) (l : Line) : pastMemory (setL1 s c n l) = pastMemory s := rfl
theorem pastMemory_setRdc (s : State) (c n : Nat) (l : Line) : pastMemory (setRdc s c n l) = pastMemory s := rfl
theorem pastMemory_dropWord (s : State) (core w : Nat) : pastMemory (dropWord s core w) = pastMemory s := rfl

theorem noteLoss_is (s : State) (core line : Nat) : ∃ w, noteLoss s core line = { s with trapWait := w } := by
  have h : ∃ r : Record, noteLoss s core line = if s.trapWait.contains r then s else { s with trapWait := s.trapWait ++ [r] } := ⟨_, rfl⟩
  obtain ⟨r, e⟩ := h
  rw [e]
  split
  · exact ⟨s.trapWait, rfl⟩
  · exact ⟨_, rfl⟩

theorem pastMemory_noteLoss (s : State) (core line : Nat) : pastMemory (noteLoss s core line) = pastMemory s := by
  obtain ⟨w, e⟩ := noteLoss_is s core line
  rw [e]
  rfl

theorem noteLoss_mem (s : State) (core line : Nat) : (noteLoss s core line).mem = s.mem := by
  obtain ⟨w, e⟩ := noteLoss_is s core line
  rw [e]

theorem noteLoss_owners (s : State) (core line : Nat) : (noteLoss s core line).owners = s.owners := by
  obtain ⟨w, e⟩ := noteLoss_is s core line
  rw [e]

theorem dropWord_mem (s : State) (core w : Nat) : (dropWord s core w).mem = s.mem := rfl
theorem dropWord_owners (s : State) (core w : Nat) : (dropWord s core w).owners = s.owners := rfl

/-- All that a recall can do: nothing, the loss of a word that an error has hit, or the word's bytes reaching memory. -/
theorem recallWord_cases (s : State) (w : Nat) :
    recallWord s w = s
      ∨ (ownerOf s w ≠ 0 ∧ recallWord s w = noteLoss (dropWord s (ownerOf s w - 1) w) (ownerOf s w - 1) (w / 32))
      ∨ (ownerOf s w ≠ 0 ∧ ∃ l : Line, recallWord s w = setL1 { s with mem := [0, 1, 2, 3].foldl (fun m i =>
          if (heldBytes (l1Line s (ownerOf s w - 1) (w / 32))).getLsbD (w % 32 * 4 + i) then
            writeByte m (w * 4 + i) (BitVec.ofNat 8 (lineRead (l1Line s (ownerOf s w - 1) (w / 32)) (w % 32 * 4 + i) 1)) else m) s.mem }
          (ownerOf s w - 1) (w / 32) l) := by
  unfold recallWord
  dsimp only
  split
  · exact .inl rfl
  · rename_i h
    have h0 : ownerOf s w ≠ 0 := fun c => h (.inl c)
    split
    · exact .inr (.inl ⟨h0, rfl⟩)
    · exact .inr (.inr ⟨h0, _, rfl⟩)

theorem pastMemory_recallWord (s : State) (w : Nat) : pastMemory (recallWord s w) = pastMemory s := by
  rcases recallWord_cases s w with e | ⟨_, e⟩ | ⟨_, l, e⟩
  · rw [e]
  · rw [e, pastMemory_noteLoss, pastMemory_dropWord]
  · rw [e, pastMemory_setL1, pastMemory_mem]

theorem recallWord_owners (s : State) (w : Nat) : (recallWord s w).owners = s.owners := by
  rcases recallWord_cases s w with e | ⟨_, e⟩ | ⟨_, l, e⟩
  · rw [e]
  · rw [e, noteLoss_owners, dropWord_owners]
  · rw [e]; rfl

theorem pastMemory_owners (s : State) (m : Table Nat) : pastMemory { s with owners := m } = pastMemory s := rfl

theorem pastMemory_revokeWord (s : State) (w : Nat) : pastMemory (revokeWord s w) = pastMemory s := by
  by_cases h : ownerOf s w = 0
  · rw [revokeWord, if_pos h]
  · rw [revokeWord, if_neg h]
    exact (pastMemory_owners _ _).trans ((pastMemory_dropWord _ _ _).trans (pastMemory_recallWord s w))

/-- A write at the home changes nothing but memory, the owner's copies, ownership, what is kept of old code, and monitors. -/
theorem pastMemory_homeWrite (s : State) (pa n x : Nat) : pastMemory (homeWrite s pa n x) = pastMemory s := by
  unfold homeWrite
  split
  · rfl
  · have h : pastMemory ((wordsOf pa n).foldl revokeWord (noteWrite s pa n)) = pastMemory s :=
      (foldl_same _ _ pastMemory_revokeWord _ _).trans (pastMemory_noteWrite s pa n)
    have h2 := (pastMemory_mem _ (writeN ((wordsOf pa n).foldl revokeWord (noteWrite s pa n)).mem pa n x)).trans h
    split
    · exact (pastMemory_wakeLine _ _).trans h2
    · exact (pastMemory_wakeLine _ _).trans ((pastMemory_wakeLine _ _).trans h2)

theorem pastMemory_windowWrite (s : State) (w y n x : Nat) : pastMemory (windowWrite s w y n x) = pastMemory s :=
  (pastMemory_homeWrite _ _ _ _).trans (pastMemory_homeWrite _ _ _ _)

theorem pastMemory_fillLine (s : State) (core line data : Nat) : pastMemory (fillLine s core line data) = pastMemory s := rfl

theorem pastMemory_recallLine (s : State) (line : Nat) : pastMemory (recallLine s line) = pastMemory s :=
  foldl_same _ _ (fun s i => pastMemory_recallWord s (line * 32 + i)) _ _

theorem drawFree_is (s : State) : (drawFree s).2 = { s with free := s.free + 1 } := rfl

theorem pastMemory_leaveL1 (s : State) (core line : Nat) : pastMemory (leaveL1 s core line) = pastMemory s := by
  unfold leaveL1
  rw [pastMemory_setL1]
  exact foldl_same _ _ pastMemory_recallWord _ _

theorem pastFill_free (s : State) (n : Nat) : pastFill { s with free := n } = pastFill s := rfl

theorem pastFill_depart (s : State) (p : Packet) : pastFill (depart s p) = pastFill s := by
  unfold depart
  split <;> rfl

theorem pastFill_sendOn (s : State) (p : Packet) (plane : Nat) (k : Kept) : pastFill (sendOn s p plane k) = pastFill s :=
  (Eq.trans (by rfl) (pastFill_depart s _) : _)

theorem pastFill_sendLine (s : State) (p : Packet) (core tid va : Nat) (flag : Bool) :
    pastFill (sendLine s p core tid va flag) = pastFill s := pastFill_sendOn _ _ _ _

theorem pastFill_makeRoomL1 (s : State) (core line : Nat) : pastFill (makeRoomL1 s core line) = pastFill s := by
  unfold makeRoomL1
  dsimp only
  split
  · rfl
  · rw [pastFill_of (pastMemory_leaveL1 _ _ _), drawFree_is, pastFill_free]

theorem pastFill_leaveRdc (s : State) (core line : Nat) : pastFill (leaveRdc s core line) = pastFill s := by
  unfold leaveRdc
  dsimp only
  split
  · rw [pastFill_sendLine, pastFill_of (pastMemory_setRdc _ _ _ _)]
  · exact pastFill_of (pastMemory_setRdc _ _ _ _)

theorem pastFill_makeRoomRdc (s : State) (core line : Nat) : pastFill (makeRoomRdc s core line) = pastFill s := by
  unfold makeRoomRdc
  dsimp only
  split
  · rfl
  · rw [pastFill_leaveRdc, drawFree_is, pastFill_free]

theorem pastFill_fillRdc (s : State) (core line data : Nat) : pastFill (fillRdc s core line data) = pastFill s := by
  rw [fillRdc, pastFill_of (pastMemory_setRdc _ _ _ _), pastFill_makeRoomRdc]

/-- All that fetching a line can do, once it has room in L1: fill it from the RDC share, or from the home, with or without the share. -/
theorem fetchLine_cases (s : State) (core line : Nat) :
    (∃ d, fetchLine s core line = fillLine (makeRoomL1 s core line) core line d)
      ∨ (∃ d e, fetchLine s core line = fillLine (fillRdc (recallLine (makeRoomL1 s core line) line) core line e) core line d)
      ∨ ∃ d, fetchLine s core line = fillLine (recallLine (makeRoomL1 s core line) line) core line d := by
  by_cases h : (rdcLine (makeRoomL1 s core line) core line).valid = BitVec.allOnes 128
  · left
    exact ⟨_, by rw [fetchLine, if_pos h]⟩
  · right
    cases hr : remoteLine core line with
    | true => left; exact ⟨_, _, by rw [fetchLine, if_neg h, hr]; simp only [if_true]; rfl⟩
    | false => right; exact ⟨_, by rw [fetchLine, if_neg h, hr]; simp only [Bool.false_eq_true, if_false]; rfl⟩

theorem pastFill_fetchLine (s : State) (core line : Nat) : pastFill (fetchLine s core line) = pastFill s := by
  rw [← pastFill_makeRoomL1 s core line]
  rcases fetchLine_cases s core line with ⟨d, e⟩ | ⟨d, x, e⟩ | ⟨d, e⟩ <;> rw [e, pastFill_of (pastMemory_fillLine _ _ _ _)]
  · rw [pastFill_fillRdc, pastFill_of (pastMemory_recallLine _ _)]
  · exact pastFill_of (pastMemory_recallLine _ _)

theorem pastMemory_dropRange (s : State) (core lo hi : Nat) : pastMemory (dropRange s core lo hi) = pastMemory s := by
  unfold dropRange
  apply foldl_same
  intro a b
  split
  · exact (pastMemory_dropWord _ _ _).trans (pastMemory_revokeWord _ _)
  · exact pastMemory_dropWord _ _ _

/-! The canonical form. -/

theorem wf_recallWord (s : State) (w : Nat) (h : Memory.wf s.mem) : Memory.wf (recallWord s w).mem := by
  rcases recallWord_cases s w with e | ⟨_, e⟩ | ⟨_, l, e⟩
  · rw [e]; exact h
  · rw [e, noteLoss_mem, dropWord_mem]; exact h
  · rw [e]
    refine foldl_keeps Memory.wf _ ?_ _ _ h
    intro a b ha
    split
    · exact memoryWf_writeByte _ _ _ ha
    · exact ha

theorem wf_revokeWord (s : State) (w : Nat) (h : Memory.wf s.mem) : Memory.wf (revokeWord s w).mem := by
  by_cases e : ownerOf s w = 0
  · rw [revokeWord, if_pos e]; exact h
  · rw [revokeWord, if_neg e]
    exact wf_recallWord s w h

theorem noteWrite_mem (s : State) (pa n : Nat) : (noteWrite s pa n).mem = s.mem := rfl

theorem wf_homeWrite (s : State) (pa n x : Nat) (h : Memory.wf s.mem) : Memory.wf (homeWrite s pa n x).mem := by
  unfold homeWrite
  split
  · exact h
  · have h2 : Memory.wf ((wordsOf pa n).foldl revokeWord (noteWrite s pa n)).mem :=
      foldl_keeps (fun s : State => Memory.wf s.mem) _ wf_revokeWord _ _ (by rw [noteWrite_mem]; exact h)
    split <;> exact memoryWf_writeN _ _ _ _ h2

theorem wf_windowWrite (s : State) (w y n x : Nat) (h : Memory.wf s.mem) : Memory.wf (windowWrite s w y n x).mem :=
  wf_homeWrite _ _ _ _ (wf_homeWrite _ _ _ _ h)

theorem wf_recallLine (s : State) (line : Nat) (h : Memory.wf s.mem) : Memory.wf (recallLine s line).mem :=
  foldl_keeps (fun s : State => Memory.wf s.mem) _ (fun s i => wf_recallWord s (line * 32 + i)) _ _ h

theorem fillLine_mem (s : State) (core line data : Nat) : (fillLine s core line data).mem = s.mem := rfl
theorem setRdc_keeps_mem (s : State) (core line : Nat) (l : Line) : (setRdc s core line l).mem = s.mem := rfl
theorem setL1_keeps_mem (s : State) (core line : Nat) (l : Line) : (setL1 s core line l).mem = s.mem := rfl
theorem dropShare_mem (s : State) (core w : Nat) : (dropShare s core w).mem = s.mem := rfl

theorem sendLine_keeps_mem (s : State) (p : Packet) (core tid va : Nat) (flag : Bool) : (sendLine s p core tid va flag).mem = s.mem := by
  show (depart s _).mem = s.mem
  unfold depart
  split <;> rfl

theorem leaveRdc_mem (s : State) (core line : Nat) : (leaveRdc s core line).mem = s.mem := by
  unfold leaveRdc
  dsimp only
  split
  · rw [sendLine_keeps_mem, setRdc_keeps_mem]
  · rw [setRdc_keeps_mem]

theorem fillRdc_mem (s : State) (core line data : Nat) : (fillRdc s core line data).mem = s.mem := by
  rw [fillRdc, setRdc_keeps_mem]
  unfold makeRoomRdc
  dsimp only
  split
  · rfl
  · rw [leaveRdc_mem, drawFree_is]

theorem wf_leaveL1 (s : State) (core line : Nat) (h : Memory.wf s.mem) : Memory.wf (leaveL1 s core line).mem := by
  unfold leaveL1
  rw [setL1_keeps_mem]
  exact foldl_keeps (fun s : State => Memory.wf s.mem) _ wf_recallWord _ _ h

theorem wf_makeRoomL1 (s : State) (core line : Nat) (h : Memory.wf s.mem) : Memory.wf (makeRoomL1 s core line).mem := by
  unfold makeRoomL1
  dsimp only
  split
  · exact h
  · exact wf_leaveL1 _ _ _ h

theorem wf_fetchLine (s : State) (core line : Nat) (h : Memory.wf s.mem) : Memory.wf (fetchLine s core line).mem := by
  have h := wf_makeRoomL1 s core line h
  rcases fetchLine_cases s core line with ⟨d, e⟩ | ⟨d, x, e⟩ | ⟨d, e⟩ <;> rw [e, fillLine_mem]
  · exact h
  · rw [fillRdc_mem]; exact wf_recallLine _ _ h
  · exact wf_recallLine _ _ h

theorem addPending_mem (s : State) (core : Nat) (pair : Bool) (word : Nat) : (addPending s core pair word).mem = s.mem := by
  unfold addPending
  dsimp only
  split <;> rfl

theorem healL2_mem (s : State) (line : Nat) : (healL2 s line).mem = s.mem := by
  unfold healL2
  split <;> rfl

/-- Which lines L2 holds has no part in what memory holds. -/
theorem fillL2_mem (s : State) (ctx : Option Nat) (line : Nat) : (fillL2 s ctx line).mem = s.mem := by
  unfold fillL2
  dsimp only
  split
  · exact healL2_mem s line
  · split
    · exact healL2_mem s line
    · split <;> exact healL2_mem s line

theorem lowerLine_mem (s : State) (core line : Nat) : (lowerLine s core line).mem = s.mem := rfl

theorem wf_bringBy (s : State) (core : Nat) (ctx : Option Nat) (low : Bool) (line : Nat) (h : Memory.wf s.mem) :
    Memory.wf (bringBy s core ctx low line).mem := by
  have key : Memory.wf (bringLine s core ctx line).mem := by
    apply wf_fetchLine
    split
    · exact h
    · rw [fillL2_mem]; exact h
  unfold bringBy
  dsimp only
  split
  · rw [lowerLine_mem]; exact key
  · exact key

theorem wf_storeOwned (s : State) (core : Nat) (ctx : Option Nat) (low : Bool) (pa n x : Nat) (h : Memory.wf s.mem) :
    Memory.wf (storeOwned s core ctx low pa n x).mem := by
  have h1 : Memory.wf (noteWrite s pa n).mem := by rw [noteWrite_mem]; exact h
  have h2 : Memory.wf (if (l1Line (noteWrite s pa n) core (pa / 128)).valid = BitVec.allOnes 128 then noteWrite s pa n
      else bringBy (noteWrite s pa n) core ctx low (pa / 128)).mem := by
    split
    · exact h1
    · exact wf_bringBy _ _ _ _ _ h1
  refine foldl_keeps (fun s : State => Memory.wf s.mem) _ (fun a b ha => by rw [addPending_mem]; exact ha) _ _ ?_
  refine foldl_keeps (fun s : State => Memory.wf s.mem) _ ?_ _ _ h2
  intro a b ha
  rw [dropShare_mem]
  split
  · exact wf_recallWord _ _ ha
  · exact ha

theorem wf_dropRange (s : State) (core lo hi : Nat) (h : Memory.wf s.mem) : Memory.wf (dropRange s core lo hi).mem := by
  refine foldl_keeps (fun s : State => Memory.wf s.mem) _ ?_ _ _ h
  intro a b ha
  show Memory.wf (if ownerOf a b = core + 1 then revokeWord a b else a).mem
  split
  · exact wf_revokeWord _ _ ha
  · exact ha

theorem wf_placeWrite (s : State) (core : Nat) (loc : Loc) (n x : Nat) (h : Memory.wf s.mem) :
    Memory.wf (placeWrite s core loc n x).mem := by
  cases loc with
  | hbm pa => exact wf_homeWrite s pa n x h
  | window w y => exact wf_windowWrite s w y n x h
  | csr num byte =>
    show Memory.wf (storeCsr s core num byte n x).mem
    unfold storeCsr
    split <;> exact h
  | spad b off => exact h
  | peer p off => exact h
  | mcast g off => exact h

/-! Reads after writes. -/

/-- The bytes that a write at the home has written, modulo their width. -/
theorem readN_writeN_mod (m : Cells) (a n x : Nat) : readN (writeN m a n x) a n = x % 256 ^ n := by
  have key : ∀ (n : Nat) (m : Cells) (a x : Nat), writeN m a n x = writeN m a n (x % 256 ^ n) := by
    intro n
    induction n with
    | zero => intros; rfl
    | succ n ih =>
      intro m a x
      have e1 : BitVec.ofNat 8 (x % 256 ^ (n + 1)) = BitVec.ofNat 8 x := by
        apply BitVec.eq_of_toNat_eq
        simp only [BitVec.toNat_ofNat]
        rw [Nat.pow_succ, Nat.mul_comm, Nat.mod_mul_right_mod x 256]
      have e2 : x % 256 ^ (n + 1) / 256 = x / 256 % 256 ^ n := by
        rw [Nat.pow_succ, Nat.mul_comm, Nat.mod_mul_right_div_self]
      rw [writeN, writeN, e1, e2, ih]
  rw [key, readN_writeN _ _ _ _ (Nat.mod_lt _ (Nat.pow_pos (by omega)))]

theorem homeWrite_mem (s : State) (pa n x : Nat) (hn : n ≠ 0) :
    (homeWrite s pa n x).mem = writeN ((wordsOf pa n).foldl revokeWord (noteWrite s pa n)).mem pa n x := by
  unfold homeWrite
  rw [if_neg hn]
  split <;> rfl

theorem readN_homeWrite (s : State) (pa n x : Nat) : readN (homeWrite s pa n x).mem pa n = x % 256 ^ n := by
  cases n with
  | zero => simp [readN, Nat.mod_one]
  | succ n => rw [homeWrite_mem _ _ _ _ (by omega), readN_writeN_mod]

/-- A word without an owner has nothing to recall. -/
theorem recallWord_free (s : State) (w : Nat) (h : ownerOf s w = 0) : recallWord s w = s := by
  rw [recallWord, if_pos (.inl h)]

theorem revokeWord_free (s : State) (w : Nat) (h : ownerOf s w = 0) : revokeWord s w = s := by
  rw [revokeWord, if_pos h]

/-- A recall changes no byte of another word. -/
theorem readByte_recallWord_other (s : State) (w a : Nat) (h : a / 4 ≠ w) : readByte (recallWord s w).mem a = readByte s.mem a := by
  rcases recallWord_cases s w with e | ⟨_, e⟩ | ⟨_, l, e⟩
  · rw [e]
  · rw [e, noteLoss_mem, dropWord_mem]
  · have step : ∀ (l : Line) (i : Nat) (m : Cells), i < 4 → readByte m a = readByte s.mem a →
        readByte (if (heldBytes l).getLsbD (w % 32 * 4 + i) then
          writeByte m (w * 4 + i) (BitVec.ofNat 8 (lineRead l (w % 32 * 4 + i) 1)) else m) a = readByte s.mem a := by
      intro l i m hi hm
      split
      · rw [readByte_writeByte, if_neg (by omega)]; exact hm
      · exact hm
    rw [e, setL1_keeps_mem]
    simp only [List.foldl_cons, List.foldl_nil]
    exact step _ 3 _ (by omega) (step _ 2 _ (by omega) (step _ 1 _ (by omega) (step _ 0 _ (by omega) rfl)))

theorem ownerOf_revokeWord (s : State) (w v : Nat) : ownerOf (revokeWord s w) v = if v = w then 0 else ownerOf s v := by
  by_cases e : ownerOf s w = 0
  · rw [revokeWord_free s w e]
    split
    · rename_i h; rw [h, e]
    · rfl
  · rw [revokeWord, if_neg e]
    show getT 0 (putT 0 (dropWord (recallWord s w) (ownerOf s w - 1) w).owners w 0) v = _
    rw [dropWord_owners, recallWord_owners, getT_putT]
    rfl

theorem readByte_revokeWord (s : State) (w a : Nat) (h : a / 4 ≠ w ∨ ownerOf s w = 0) :
    readByte (revokeWord s w).mem a = readByte s.mem a := by
  by_cases e : ownerOf s w = 0
  · rw [revokeWord_free s w e]
  · have h' : a / 4 ≠ w := by rcases h with h | h; exact h; exact absurd h e
    rw [revokeWord, if_neg e]
    exact readByte_recallWord_other s w a h'

theorem readByte_revokeWords (ws : List Nat) (s : State) (a : Nat) (h : a / 4 ∉ ws ∨ ownerOf s (a / 4) = 0) :
    readByte (ws.foldl revokeWord s).mem a = readByte s.mem a := by
  induction ws generalizing s with
  | nil => rfl
  | cons w ws ih =>
    rw [List.foldl_cons, ih, readByte_revokeWord]
    · rcases h with h | h
      · left; intro e; exact h (by simp [e])
      · by_cases e : a / 4 = w
        · right; rw [← e]; exact h
        · left; exact e
    · rcases h with h | h
      · left; intro e; exact h (by simp [e])
      · right; rw [ownerOf_revokeWord]; split
        · rfl
        · exact h

theorem noteWrite_owners (s : State) (pa n : Nat) : (noteWrite s pa n).owners = s.owners := rfl

/-- A write at the home leaves every byte outside it as the home held it, unless a core that owned a touched word held that byte. -/
theorem readByte_homeWrite_other (s : State) (pa n x a : Nat) (h : a < pa ∨ pa + n ≤ a)
    (ho : a / 4 ∉ wordsOf pa n ∨ ownerOf s (a / 4) = 0) : readByte (homeWrite s pa n x).mem a = readByte s.mem a := by
  by_cases hn : n = 0
  · subst hn; rfl
  · rw [homeWrite_mem _ _ _ _ hn, readByte_writeN_other _ _ _ _ _ h, readByte_revokeWords, noteWrite_mem]
    rcases ho with ho | ho
    · exact .inl ho
    · right; rw [ownerOf, noteWrite_owners]; exact ho

/-- No word that a write at the home touches has an owner afterwards. -/
theorem ownerOf_revokeWords (ws : List Nat) (s : State) (v : Nat) :
    ownerOf (ws.foldl revokeWord s) v = if v ∈ ws then 0 else ownerOf s v := by
  induction ws generalizing s with
  | nil => simp
  | cons w ws ih =>
    rw [List.foldl_cons, ih, ownerOf_revokeWord]
    by_cases h1 : v ∈ ws <;> by_cases h2 : v = w <;> simp [h1, h2]

end Sys2Proof.Machine
end

