-- ==== Sys2Proof/Laws/Traps.lean ====
section
/-! SUPPORT. What a halt, a stop, a record and a trap can change. -/
namespace Sys2Proof.Machine

/-! The halt of threads and the stop of a core. -/

/-- The state without what a halt may change: threads and their windows, results in flight, monitors, journal work, lock messages, walks, the
prediction tables and their counters. -/
def pastHalt (s : State) : State :=
  { s with g := {}, others := [], windows := [], flights := [], monitors := [], seqs := [], lockMsgs := [], walks := [], points := [], csr := [] }

theorem pastHalt_updThread (s : State) (tid : Nat) (f : Group → Group) : pastHalt (updThread s tid f) = pastHalt s := by
  unfold updThread
  split <;> rfl

theorem pastHalt_walks (s : State) (x : List Walk) : pastHalt { s with walks := x } = pastHalt s := rfl
theorem pastHalt_forgetWalks (s : State) (p : Group → Bool) : pastHalt (forgetWalks s p) = pastHalt s := pastHalt_walks _ _
theorem pastHalt_countWindow (s : State) (w : Window) : pastHalt (countWindow s w) = pastHalt s := rfl
theorem pastHalt_updWhere (s : State) (p : Group → Bool) (f : Group → Group) : pastHalt (updWhere s p f) = pastHalt s := rfl

theorem pastHalt_flights (s : State) (x : List Window) (y : List Flight) : pastHalt { s with windows := x, flights := y } = pastHalt s := rfl

theorem pastHalt_restartWindow (s : State) (w : Window) : pastHalt (restartWindow s w) = pastHalt s := by
  rw [restartWindow, pastHalt_flights, pastHalt_updThread, pastHalt_forgetWalks]

theorem pastHalt_keepWindow (s : State) (w : Window) (t : Mask) : pastHalt (keepWindow s w t) = pastHalt s := by
  rw [keepWindow, pastHalt_updThread, pastHalt_forgetWalks]
  exact Eq.trans (by rfl) (pastHalt_flights s _ _)

theorem pastHalt_resolveWindow (s : State) (w : Window) : pastHalt (resolveWindow s w) = pastHalt s := by
  unfold resolveWindow
  dsimp only
  split
  · rw [pastHalt_restartWindow, pastHalt_countWindow]
  · rw [pastHalt_keepWindow, pastHalt_countWindow]

theorem pastHalt_commitWindow (s : State) (w : Window) (r : Mask) : pastHalt (commitWindow s w r) = pastHalt s := by
  rw [commitWindow, pastHalt_flights, pastHalt_updThread]

theorem pastHalt_settleWindow (s : State) (w : Window) : pastHalt (settleWindow s w) = pastHalt s := by
  unfold settleWindow
  dsimp only
  split
  · split
    · rfl
    · exact pastHalt_restartWindow s w
  · split
    · rw [pastHalt_restartWindow, pastHalt_countWindow]
    · split
      · rw [pastHalt_commitWindow, pastHalt_keepWindow, pastHalt_countWindow]
      · rw [pastHalt_keepWindow, pastHalt_countWindow]

theorem pastHalt_settleWhere (s : State) (p : Group → Bool) : pastHalt (settleWhere s p) = pastHalt s := by
  unfold settleWhere
  dsimp only
  rw [pastHalt_updWhere]
  exact Eq.trans (by rfl) (foldl_same pastHalt _ pastHalt_settleWindow _ _)

theorem pastHalt_dropJournal (s : State) (tid seq : Nat) : pastHalt (dropJournal s tid seq) = pastHalt s :=
  (pastHalt_updThread _ _ _).trans rfl

theorem pastHalt_haltWhere (s : State) (p : Group → Bool) : pastHalt (haltWhere s p) = pastHalt s := by
  unfold haltWhere
  dsimp only
  rw [pastHalt_updWhere, pastHalt_forgetWalks]
  refine (foldl_same pastHalt _ ?_ _ _).trans (pastHalt_settleWhere s p)
  intro s g
  split
  · exact (pastHalt_updThread _ _ _).trans rfl
  · exact pastHalt_dropJournal _ _ _
  · exact pastHalt_dropJournal _ _ _
  · split <;> rfl
  · rfl

/-- Stopping a core changes, beyond what a halt does, only which cores are stopped. -/
theorem pastHalt_stopCore (s : State) (core : Nat) : pastHalt (stopCore s core) = { pastHalt s with cores := putT {} s.cores core { stopped := true } } := by
  have h := pastHalt_haltWhere s fun g => g.core == core
  have e : (pastHalt (haltWhere s fun g => g.core == core)).cores = (pastHalt s).cores := congrArg State.cores h
  have key : ∀ (t : State) (c : Table Core), pastHalt { t with cores := c } = { pastHalt t with cores := c } := fun _ _ => rfl
  unfold stopCore setStopped
  rw [key, h]
  exact congrArg (fun c => ({ pastHalt s with cores := putT {} c core { stopped := true } } : State)) e

theorem stopCore_mem (s : State) (core : Nat) : (stopCore s core).mem = s.mem := by
  have h := congrArg State.mem (pastHalt_stopCore s core)
  exact h

theorem coreStopped_stopCore (s : State) (core c : Nat) :
    coreStopped (stopCore s core) c = if c = core then true else coreStopped s c := by
  have h : (pastHalt (stopCore s core)).cores = putT {} s.cores core { stopped := true } := by
    rw [pastHalt_stopCore]
  have h : (stopCore s core).cores = putT {} s.cores core { stopped := true } := h
  unfold coreStopped
  rw [h, getT_putT]
  split <;> rfl

/-- Stopping a core for a fault notes besides whose fault it was. -/
theorem stopFor_mem (s : State) (g : Group) : (stopFor s g).mem = s.mem := stopCore_mem s g.core

theorem coreStopped_stopFor (s : State) (g : Group) (c : Nat) :
    coreStopped (stopFor s g) c = if c = g.core then true else coreStopped s c := coreStopped_stopCore s g.core c

/-! Records. -/

/-- The state without what writing a record may change: memory and its caches, the serial numbers, the records that wait, and what the
firmware threads wait for. -/
def pastRecord (s : State) : State := { pastMemory s with g := {}, others := [], serials := [], causes := [] }

theorem pastRecord_homeWrite (s : State) (pa n x : Nat) : pastRecord (homeWrite s pa n x) = pastRecord s := by
  unfold pastRecord
  rw [pastMemory_homeWrite]

theorem pastRecord_wakeFirmware (s : State) (die : Nat) : pastRecord (wakeFirmware s die) = pastRecord s := rfl
theorem pastRecord_serials (s : State) (x : Table Nat) (y : List Cause) :
    pastRecord { s with serials := x, causes := y } = pastRecord s := rfl

theorem pastRecord_writeRecord (s : State) (r : Record) : pastRecord (writeRecord s r) = pastRecord s := by
  rw [writeRecord, pastRecord_wakeFirmware, pastRecord_serials, pastRecord_homeWrite, pastRecord_homeWrite]

theorem homeWrite_g (s : State) (pa n x : Nat) : (homeWrite s pa n x).g = s.g := by
  have h := congrArg State.g (pastMemory_homeWrite s pa n x)
  exact h

theorem wakeFirmware_thread (s : State) (die : Nat) :
    (wakeFirmware s die).g = s.g ∨ (wakeFirmware s die).g = { s.g with wait := .none } := by
  unfold wakeFirmware updWhere
  dsimp only
  split
  · exact .inr rfl
  · exact .inl rfl

theorem serials_g (s : State) (x : Table Nat) (y : List Cause) : ({ s with serials := x, causes := y } : State).g = s.g := rfl
theorem serials_mem (s : State) (x : Table Nat) (y : List Cause) : ({ s with serials := x, causes := y } : State).mem = s.mem := rfl

theorem writeRecord_thread (s : State) (r : Record) :
    (writeRecord s r).g = s.g ∨ (writeRecord s r).g = { s.g with wait := .none } := by
  rw [writeRecord]
  refine (wakeFirmware_thread _ _).imp (fun h => h.trans ?_) (fun h => h.trans ?_)
  · rw [serials_g, homeWrite_g, homeWrite_g]
  · rw [serials_g, homeWrite_g, homeWrite_g]

theorem pastRecord_postRecord (s : State) (r : Record) : pastRecord (postRecord s r) = pastRecord s := by
  unfold postRecord
  split
  · exact pastRecord_writeRecord s r
  · rfl

/-- A record changes a thread at most in that firmware that sleeps wakes. -/
theorem postRecord_thread (s : State) (r : Record) :
    (postRecord s r).g = s.g ∨ (postRecord s r).g = { s.g with wait := .none } := by
  unfold postRecord
  split
  · exact writeRecord_thread s r
  · exact .inl rfl

theorem wakeFirmware_mem (s : State) (die : Nat) : (wakeFirmware s die).mem = s.mem := rfl

theorem wf_writeRecord (s : State) (r : Record) (h : Memory.wf s.mem) : Memory.wf (writeRecord s r).mem := by
  rw [writeRecord, wakeFirmware_mem, serials_mem]
  exact wf_homeWrite _ _ _ _ (wf_homeWrite _ _ _ _ h)

theorem wf_postRecord (s : State) (r : Record) (h : Memory.wf s.mem) : Memory.wf (postRecord s r).mem := by
  unfold postRecord
  split
  · exact wf_writeRecord s r h
  · exact h

/-! Traps. -/

/-- Taking a trap outside a speculation window: the core stops with the thread at the first word of its unit, and the record is posted. -/
theorem takeTrap_outside (s : State) (r : Record) (h : windowOf s s.g.tid = none) :
    takeTrap s r = .next (postRecord (stopFor { s with g := rewind s.g } s.g) (recordOf s.g r)) := by
  unfold takeTrap
  rw [h]

/-- Inside a window the instruction does not issue, and it ends the window (R65). -/
theorem takeTrap_inside (s : State) (r : Record) {w : Window} (h : windowOf s s.g.tid = some w) (hw : w.resolved = none) :
    takeTrap s r = .next { s with windows := mapIf (fun x => x.saved.tid == s.g.tid) (fun x => { x with ended := true }) s.windows } := by
  unfold takeTrap endWindow
  rw [h]
  simp [hw]

/-- In a replay the window is restarted. -/
theorem takeTrap_replay (s : State) (r : Record) {w : Window} (h : windowOf s s.g.tid = some w) (hw : w.resolved.isSome = true) :
    takeTrap s r = .next (restartWindow s w) := by
  unfold takeTrap endWindow
  rw [h]
  simp [hw]

/-- All that a trap can do. -/
theorem takeTrap_cases (s : State) (r : Record) :
    (∃ ws, takeTrap s r = .next { s with windows := ws }) ∨ (∃ w, takeTrap s r = .next (restartWindow s w))
      ∨ takeTrap s r = .next (postRecord (stopFor { s with g := rewind s.g } s.g) (recordOf s.g r)) := by
  cases h : windowOf s s.g.tid with
  | none => exact .inr (.inr (takeTrap_outside s r h))
  | some w =>
    cases hw : w.resolved with
    | none => exact .inl ⟨_, takeTrap_inside s r h hw⟩
    | some m => exact .inr (.inl ⟨w, takeTrap_replay s r h (by rw [hw]; rfl)⟩)

/-- A trap never ends a run. -/
theorem takeTrap_next (s : State) (r : Record) : ∃ t, takeTrap s r = .next t := by
  rcases takeTrap_cases s r with ⟨ws, e⟩ | ⟨w, e⟩ | e <;> exact ⟨_, e⟩

theorem restartWindow_mem (s : State) (w : Window) : (restartWindow s w).mem = s.mem := by
  have h := congrArg State.mem (pastHalt_restartWindow s w)
  exact h

theorem wf_takeTrap (s t : State) (r : Record) (h : Memory.wf s.mem) (e : takeTrap s r = .next t) : Memory.wf t.mem := by
  rcases takeTrap_cases s r with ⟨ws, c⟩ | ⟨w, c⟩ | c <;> rw [c] at e <;> have e := Host.Outcome.next.inj e <;> rw [← e]
  · exact h
  · rw [restartWindow_mem]; exact h
  · apply wf_postRecord
    rw [stopFor_mem]
    exact h

theorem wf_asyncFault (s : State) (core : Nat) (r : Record) (h : Memory.wf s.mem) : Memory.wf (asyncFault s core r).mem := by
  unfold asyncFault
  apply wf_postRecord
  split
  · exact h
  · rw [stopCore_mem]; exact h

end Sys2Proof.Machine
end

