-- ==== Sys2Proof/Laws/Access.lean ====
section
/-! SUPPORT. What a checked access and an arriving packet come to. -/
namespace Sys2Proof.Machine

/-- Every lane of an access that passes its checks is aligned and has its place. -/
theorem checkLanes_ok {s : State} {g : Group} {f : Form} {real : Bool} {lanes : List (Nat × Nat)} {l : List (Nat × Nat × Loc)}
    (h : checkLanes s g f real lanes = .ok l) :
    (∀ x ∈ lanes, x.2 % f.align = 0) ∧ ∀ x ∈ l, (x.1, x.2.1) ∈ lanes ∧ resolve s g f x.2.1 = .ok x.2.2 := by
  unfold checkLanes at h
  dsimp only at h
  split at h
  · cases h
  · rename_i hskew
    have halign : ∀ x ∈ lanes, x.2 % f.align = 0 := by
      intro x hx
      have := List.filter_eq_nil_iff.mp (Classical.not_not.mp hskew) x hx
      simpa using this
    refine ⟨halign, ?_⟩
    repeat' split at h
    all_goals first
      | (cases h; done)
      | (cases h
         intro x hx
         rw [List.mem_filterMap] at hx
         obtain ⟨y, hy, e⟩ := hx
         rw [List.mem_map] at hy
         obtain ⟨z, hz, rfl⟩ := hy
         dsimp only at e
         split at e
         · rename_i loc hr
           cases e
           exact ⟨hz, hr⟩
         · cases e)

theorem checkAccess_ok {s : State} {g : Group} {f : Form} {lanes : List (Nat × Nat)} {l : List (Nat × Nat × Loc)}
    (h : checkAccess s g f lanes = .ok l) :
    (∀ x ∈ lanes, x.2 % f.align = 0) ∧ ∀ x ∈ l, (x.1, x.2.1) ∈ lanes ∧ resolve s g f x.2.1 = .ok x.2.2 := checkLanes_ok h

/-- An access with a skewed lane traps, whatever else is wrong with it. -/
theorem checkLanes_skew {s : State} {g : Group} {f : Form} {lanes : List (Nat × Nat)} (real : Bool) (h : ∃ x ∈ lanes, x.2 % f.align ≠ 0) :
    ∃ r, checkLanes s g f real lanes = .trap r ∧ r.cause = 0x0A := by
  obtain ⟨x, hx, hs⟩ := h
  have : lanes.filter (fun x => x.2 % f.align != 0) ≠ [] := by
    intro e
    have := List.filter_eq_nil_iff.mp e x hx
    simp [hs] at this
  unfold checkLanes
  dsimp only
  rw [if_pos this]
  exact ⟨_, rfl, rfl⟩

/-! Sending. -/

/-- A packet leaves at once or waits at this package (R297, R400, R401). -/
theorem depart_goes (s : State) (p : Packet) :
    ((depart s p).sent = s.sent ++ [p] ∧ (depart s p).outbox = s.outbox) ∨ ((depart s p).sent = s.sent ∧ (depart s p).outbox = s.outbox ++ [p]) := by
  unfold depart
  split
  · exact .inl ⟨rfl, rfl⟩
  · exact .inr ⟨rfl, rfl⟩

theorem depart_leaves {s : State} {p : Packet} (h : mayLeave s p = true) : (depart s p).sent = s.sent ++ [p] := by
  rw [depart, if_pos h]

/-- What is sent is the packet with its source, plane and number filled in; on a part that is up, whose link is not retraining, it
leaves at once. -/
theorem sendOn_goes (s : State) (p : Packet) (plane : Nat) (k : Kept) : ∃ q,
    (((sendOn s p plane k).sent = s.sent ++ [q] ∧ (sendOn s p plane k).outbox = s.outbox)
      ∨ ((sendOn s p plane k).sent = s.sent ∧ (sendOn s p plane k).outbox = s.outbox ++ [q]))
    ∧ (mayLeave s q = true → (sendOn s p plane k).sent = s.sent ++ [q])
    ∧ q.kind = p.kind ∧ q.dst = p.dst ∧ q.src = pkgNum s ∧ q.plane = plane ∧ q.via = viaPlane s p plane ∧ q.len = p.len ∧ q.ctx = p.ctx
    ∧ q.offset = p.offset ∧ q.mask = p.mask ∧ q.operand = p.operand ∧ q.data = p.data :=
  ⟨_, depart_goes s _, depart_leaves, rfl, rfl, rfl, rfl, rfl, rfl, rfl, rfl, rfl, rfl, rfl⟩

/-! Arriving. -/

/-- The state without what traffic may change. -/
def pastTraffic (s : State) : State :=
  { s with sent := [], sendSeq := [], kept := [], outbox := [], links := [], peers := [], vetting := [], recvSeq := [], reorder := [] }

theorem pastTraffic_kept (s : State) (x : List Kept) (y : Table Nat) : pastTraffic { s with kept := x, sendSeq := y } = pastTraffic s := rfl

theorem pastTraffic_depart (s : State) (p : Packet) : pastTraffic (depart s p) = pastTraffic s := by
  unfold depart
  split <;> rfl

theorem pastTraffic_sendOn (s : State) (p : Packet) (plane : Nat) (k : Kept) : pastTraffic (sendOn s p plane k) = pastTraffic s :=
  (pastTraffic_kept (depart s _) _ _).trans (pastTraffic_depart s _)

theorem pastTraffic_sendLine (s : State) (p : Packet) (core tid va : Nat) (flag : Bool) :
    pastTraffic (sendLine s p core tid va flag) = pastTraffic s := pastTraffic_sendOn _ _ _ _

theorem pastTraffic_sendJack (s : State) (p : Packet) (bad : Bool) (sort n : Nat) : pastTraffic (sendJack s p bad sort n) = pastTraffic s :=
  pastTraffic_sendLine _ _ _ _ _ _

theorem pastTraffic_resendOne (s : State) (k : Kept) : pastTraffic (resendOne s k) = pastTraffic s := by
  unfold resendOne
  dsimp only
  split
  · rfl
  · split
    · rfl
    · exact pastTraffic_depart _ _

theorem pastTraffic_resendWhere (s : State) (f : Packet → Bool) : pastTraffic (resendWhere s f) = pastTraffic s :=
  foldl_same _ _ pastTraffic_resendOne _ _

theorem pastTraffic_markAlive (s : State) (src via : Nat) : pastTraffic (markAlive s src via) = pastTraffic s := by
  unfold markAlive
  dsimp only
  split <;> rfl

theorem pastTraffic_keepProbing (s : State) (src : Nat) : pastTraffic (keepProbing s src) = pastTraffic s := by
  unfold keepProbing
  split <;> rfl

/-- A header that waited for a peer's answer is refused: nothing else changes but what traffic changes. -/
theorem pastTraffic_refuseVetting (p : Packet) (s : State) : pastTraffic (refuseVetting p s) = pastTraffic s :=
  (foldl_same pastTraffic _ (fun s v => pastTraffic_sendJack s v true _ _) _ _).trans rfl

/-- A sign of life changes nothing but what traffic changes. -/
theorem pastTraffic_alive (s : State) (src via : Nat) : pastTraffic (alive s src via) = pastTraffic s := by
  unfold alive
  dsimp only
  split
  · exact (pastTraffic_resendWhere _ _).trans ((pastTraffic_keepProbing _ _).trans (pastTraffic_markAlive _ _ _))
  · exact (pastTraffic_keepProbing _ _).trans (pastTraffic_markAlive _ _ _)

/-! What has been performed is not changed by what is sent. -/

theorem depart_keeps_recvSeq (s : State) (p : Packet) : (depart s p).recvSeq = s.recvSeq := by
  unfold depart
  split <;> rfl

theorem sendJack_recvSeq (s : State) (p : Packet) (bad : Bool) (sort n : Nat) : (sendJack s p bad sort n).recvSeq = s.recvSeq :=
  depart_keeps_recvSeq s _

theorem resendOne_recvSeq (s : State) (k : Kept) : (resendOne s k).recvSeq = s.recvSeq := by
  unfold resendOne
  dsimp only
  split
  · rfl
  · split
    · rfl
    · exact depart_keeps_recvSeq _ _

theorem resendWhere_recvSeq (s : State) (f : Packet → Bool) : (resendWhere s f).recvSeq = s.recvSeq :=
  foldl_same State.recvSeq resendOne resendOne_recvSeq _ _

theorem markAlive_recvSeq (s : State) (src via : Nat) : (markAlive s src via).recvSeq = s.recvSeq := by
  unfold markAlive
  dsimp only
  split <;> rfl

theorem keepProbing_recvSeq (s : State) (src : Nat) : (keepProbing s src).recvSeq = s.recvSeq := by
  unfold keepProbing
  split <;> rfl

theorem alive_recvSeq (s : State) (src via : Nat) : (alive s src via).recvSeq = s.recvSeq := by
  unfold alive
  dsimp only
  split
  · rw [resendWhere_recvSeq, keepProbing_recvSeq, markAlive_recvSeq]
  · rw [keepProbing_recvSeq, markAlive_recvSeq]

/-- In its turn, a packet is performed and its turn is noted. -/
theorem inOrder_turn {s : State} {p : Packet} (h : streamed p.kind = true → p.seq = getT 0 s.recvSeq (streamKey p))
    (h2 : streamed p.kind = false → getT 0 s.recvSeq (performedKey p) = 0) (dup k : State → State) :
    ∃ t, inOrder s p dup k = k t ∧ pastTraffic t = pastTraffic s := by
  unfold inOrder
  cases hs : streamed p.kind with
  | true =>
    have hd : ahead s p = 0 := by rw [ahead, ← h hs]; omega
    rw [if_pos rfl, if_pos hd]
    exact ⟨_, rfl, rfl⟩
  | false =>
    rw [if_neg (by decide), if_neg (by rw [h2 hs]; decide)]
    exact ⟨_, rfl, rfl⟩

/-- A packet in its turn is performed once the peer has been seen alive. -/
theorem receive_turn {s : State} {p : Packet} (h : InTurn s p) (dup k : State → State) :
    ∃ t, receive s p dup k = k t ∧ pastTraffic t = pastTraffic s := by
  have hcond : ¬ (¬ fabricUp s = true ∨ (p.kind ≠ 0x0A ∧ p.dst ≠ pkgNum s)) := by
    rintro (c | ⟨c, d⟩)
    · exact c h.up
    · rcases h.mine with hm | hm
      · exact d hm
      · exact c hm
  unfold receive
  rw [if_neg hcond]
  have key : ∀ u : State, u.recvSeq = s.recvSeq → pastTraffic u = pastTraffic s → ∃ t, inOrder u p dup k = k t ∧ pastTraffic t = pastTraffic s := by
    intro u e1 e2
    obtain ⟨t, a, b⟩ := inOrder_turn (s := u) (p := p) (by rw [e1]; exact h.turn) (by rw [e1]; exact h.once) dup k
    exact ⟨t, a, b.trans e2⟩
  split
  · exact key s rfl rfl
  · exact key _ (alive_recvSeq s _ _) (pastTraffic_alive s _ _)

end Sys2Proof.Machine
end

