-- ==== Sys2Proof/Laws/Issue.lean ====
section
/-! SUPPORT. What issuing a word and waiting for its operands come to when nothing holds them back, and what lanes hold after a
write. -/
namespace Sys2Proof.Machine

theorem Admitted.live {s : State} {i : Instr} (h : Admitted s i) : s.g.live = true := by
  have := h.runs
  simp only [mayIssue, Bool.and_eq_true] at this
  exact this.1.1.1.1

/-- An admitted word does what its meaning says, and an open window records it. -/
theorem issue_admitted {s : State} {i : Instr} (h : Admitted s i) (k : Out) : issue s i k = noteIssued s i k := by
  have hp : ¬ (isPrivileged (wordOf i) = true ∧ (!s.g.priv) = true) := by
    rintro ⟨a, b⟩
    simp [h.priv a] at b
  have hp' : ¬ (isPrivileged (wordOf i) = true ∧ s.g.priv = false) := by simpa using hp
  simp [issue, h.live, h.runs, h.form, h.window, hp']

/-- Outside a speculation window nothing is recorded. -/
theorem noteIssued_outside {s : State} (h : windowOf s s.g.tid = none) (i : Instr) (k : Out) : noteIssued s i k = k := by
  simp [noteIssued, h]

theorem issue_outside {s : State} {i : Instr} (h : Admitted s i) (hw : windowOf s s.g.tid = none) (k : Out) : issue s i k = k := by
  rw [issue_admitted h, noteIssued_outside hw]

/-- Recording an instruction changes nothing but the buffers of windows. -/
theorem noteIssued_next (s : State) (i : Instr) (t : State) :
    ∃ ws, noteIssued s i (.next t) = .next { t with windows := ws } ∧ ws.map Window.saved = t.windows.map Window.saved := by
  unfold noteIssued
  split
  · rename_i w t' _ e
    cases Host.Outcome.next.inj e
    split
    · refine ⟨_, rfl, ?_⟩
      rw [mapIf, List.map_map]
      apply List.map_congr_left
      intro x _
      simp only [Function.comp]
      split <;> rfl
    · exact ⟨t.windows, rfl, rfl⟩
  · exact ⟨t.windows, rfl, rfl⟩

/-- An admitted word whose meaning moves the thread on moves it on. -/
theorem issue_moves {s : State} {i : Instr} (h : Admitted s i) {t : State} {g : Group} {pc : Nat} (m : MovesTo s t g pc) :
    ∃ t', issue s i (.next t) = .next t' ∧ MovesTo s t' g pc ∧ t'.g = t.g := by
  obtain ⟨ws, e, hs⟩ := noteIssued_next s i t
  refine ⟨_, (issue_admitted h _).trans e, ⟨?_, hs.trans m.2⟩, rfl⟩
  show { t with windows := ws } = { s with g := { g with pc := pc, run := [], landed := t.g.landed, last := t.g.last, hold := t.g.hold }, windows := ws }
  exact congrArg (fun x : State => { x with windows := ws }) m.1

/-- The rows that hold the lanes of a list. -/
theorem rowsOf_bit (l : List Nat) (r : Nat) : (rowsOf l).getLsbD r = true ↔ r < 16 ∧ ∃ n ∈ l, n / 32 = r := by
  have key : ∀ (l : List Nat) (m : BitVec 16),
      (l.foldl (fun m i => m ||| BitVec.ofNat 16 (2 ^ (i / 32))) m).getLsbD r = true
        ↔ m.getLsbD r = true ∨ (r < 16 ∧ ∃ n ∈ l, n / 32 = r) := by
    intro l
    induction l with
    | nil => intro m; simp
    | cons n l ih =>
      intro m
      simp only [List.foldl_cons, ih, BitVec.getLsbD_or, BitVec.getLsbD_ofNat, Nat.testBit_two_pow, Bool.or_eq_true,
        Bool.and_eq_true, decide_eq_true_eq, List.mem_cons, exists_eq_or_imp]
      constructor
      · rintro ((h | h) | ⟨h1, h2⟩)
        · exact .inl h
        · exact .inr ⟨h.1, .inl h.2⟩
        · exact .inr ⟨h1, .inr h2⟩
      · rintro (h | ⟨h1, h2 | h2⟩)
        · exact .inl (.inl h)
        · exact .inl (.inr ⟨h1, h2⟩)
        · exact .inr ⟨h1, h2⟩
  simpa [rowsOf] using key l 0

theorem mem_lanesOf {g : Group} {m : Mask} {n : Nat} : n ∈ lanesOf g m ↔ n < laneCount g ∧ m.getLsbD n = true := by
  simp [lanesOf]

/-- A mask built from lanes. -/
theorem maskOf_bit (l : List Nat) (n : Nat) : (maskOf l).getLsbD n = true ↔ n < 512 ∧ n ∈ l := by
  have key : ∀ (l : List Nat) (m : BitVec 512),
      (l.foldl (fun m i => m ||| BitVec.ofNat 512 (2 ^ i)) m).getLsbD n = true ↔ m.getLsbD n = true ∨ (n < 512 ∧ n ∈ l) := by
    intro l
    induction l with
    | nil => intro m; simp
    | cons a l ih =>
      intro m
      simp only [List.foldl_cons, ih, BitVec.getLsbD_or, BitVec.getLsbD_ofNat, Nat.testBit_two_pow, Bool.or_eq_true,
        Bool.and_eq_true, decide_eq_true_eq, List.mem_cons]
      constructor
      · rintro ((h | ⟨h1, h2⟩) | h)
        · exact .inl h
        · exact .inr ⟨h1, .inl h2.symm⟩
        · exact .inr ⟨h.1, .inr h.2⟩
      · rintro (h | ⟨h1, h2 | h2⟩)
        · exact .inl (.inl h)
        · exact .inl (.inr ⟨h1, h2.symm⟩)
        · exact .inr ⟨h1, h2⟩
  simpa [maskOf] using key l 0

theorem emptyRows_lanes {g : Group} {f : Fin 64} {m : Mask}
    (h : ∀ n, n < laneCount g → m.getLsbD n = true → rowEmpty g (physReg g f) (n / 32) = false) :
    emptyRows g f (rowsOf (lanesOf g m)) = [] := by
  rw [emptyRows, List.filter_eq_nil_iff]
  intro r _ hr
  simp only [Bool.and_eq_true, rowsOf_bit] at hr
  obtain ⟨⟨_, n, hn, rfl⟩, he⟩ := hr
  rw [mem_lanesOf] at hn
  simp [h n hn.1 hn.2] at he

theorem emptyRows_all {g : Group} {f : Fin 64} {rs : BitVec 16} (h : ∀ r, r < g.rows → rowEmpty g (physReg g f) r = false) :
    emptyRows g f rs = [] := by
  rw [emptyRows, List.filter_eq_nil_iff]
  intro r hr
  rw [List.mem_range] at hr
  simp [h r hr]

theorem srcEmpty_full {g : Group} {act : Mask} {x : Src} (h : sourceFull g act x) : srcEmpty g act x = none := by
  cases x with
  | k n t => simp [srcEmpty, h.1]
  | v f t => simp [srcEmpty, emptyRows_lanes fun n a b => (h n a b).1]
  | all f t => simp [srcEmpty, emptyRows_all h.1]

theorem maskOf_nil_iff (l : List Nat) : l = [] → maskOf l = 0 := by rintro rfl; rfl

theorem firstLost_full {g : Group} {act : Mask} {xs : List Src} (h : ∀ x ∈ xs, sourceFull g act x) : firstLost g act xs = none := by
  induction xs with
  | nil => rfl
  | cons x xs ih =>
    have hx := h x (by simp)
    have ht := ih fun y hy => h y (by simp [hy])
    cases x with
    | k n t =>
      have e : g.kBad.getLsbD n.val = false := hx.2
      rw [firstLost]
      simp only [e, ht, Bool.false_eq_true, if_false]
    | v f t =>
      have : (lanesOf g act).filter (fun i => g.vBad.contains (laneKey (physReg g f) i)) = [] := by
        rw [List.filter_eq_nil_iff]
        intro n hn
        rw [mem_lanesOf] at hn
        simp [(hx n hn.1 hn.2).2]
      rw [firstLost]
      simp only [this, ht, maskOf, List.foldl_nil, ne_eq, not_true_eq_false, if_false]
    | all f t =>
      have : (List.range (laneCount g)).filter (fun i => g.vBad.contains (laneKey (physReg g f) i)) = [] := by
        rw [List.filter_eq_nil_iff]
        intro n hn
        simp [hx.2 n (by simpa using hn)]
      rw [firstLost]
      simp only [this, ht, maskOf, List.foldl_nil, ne_eq, not_true_eq_false, if_false]

theorem firstOut_none {g : Group} {fs : List (Fin 64)} (h : ∀ f ∈ fs, physReg g f < g.allot) : firstOut g fs = none := by
  induction fs with
  | nil => rfl
  | cons f fs ih =>
    have := h f (by simp)
    simp [firstOut, Nat.not_le.mpr this, ih fun x hx => h x (by simp [hx])]

theorem firstTrap_none {g : Group} {act : Mask} {xs : List Src} (h : ∀ x ∈ xs, sourceFull g act x) : firstTrap g act xs = none := by
  induction xs with
  | nil => rfl
  | cons x xs ih => simp [firstTrap, srcEmpty_full (h x (by simp)), ih fun y hy => h y (by simp [hy])]

/-- With its operands there, an instruction does what follows. -/
theorem withOperands_there {s : State} {u : Use} (h : OperandsThere s u) (k : Out) : withOperands s u k = k := by
  have ready : ∀ l : List (Fin 8), (∀ p ∈ l, p ∈ u.preds ++ u.late) → l.any (fun p => p != 0 && s.g.qBusy.getLsbD p.val) = false := by
    intro l hl
    rw [List.any_eq_false]
    intro p hp
    rcases h.preds p (hl p hp) with rfl | e
    · simp
    · rw [e]; simp
  have hp := ready u.preds fun p hp => List.mem_append_left _ hp
  have hq := ready u.late fun p hp => List.mem_append_right _ hp
  have hn : notReady s.g u = false := by
    rw [notReady, hq]
    simp only [Bool.false_or, Bool.or_eq_false_iff, List.any_eq_false]
    refine ⟨⟨⟨?_, ?_⟩, ?_⟩, ?_⟩
    · intro x hx; simp [srcEmpty_full (h.srcs x hx)]
    · intro n hn; simp [h.dstK n hn]
    · intro f hf; simp [emptyRows_lanes (h.dstV f hf)]
    · intro f hf; simp [emptyRows_all (h.dstAll f hf)]
  unfold withOperands
  rw [firstOut_none h.bounds]
  simp only [hp]
  rw [firstTrap_none h.srcs]
  simp only [hn]
  rw [firstLost_full h.srcs]
  simp

/-! Lanes after a write. -/

theorem getT_putAll_lanes (t : Table (BitVec 64)) (phys : Nat) (l : List Nat) (f : Nat → BitVec 64) (k : Nat) :
    getT 0 (putAll 0 t (l.map fun n => (laneKey phys n, f n))) k
      = if ∃ n ∈ l, laneKey phys n = k then f (k - laneKey phys 0) else getT 0 t k := by
  induction l generalizing t with
  | nil => simp [putAll]
  | cons a l ih =>
    simp only [List.map_cons, putAll, ih]
    by_cases h : ∃ n ∈ l, laneKey phys n = k
    · have h' : ∃ n ∈ a :: l, laneKey phys n = k := by obtain ⟨n, hn, e⟩ := h; exact ⟨n, by simp [hn], e⟩
      simp [h]
    · by_cases ha : laneKey phys a = k
      · have h' : ∃ n ∈ a :: l, laneKey phys n = k := ⟨a, by simp, ha⟩
        have hk : k - laneKey phys 0 = a := by simp only [laneKey] at ha ⊢; omega
        simp only [h, h', if_true, if_false, hk]
        subst ha
        simp
      · have h' : ¬ ∃ n ∈ a :: l, laneKey phys n = k := by
          rintro ⟨n, hn, e⟩
          rcases List.mem_cons.mp hn with rfl | hn
          · exact ha e
          · exact h ⟨n, hn, e⟩
        simp only [h, h', if_false]
        exact getT_putT_other 0 t (f a) (Ne.symm ha)

/-- Writing the lanes that a mask selects. -/
theorem writeLanes_lanes (g : Group) (phys : Nat) (m : Mask) (f : Nat → BitVec 64) :
    LanesWritten g (writeLanes g phys ((lanesOf g m).map fun n => (n, f n))) phys m f := by
  constructor
  · intro r n hn
    simp only [writeLanes, List.map_map, Function.comp_def]
    rw [getT_putAll_lanes]
    by_cases h : r = phys ∧ n < laneCount g ∧ m.getLsbD n = true
    · obtain ⟨rfl, h1, h2⟩ := h
      have : ∃ a ∈ lanesOf g m, laneKey r a = laneKey r n := ⟨n, mem_lanesOf.mpr ⟨h1, h2⟩, rfl⟩
      have hk : laneKey r n - laneKey r 0 = n := by simp [laneKey]
      simp [this, h1, h2, hk]
    · have : ¬ ∃ a ∈ lanesOf g m, laneKey phys a = laneKey r n := by
        rintro ⟨a, ha, e⟩
        rw [mem_lanesOf] at ha
        have ha' : a < 512 := by
          rcases Nat.lt_or_ge a 512 with hc | hc
          · exact hc
          · have e2 := ha.2
            rw [BitVec.getLsbD_of_ge m a hc] at e2
            cases e2
        simp only [laneKey] at e
        have : r = phys ∧ n = a := by omega
        obtain ⟨rfl, rfl⟩ := this
        exact h ⟨rfl, ha.1, ha.2⟩
      simp [this, h]
  · intro k
    simp only [writeLanes, List.mem_filter, Bool.not_eq_true', List.any_eq_false, List.mem_map, beq_iff_eq]
    constructor
    · rintro ⟨h1, h2⟩
      refine ⟨h1, ?_⟩
      rintro ⟨n, a, b, rfl⟩
      exact h2 (n, f n) ⟨n, mem_lanesOf.mpr ⟨a, b⟩, rfl⟩ rfl
    · rintro ⟨h1, h2⟩
      refine ⟨h1, ?_⟩
      rintro x ⟨n, hn, rfl⟩ e
      rw [mem_lanesOf] at hn
      exact h2 ⟨n, hn.1, hn.2, e.symm⟩

end Sys2Proof.Machine
end

