-- ==== Sys2Proof/Laws/PerInstr.lean ====
section
/-! SUPPORT. One lemma for each constructor: the word of an instruction is a 32-bit word with a major of Table 06.7. -/
namespace Sys2Proof.Laws.Form
open Sys2Proof

/-- A 32-bit word whose major names a format. -/
def Fits (w : Nat) : Prop := w < 2 ^ 32 ∧ formatOf (w / 2 ^ 25 % 128) ≠ none

/-- The word of the instruction, if it has one, fits. -/
def Statement (i : Instr) : Prop := ∀ w, i.word = some w → Fits w

theorem bit_lt (b : Bool) : bit b < 2 := by cases b <;> decide

theorem fits_of {op r : Nat} (h : op < 128) (hf : formatOf op ≠ none) (hr : r < 2 ^ 25) : Fits (op * 2 ^ 25 + r) := by
  refine ⟨by omega, ?_⟩
  have : (op * 2 ^ 25 + r) / 2 ^ 25 % 128 = op := by omega
  rwa [this]

theorem fits_T {op f : Nat} (h : op < 128) (hf : formatOf op ≠ none) (h4 : f < 4) (t : TF) : Fits (wordT op f t) := by
  have := fits_of (r := t.d.val * 2 ^ 19 + t.a.val * 2 ^ 13 + t.b.val * 2 ^ 7 + t.q.val * 2 ^ 4 + bit t.ea * 8 + bit t.eb * 4 + f) h hf
    (by have := t.d.isLt; have := t.a.isLt; have := t.b.isLt; have := t.q.isLt; have := bit_lt t.ea; have := bit_lt t.eb; omega)
  simpa only [wordT, Nat.add_assoc] using this

theorem fits_S {op : Nat} (h : op < 128) (hf : formatOf op ≠ none) (d a : Fin 64) {n : Nat} (hn : n < 2 ^ 13) : Fits (wordS op d a n) := by
  have := fits_of (r := d.val * 2 ^ 19 + a.val * 2 ^ 13 + n) h hf (by have := d.isLt; have := a.isLt; omega)
  simpa only [wordS, Nat.add_assoc] using this

theorem fits_J {op c n : Nat} (h : op < 128) (hf : formatOf op ≠ none) (hc : c < 64) (hn : n < 2 ^ 19) : Fits (wordJ op c n) := by
  have := fits_of (r := c * 2 ^ 19 + n) h hf (by omega)
  simpa only [wordJ, Nat.add_assoc] using this

theorem fits_M {op : Nat} (h : op < 128) (hf : formatOf op ≠ none) (t k x : Fin 64) (q : Fin 8) (e : Bool) (p : Fin 4) (m : Bool) :
    Fits (wordM op t k x q e p m) := by
  have := fits_of (r := t.val * 2 ^ 19 + k.val * 2 ^ 13 + x.val * 2 ^ 7 + q.val * 2 ^ 4 + bit e * 8 + p.val * 2 + bit m) h hf
    (by have := t.isLt; have := k.isLt; have := x.isLt; have := q.isLt; have := bit_lt e; have := p.isLt; have := bit_lt m; omega)
  simpa only [wordM, Nat.add_assoc] using this

theorem fits_X {op sub d a b : Nat} (h : op < 128) (hf : formatOf op ≠ none) (hs : sub < 128) (hd : d < 64) (ha : a < 64) (hb : b < 64) :
    Fits (wordX op sub d a b) := by
  have := fits_of (r := d * 2 ^ 19 + a * 2 ^ 13 + b * 2 ^ 7 + sub) h hf (by omega)
  simpa only [wordX, Nat.add_assoc] using this

theorem fits_H {k p : Nat} (hk : k < 16) (hp : p < 2 ^ 21) : Fits (wordH k p) := by
  have := fits_of (op := 0x7F) (r := k * 2 ^ 21 + p) (by decide) (by decide) (by omega)
  simpa only [wordH, Nat.add_assoc] using this

/-- A word that fits is carried by its four bytes. -/
theorem wordOfBytes_bytesOfWord {w : Nat} (h : w < 2 ^ 32) : wordOfBytes (bytesOfWord w) = some w := by
  simp only [wordOfBytes, bytesOfWord, BitVec.toNat_ofNat]
  congr 1
  omega

end Sys2Proof.Laws.Form
namespace Sys2Proof.Laws
open Sys2Proof Form

theorem Form.add o : Statement (.add o) := by
  intro w h
  cases h
  exact fits_T (by decide) (by decide) (by decide) _
theorem Form.sub o : Statement (.sub o) := by
  intro w h
  cases h
  exact fits_T (by decide) (by decide) (by decide) _
theorem Form.mul o : Statement (.mul o) := by
  intro w h
  cases h
  exact fits_T (by decide) (by decide) (by decide) _
theorem Form.mulh o : Statement (.mulh o) := by
  intro w h
  cases h
  exact fits_T (by decide) (by decide) (by decide) _
theorem Form.div o : Statement (.div o) := by
  intro w h
  cases h
  exact fits_T (by decide) (by decide) (by decide) _
theorem Form.divn o : Statement (.divn o) := by
  intro w h
  cases h
  exact fits_T (by decide) (by decide) (by decide) _
theorem Form.rem o : Statement (.rem o) := by
  intro w h
  cases h
  exact fits_T (by decide) (by decide) (by decide) _
theorem Form.remn o : Statement (.remn o) := by
  intro w h
  cases h
  exact fits_T (by decide) (by decide) (by decide) _
theorem Form.and o : Statement (.and o) := by
  intro w h
  cases h
  exact fits_T (by decide) (by decide) (by decide) _
theorem Form.or o : Statement (.or o) := by
  intro w h
  cases h
  exact fits_T (by decide) (by decide) (by decide) _
theorem Form.xor o : Statement (.xor o) := by
  intro w h
  cases h
  exact fits_T (by decide) (by decide) (by decide) _
theorem Form.andn o : Statement (.andn o) := by
  intro w h
  cases h
  exact fits_T (by decide) (by decide) (by decide) _
theorem Form.shl o : Statement (.shl o) := by
  intro w h
  cases h
  exact fits_T (by decide) (by decide) (by decide) _
theorem Form.shr o : Statement (.shr o) := by
  intro w h
  cases h
  exact fits_T (by decide) (by decide) (by decide) _
theorem Form.sha o : Statement (.sha o) := by
  intro w h
  cases h
  exact fits_T (by decide) (by decide) (by decide) _
theorem Form.rot o : Statement (.rot o) := by
  intro w h
  cases h
  exact fits_T (by decide) (by decide) (by decide) _
theorem Form.min o : Statement (.min o) := by
  intro w h
  cases h
  exact fits_T (by decide) (by decide) (by decide) _
theorem Form.max o : Statement (.max o) := by
  intro w h
  cases h
  exact fits_T (by decide) (by decide) (by decide) _
theorem Form.minn o : Statement (.minn o) := by
  intro w h
  cases h
  exact fits_T (by decide) (by decide) (by decide) _
theorem Form.maxn o : Statement (.maxn o) := by
  intro w h
  cases h
  exact fits_T (by decide) (by decide) (by decide) _
theorem Form.seq o : Statement (.seq o) := by
  intro w h
  cases h
  exact fits_T (by decide) (by decide) (by decide) _
theorem Form.slt o : Statement (.slt o) := by
  intro w h
  cases h
  exact fits_T (by decide) (by decide) (by decide) _
theorem Form.sltn o : Statement (.sltn o) := by
  intro w h
  cases h
  exact fits_T (by decide) (by decide) (by decide) _
theorem Form.sne o : Statement (.sne o) := by
  intro w h
  cases h
  exact fits_T (by decide) (by decide) (by decide) _
theorem Form.popc o : Statement (.popc o) := by
  intro w h
  cases h
  exact fits_T (by decide) (by decide) (by decide) _
theorem Form.clz o : Statement (.clz o) := by
  intro w h
  cases h
  exact fits_T (by decide) (by decide) (by decide) _
theorem Form.ctz o : Statement (.ctz o) := by
  intro w h
  cases h
  exact fits_T (by decide) (by decide) (by decide) _
theorem Form.brev o : Statement (.brev o) := by
  intro w h
  cases h
  exact fits_T (by decide) (by decide) (by decide) _
theorem Form.bfx o : Statement (.bfx o) := by
  intro w h
  cases h
  exact fits_T (by decide) (by decide) (by decide) _
theorem Form.bfi o : Statement (.bfi o) := by
  intro w h
  cases h
  exact fits_T (by decide) (by decide) (by decide) _
theorem Form.mov o : Statement (.mov o) := by
  intro w h
  cases h
  exact fits_T (by decide) (by decide) (by decide) _
theorem Form.addi o : Statement (.addi o) := by
  intro w h
  cases h
  exact fits_S (by decide) (by decide) _ _ o.imm.isLt
theorem Form.andi o : Statement (.andi o) := by
  intro w h
  cases h
  exact fits_S (by decide) (by decide) _ _ o.imm.isLt
theorem Form.ori o : Statement (.ori o) := by
  intro w h
  cases h
  exact fits_S (by decide) (by decide) _ _ o.imm.isLt
theorem Form.xori o : Statement (.xori o) := by
  intro w h
  cases h
  exact fits_S (by decide) (by decide) _ _ o.imm.isLt
theorem Form.shli o : Statement (.shli o) := by
  intro w h
  cases h
  exact fits_S (by decide) (by decide) _ _ (by omega)
theorem Form.shri o : Statement (.shri o) := by
  intro w h
  cases h
  exact fits_S (by decide) (by decide) _ _ (by omega)
theorem Form.shai o : Statement (.shai o) := by
  intro w h
  cases h
  exact fits_S (by decide) (by decide) _ _ (by omega)
theorem Form.roti o : Statement (.roti o) := by
  intro w h
  cases h
  exact fits_S (by decide) (by decide) _ _ (by omega)
theorem Form.li d imm : Statement (.li d imm) := by
  intro w h
  cases h
  exact fits_S (by decide) (by decide) _ _ (by omega)
theorem Form.lih o : Statement (.lih o) := by
  intro w h
  cases h
  exact fits_S (by decide) (by decide) _ _ o.imm.isLt
theorem Form.jmp disp : Statement (.jmp disp) := by
  intro w h
  cases h
  exact fits_J (by decide) (by decide) (by omega) (BitVec.isLt _)
theorem Form.call c disp : Statement (.call c disp) := by
  intro w h
  cases h
  exact fits_J (by decide) (by decide) (by omega) (BitVec.isLt _)
theorem Form.bz c disp : Statement (.bz c disp) := by
  intro w h
  cases h
  exact fits_J (by decide) (by decide) (by omega) (BitVec.isLt _)
theorem Form.bnz c disp : Statement (.bnz c disp) := by
  intro w h
  cases h
  exact fits_J (by decide) (by decide) (by omega) (BitVec.isLt _)
theorem Form.brV p disp : Statement (.brV p disp) := by
  intro w h
  cases h
  exact fits_J (by decide) (by decide) (by omega) (BitVec.isLt _)
theorem Form.brVn p disp : Statement (.brVn p disp) := by
  intro w h
  cases h
  exact fits_J (by decide) (by decide) (by omega) (BitVec.isLt _)
theorem Form.brU p disp : Statement (.brU p disp) := by
  intro w h
  cases h
  exact fits_J (by decide) (by decide) (by omega) (BitVec.isLt _)
theorem Form.brUn p disp : Statement (.brUn p disp) := by
  intro w h
  cases h
  exact fits_J (by decide) (by decide) (by omega) (BitVec.isLt _)
theorem Form.brk n p disp : Statement (.brk n p disp) := by
  intro w h
  cases h
  exact fits_J (by decide) (by decide) (by omega) (BitVec.isLt _)
theorem Form.jr d a : Statement (.jr d a) := by
  intro w h
  cases h
  exact fits_X (by decide) (by decide) (by decide) (by omega) (by omega) (by omega)
theorem Form.exit : Statement .exit := by
  intro w h
  cases h
  exact fits_X (by decide) (by decide) (by decide) (by omega) (by omega) (by omega)
theorem Form.exitV : Statement .exitV := by
  intro w h
  cases h
  exact fits_X (by decide) (by decide) (by decide) (by omega) (by omega) (by omega)
theorem Form.setfmt d a : Statement (.setfmt d a) := by
  intro w h
  cases h
  exact fits_X (by decide) (by decide) (by decide) (by omega) (by omega) (by omega)
theorem Form.win d a n : Statement (.win d a n) := by
  intro w h
  cases h
  exact fits_X (by decide) (by decide) (by decide) (by omega) (by omega) (by omega)
theorem Form.nop : Statement .nop := by
  intro w h
  cases h
  exact fits_X (by decide) (by decide) (by decide) (by omega) (by omega) (by omega)
theorem Form.yield : Statement .yield := by
  intro w h
  cases h
  exact fits_X (by decide) (by decide) (by decide) (by omega) (by omega) (by omega)
theorem Form.get d num : Statement (.get d num) := by
  intro w h
  cases h
  exact fits_X (by decide) (by decide) (by decide) (by omega) (by omega) (by omega)
theorem Form.set num a : Statement (.set num a) := by
  intro w h
  cases h
  exact fits_X (by decide) (by decide) (by decide) (by omega) (by omega) (by omega)
theorem Form.trap a n : Statement (.trap a n) := by
  intro w h
  cases h
  exact fits_X (by decide) (by decide) (by decide) (by omega) (by omega) (by omega)
theorem Form.rett d a : Statement (.rett d a) := by
  intro w h
  cases h
  exact fits_X (by decide) (by decide) (by decide) (by omega) (by omega) (by omega)
theorem Form.csrr d a : Statement (.csrr d a) := by
  intro w h
  cases h
  exact fits_X (by decide) (by decide) (by decide) (by omega) (by omega) (by omega)
theorem Form.csrw a b : Statement (.csrw a b) := by
  intro w h
  cases h
  exact fits_X (by decide) (by decide) (by decide) (by omega) (by omega) (by omega)
theorem Form.tlbinv mode a b : Statement (.tlbinv mode a b) := by
  intro w h
  cases h
  exact fits_X (by decide) (by decide) (by decide) (by omega) (by omega) (by omega)
theorem Form.halt d a : Statement (.halt d a) := by
  intro w h
  cases h
  exact fits_X (by decide) (by decide) (by decide) (by omega) (by omega) (by omega)
theorem Form.barB n : Statement (.barB n) := by
  intro w h
  cases h
  exact fits_X (by decide) (by decide) (by decide) (by omega) (by omega) (by omega)
theorem Form.baraB n : Statement (.baraB n) := by
  intro w h
  cases h
  exact fits_X (by decide) (by decide) (by decide) (by omega) (by omega) (by omega)
theorem Form.barwB n : Statement (.barwB n) := by
  intro w h
  cases h
  exact fits_X (by decide) (by decide) (by decide) (by omega) (by omega) (by omega)
theorem Form.barG n : Statement (.barG n) := by
  intro w h
  cases h
  exact fits_X (by decide) (by decide) (by decide) (by omega) (by omega) (by omega)
theorem Form.baraG n : Statement (.baraG n) := by
  intro w h
  cases h
  exact fits_X (by decide) (by decide) (by decide) (by omega) (by omega) (by omega)
theorem Form.barwG n : Statement (.barwG n) := by
  intro w h
  cases h
  exact fits_X (by decide) (by decide) (by decide) (by omega) (by omega) (by omega)
theorem Form.fenceAcq : Statement .fenceAcq := by
  intro w h
  cases h
  exact fits_X (by decide) (by decide) (by decide) (by omega) (by omega) (by omega)
theorem Form.fenceRel : Statement .fenceRel := by
  intro w h
  cases h
  exact fits_X (by decide) (by decide) (by decide) (by omega) (by omega) (by omega)
theorem Form.fenceAr : Statement .fenceAr := by
  intro w h
  cases h
  exact fits_X (by decide) (by decide) (by decide) (by omega) (by omega) (by omega)
theorem Form.fenceEng : Statement .fenceEng := by
  intro w h
  cases h
  exact fits_X (by decide) (by decide) (by decide) (by omega) (by omega) (by omega)
theorem Form.fenceFlag a b : Statement (.fenceFlag a b) := by
  intro w h
  cases h
  exact fits_X (by decide) (by decide) (by decide) (by omega) (by omega) (by omega)
theorem Form.flushr a : Statement (.flushr a) := by
  intro w h
  cases h
  exact fits_X (by decide) (by decide) (by decide) (by omega) (by omega) (by omega)
theorem Form.vaddI64 o : Statement (.vaddI64 o) := by
  intro w h
  cases h
  exact fits_T (by decide) (by decide) (by decide) _
theorem Form.vaddI32 o : Statement (.vaddI32 o) := by
  intro w h
  cases h
  exact fits_T (by decide) (by decide) (by decide) _
theorem Form.vaddP16 o : Statement (.vaddP16 o) := by
  intro w h
  cases h
  exact fits_T (by decide) (by decide) (by decide) _
theorem Form.vaddP8 o : Statement (.vaddP8 o) := by
  intro w h
  cases h
  exact fits_T (by decide) (by decide) (by decide) _
theorem Form.vsubI64 o : Statement (.vsubI64 o) := by
  intro w h
  cases h
  exact fits_T (by decide) (by decide) (by decide) _
theorem Form.vsubI32 o : Statement (.vsubI32 o) := by
  intro w h
  cases h
  exact fits_T (by decide) (by decide) (by decide) _
theorem Form.vsubP16 o : Statement (.vsubP16 o) := by
  intro w h
  cases h
  exact fits_T (by decide) (by decide) (by decide) _
theorem Form.vsubP8 o : Statement (.vsubP8 o) := by
  intro w h
  cases h
  exact fits_T (by decide) (by decide) (by decide) _
theorem Form.vmulI64 o : Statement (.vmulI64 o) := by
  intro w h
  cases h
  exact fits_T (by decide) (by decide) (by decide) _
theorem Form.vmulI32 o : Statement (.vmulI32 o) := by
  intro w h
  cases h
  exact fits_T (by decide) (by decide) (by decide) _
theorem Form.vmulP16 o : Statement (.vmulP16 o) := by
  intro w h
  cases h
  exact fits_T (by decide) (by decide) (by decide) _
theorem Form.vmulhI64 o : Statement (.vmulhI64 o) := by
  intro w h
  cases h
  exact fits_T (by decide) (by decide) (by decide) _
theorem Form.vminI64 o : Statement (.vminI64 o) := by
  intro w h
  cases h
  exact fits_T (by decide) (by decide) (by decide) _
theorem Form.vminI32 o : Statement (.vminI32 o) := by
  intro w h
  cases h
  exact fits_T (by decide) (by decide) (by decide) _
theorem Form.vminP16 o : Statement (.vminP16 o) := by
  intro w h
  cases h
  exact fits_T (by decide) (by decide) (by decide) _
theorem Form.vminN32 o : Statement (.vminN32 o) := by
  intro w h
  cases h
  exact fits_T (by decide) (by decide) (by decide) _
theorem Form.vmaxI64 o : Statement (.vmaxI64 o) := by
  intro w h
  cases h
  exact fits_T (by decide) (by decide) (by decide) _
theorem Form.vmaxI32 o : Statement (.vmaxI32 o) := by
  intro w h
  cases h
  exact fits_T (by decide) (by decide) (by decide) _
theorem Form.vmaxP16 o : Statement (.vmaxP16 o) := by
  intro w h
  cases h
  exact fits_T (by decide) (by decide) (by decide) _
theorem Form.vmaxN32 o : Statement (.vmaxN32 o) := by
  intro w h
  cases h
  exact fits_T (by decide) (by decide) (by decide) _
theorem Form.vaddsP16 o : Statement (.vaddsP16 o) := by
  intro w h
  cases h
  exact fits_T (by decide) (by decide) (by decide) _
theorem Form.vaddsP16n o : Statement (.vaddsP16n o) := by
  intro w h
  cases h
  exact fits_T (by decide) (by decide) (by decide) _
theorem Form.vaddsP8 o : Statement (.vaddsP8 o) := by
  intro w h
  cases h
  exact fits_T (by decide) (by decide) (by decide) _
theorem Form.vaddsP8n o : Statement (.vaddsP8n o) := by
  intro w h
  cases h
  exact fits_T (by decide) (by decide) (by decide) _
theorem Form.vand o : Statement (.vand o) := by
  intro w h
  cases h
  exact fits_T (by decide) (by decide) (by decide) _
theorem Form.vor o : Statement (.vor o) := by
  intro w h
  cases h
  exact fits_T (by decide) (by decide) (by decide) _
theorem Form.vxor o : Statement (.vxor o) := by
  intro w h
  cases h
  exact fits_T (by decide) (by decide) (by decide) _
theorem Form.vandn o : Statement (.vandn o) := by
  intro w h
  cases h
  exact fits_T (by decide) (by decide) (by decide) _
theorem Form.vshl o : Statement (.vshl o) := by
  intro w h
  cases h
  exact fits_T (by decide) (by decide) (by decide) _
theorem Form.vshr o : Statement (.vshr o) := by
  intro w h
  cases h
  exact fits_T (by decide) (by decide) (by decide) _
theorem Form.vsha o : Statement (.vsha o) := by
  intro w h
  cases h
  exact fits_T (by decide) (by decide) (by decide) _
theorem Form.vrot o : Statement (.vrot o) := by
  intro w h
  cases h
  exact fits_T (by decide) (by decide) (by decide) _
theorem Form.vcmpEqI64 o : Statement (.vcmpEqI64 o) := by
  intro w h
  cases h
  exact fits_T (by decide) (by decide) (by decide) _
theorem Form.vcmpLtI64 o : Statement (.vcmpLtI64 o) := by
  intro w h
  cases h
  exact fits_T (by decide) (by decide) (by decide) _
theorem Form.vcmpLtnI64 o : Statement (.vcmpLtnI64 o) := by
  intro w h
  cases h
  exact fits_T (by decide) (by decide) (by decide) _
theorem Form.vcmpLeI64 o : Statement (.vcmpLeI64 o) := by
  intro w h
  cases h
  exact fits_T (by decide) (by decide) (by decide) _
theorem Form.vcmpEqI32 o : Statement (.vcmpEqI32 o) := by
  intro w h
  cases h
  exact fits_T (by decide) (by decide) (by decide) _
theorem Form.vcmpLtI32 o : Statement (.vcmpLtI32 o) := by
  intro w h
  cases h
  exact fits_T (by decide) (by decide) (by decide) _
theorem Form.vcmpmGtP16 o : Statement (.vcmpmGtP16 o) := by
  intro w h
  cases h
  exact fits_T (by decide) (by decide) (by decide) _
theorem Form.vcmpmEqP16 o : Statement (.vcmpmEqP16 o) := by
  intro w h
  cases h
  exact fits_T (by decide) (by decide) (by decide) _
theorem Form.vsel o : Statement (.vsel o) := by
  intro w h
  cases h
  exact fits_T (by decide) (by decide) (by decide) _
theorem Form.vbsl o : Statement (.vbsl o) := by
  intro w h
  cases h
  exact fits_T (by decide) (by decide) (by decide) _
theorem Form.vpackmP16 o : Statement (.vpackmP16 o) := by
  intro w h
  cases h
  exact fits_T (by decide) (by decide) (by decide) _
theorem Form.vpopc o : Statement (.vpopc o) := by
  intro w h
  cases h
  exact fits_T (by decide) (by decide) (by decide) _
theorem Form.vmov o : Statement (.vmov o) := by
  intro w h
  cases h
  exact fits_T (by decide) (by decide) (by decide) _
theorem Form.vbcast o : Statement (.vbcast o) := by
  intro w h
  cases h
  exact fits_T (by decide) (by decide) (by decide) _
theorem Form.vext o : Statement (.vext o) := by
  intro w h
  cases h
  exact fits_T (by decide) (by decide) (by decide) _
theorem Form.vins o : Statement (.vins o) := by
  intro w h
  cases h
  exact fits_T (by decide) (by decide) (by decide) _
theorem Form.vshfl o : Statement (.vshfl o) := by
  intro w h
  cases h
  exact fits_T (by decide) (by decide) (by decide) _
theorem Form.vshup o : Statement (.vshup o) := by
  intro w h
  cases h
  exact fits_T (by decide) (by decide) (by decide) _
theorem Form.vlane o : Statement (.vlane o) := by
  intro w h
  cases h
  exact fits_T (by decide) (by decide) (by decide) _
theorem Form.vswzP16 o : Statement (.vswzP16 o) := by
  intro w h
  cases h
  exact fits_T (by decide) (by decide) (by decide) _
theorem Form.vrsumI64 o : Statement (.vrsumI64 o) := by
  intro w h
  cases h
  exact fits_T (by decide) (by decide) (by decide) _
theorem Form.vrminI64 o : Statement (.vrminI64 o) := by
  intro w h
  cases h
  exact fits_T (by decide) (by decide) (by decide) _
theorem Form.vrmaxI64 o : Statement (.vrmaxI64 o) := by
  intro w h
  cases h
  exact fits_T (by decide) (by decide) (by decide) _
theorem Form.vargmaxF o : Statement (.vargmaxF o) := by
  intro w h
  cases h
  exact fits_T (by decide) (by decide) (by decide) _
theorem Form.vscanI32 o : Statement (.vscanI32 o) := by
  intro w h
  cases h
  exact fits_T (by decide) (by decide) (by decide) _
theorem Form.vrsumD o : Statement (.vrsumD o) := by
  intro w h
  cases h
  exact fits_T (by decide) (by decide) (by decide) _
theorem Form.vrsumF o : Statement (.vrsumF o) := by
  intro w h
  cases h
  exact fits_T (by decide) (by decide) (by decide) _
theorem Form.vcount o : Statement (.vcount o) := by
  intro w h
  cases h
  exact fits_T (by decide) (by decide) (by decide) _
theorem Form.vfaddD o : Statement (.vfaddD o) := by
  intro w h
  cases h
  exact fits_T (by decide) (by decide) (by decide) _
theorem Form.vfaddF o : Statement (.vfaddF o) := by
  intro w h
  cases h
  exact fits_T (by decide) (by decide) (by decide) _
theorem Form.vfaddH4 o : Statement (.vfaddH4 o) := by
  intro w h
  cases h
  exact fits_T (by decide) (by decide) (by decide) _
theorem Form.vfaddB4 o : Statement (.vfaddB4 o) := by
  intro w h
  cases h
  exact fits_T (by decide) (by decide) (by decide) _
theorem Form.vfsubD o : Statement (.vfsubD o) := by
  intro w h
  cases h
  exact fits_T (by decide) (by decide) (by decide) _
theorem Form.vfsubF o : Statement (.vfsubF o) := by
  intro w h
  cases h
  exact fits_T (by decide) (by decide) (by decide) _
theorem Form.vfsubH4 o : Statement (.vfsubH4 o) := by
  intro w h
  cases h
  exact fits_T (by decide) (by decide) (by decide) _
theorem Form.vfsubB4 o : Statement (.vfsubB4 o) := by
  intro w h
  cases h
  exact fits_T (by decide) (by decide) (by decide) _
theorem Form.vfmulD o : Statement (.vfmulD o) := by
  intro w h
  cases h
  exact fits_T (by decide) (by decide) (by decide) _
theorem Form.vfmulF o : Statement (.vfmulF o) := by
  intro w h
  cases h
  exact fits_T (by decide) (by decide) (by decide) _
theorem Form.vfmulH4 o : Statement (.vfmulH4 o) := by
  intro w h
  cases h
  exact fits_T (by decide) (by decide) (by decide) _
theorem Form.vfmulB4 o : Statement (.vfmulB4 o) := by
  intro w h
  cases h
  exact fits_T (by decide) (by decide) (by decide) _
theorem Form.vfmaD o : Statement (.vfmaD o) := by
  intro w h
  cases h
  exact fits_T (by decide) (by decide) (by decide) _
theorem Form.vfmaF o : Statement (.vfmaF o) := by
  intro w h
  cases h
  exact fits_T (by decide) (by decide) (by decide) _
theorem Form.vfmaH4 o : Statement (.vfmaH4 o) := by
  intro w h
  cases h
  exact fits_T (by decide) (by decide) (by decide) _
theorem Form.vfmaB4 o : Statement (.vfmaB4 o) := by
  intro w h
  cases h
  exact fits_T (by decide) (by decide) (by decide) _
theorem Form.vfminD o : Statement (.vfminD o) := by
  intro w h
  cases h
  exact fits_T (by decide) (by decide) (by decide) _
theorem Form.vfmaxD o : Statement (.vfmaxD o) := by
  intro w h
  cases h
  exact fits_T (by decide) (by decide) (by decide) _
theorem Form.vfminF o : Statement (.vfminF o) := by
  intro w h
  cases h
  exact fits_T (by decide) (by decide) (by decide) _
theorem Form.vfmaxF o : Statement (.vfmaxF o) := by
  intro w h
  cases h
  exact fits_T (by decide) (by decide) (by decide) _
theorem Form.vfdivD o : Statement (.vfdivD o) := by
  intro w h
  cases h
  exact fits_T (by decide) (by decide) (by decide) _
theorem Form.vfdivF o : Statement (.vfdivF o) := by
  intro w h
  cases h
  exact fits_T (by decide) (by decide) (by decide) _
theorem Form.vfsqrtD o : Statement (.vfsqrtD o) := by
  intro w h
  cases h
  exact fits_T (by decide) (by decide) (by decide) _
theorem Form.vfsqrtF o : Statement (.vfsqrtF o) := by
  intro w h
  cases h
  exact fits_T (by decide) (by decide) (by decide) _
theorem Form.vfcmpEqD o : Statement (.vfcmpEqD o) := by
  intro w h
  cases h
  exact fits_T (by decide) (by decide) (by decide) _
theorem Form.vfcmpLtD o : Statement (.vfcmpLtD o) := by
  intro w h
  cases h
  exact fits_T (by decide) (by decide) (by decide) _
theorem Form.vfcmpLeD o : Statement (.vfcmpLeD o) := by
  intro w h
  cases h
  exact fits_T (by decide) (by decide) (by decide) _
theorem Form.vfcmpUnD o : Statement (.vfcmpUnD o) := by
  intro w h
  cases h
  exact fits_T (by decide) (by decide) (by decide) _
theorem Form.vfcmpEqF o : Statement (.vfcmpEqF o) := by
  intro w h
  cases h
  exact fits_T (by decide) (by decide) (by decide) _
theorem Form.vfcmpLtF o : Statement (.vfcmpLtF o) := by
  intro w h
  cases h
  exact fits_T (by decide) (by decide) (by decide) _
theorem Form.vfcmpLeF o : Statement (.vfcmpLeF o) := by
  intro w h
  cases h
  exact fits_T (by decide) (by decide) (by decide) _
theorem Form.vfcmpUnF o : Statement (.vfcmpUnF o) := by
  intro w h
  cases h
  exact fits_T (by decide) (by decide) (by decide) _
theorem Form.vcvt o : Statement (.vcvt o) := by
  intro w h
  cases h
  exact fits_T (by decide) (by decide) o.r.isLt _
theorem Form.vfrintD o : Statement (.vfrintD o) := by
  intro w h
  cases h
  exact fits_T (by decide) (by decide) (by decide) _
theorem Form.vfrintF o : Statement (.vfrintF o) := by
  intro w h
  cases h
  exact fits_T (by decide) (by decide) (by decide) _
theorem Form.vfclassD o : Statement (.vfclassD o) := by
  intro w h
  cases h
  exact fits_T (by decide) (by decide) (by decide) _
theorem Form.vfclassF o : Statement (.vfclassF o) := by
  intro w h
  cases h
  exact fits_T (by decide) (by decide) (by decide) _
theorem Form.vrcpF o : Statement (.vrcpF o) := by
  intro w h
  cases h
  exact fits_T (by decide) (by decide) (by decide) _
theorem Form.vrsqF o : Statement (.vrsqF o) := by
  intro w h
  cases h
  exact fits_T (by decide) (by decide) (by decide) _
theorem Form.vexp2F o : Statement (.vexp2F o) := by
  intro w h
  cases h
  exact fits_T (by decide) (by decide) (by decide) _
theorem Form.vlog2F o : Statement (.vlog2F o) := by
  intro w h
  cases h
  exact fits_T (by decide) (by decide) (by decide) _
theorem Form.vrng o : Statement (.vrng o) := by
  intro w h
  cases h
  exact fits_T (by decide) (by decide) (by decide) _
theorem Form.vldD o : Statement (.vldD o) := by
  intro w h
  cases h
  exact fits_M (by decide) (by decide) _ _ _ _ _ _ _
theorem Form.vldW o : Statement (.vldW o) := by
  intro w h
  cases h
  exact fits_M (by decide) (by decide) _ _ _ _ _ _ _
theorem Form.vldH o : Statement (.vldH o) := by
  intro w h
  cases h
  exact fits_M (by decide) (by decide) _ _ _ _ _ _ _
theorem Form.vldB o : Statement (.vldB o) := by
  intro w h
  cases h
  exact fits_M (by decide) (by decide) _ _ _ _ _ _ _
theorem Form.vstD o : Statement (.vstD o) := by
  intro w h
  cases h
  exact fits_M (by decide) (by decide) _ _ _ _ _ _ _
theorem Form.vstW o : Statement (.vstW o) := by
  intro w h
  cases h
  exact fits_M (by decide) (by decide) _ _ _ _ _ _ _
theorem Form.vstH o : Statement (.vstH o) := by
  intro w h
  cases h
  exact fits_M (by decide) (by decide) _ _ _ _ _ _ _
theorem Form.vstB o : Statement (.vstB o) := by
  intro w h
  cases h
  exact fits_M (by decide) (by decide) _ _ _ _ _ _ _
theorem Form.sld o : Statement (.sld o) := by
  intro w h
  cases h
  exact fits_M (by decide) (by decide) _ _ _ _ _ _ _
theorem Form.sst o : Statement (.sst o) := by
  intro w h
  cases h
  exact fits_M (by decide) (by decide) _ _ _ _ _ _ _
theorem Form.pref o : Statement (.pref o) := by
  intro w h
  cases h
  exact fits_M (by decide) (by decide) _ _ _ _ _ _ _
theorem Form.ldkD o : Statement (.ldkD o) := by
  intro w h
  cases h
  exact fits_S (by decide) (by decide) _ _ o.imm.isLt
theorem Form.ldkW o : Statement (.ldkW o) := by
  intro w h
  cases h
  exact fits_S (by decide) (by decide) _ _ o.imm.isLt
theorem Form.stkD o : Statement (.stkD o) := by
  intro w h
  cases h
  exact fits_S (by decide) (by decide) _ _ o.imm.isLt
theorem Form.stkW o : Statement (.stkW o) := by
  intro w h
  cases h
  exact fits_S (by decide) (by decide) _ _ o.imm.isLt
theorem Form.ldkAcq d a : Statement (.ldkAcq d a) := by
  intro w h
  cases h
  exact fits_X (by decide) (by decide) (by decide) (by omega) (by omega) (by omega)
theorem Form.stkRel a b : Statement (.stkRel a b) := by
  intro w h
  cases h
  exact fits_X (by decide) (by decide) (by decide) (by omega) (by omega) (by omega)
theorem Form.vldAcq d a b : Statement (.vldAcq d a b) := by
  intro w h
  cases h
  exact fits_X (by decide) (by decide) (by decide) (by omega) (by omega) (by omega)
theorem Form.vstRel d a b : Statement (.vstRel d a b) := by
  intro w h
  cases h
  exact fits_X (by decide) (by decide) (by decide) (by omega) (by omega) (by omega)
theorem Form.vatomAddI32 o : Statement (.vatomAddI32 o) := by
  intro w h
  cases h
  exact fits_T (by decide) (by decide) (by decide) _
theorem Form.vatomMinI32 o : Statement (.vatomMinI32 o) := by
  intro w h
  cases h
  exact fits_T (by decide) (by decide) (by decide) _
theorem Form.vatomMaxI32 o : Statement (.vatomMaxI32 o) := by
  intro w h
  cases h
  exact fits_T (by decide) (by decide) (by decide) _
theorem Form.vatomXchgI32 o : Statement (.vatomXchgI32 o) := by
  intro w h
  cases h
  exact fits_T (by decide) (by decide) (by decide) _
theorem Form.vatomAddI64 o : Statement (.vatomAddI64 o) := by
  intro w h
  cases h
  exact fits_T (by decide) (by decide) (by decide) _
theorem Form.vatomMinI64 o : Statement (.vatomMinI64 o) := by
  intro w h
  cases h
  exact fits_T (by decide) (by decide) (by decide) _
theorem Form.vatomMaxI64 o : Statement (.vatomMaxI64 o) := by
  intro w h
  cases h
  exact fits_T (by decide) (by decide) (by decide) _
theorem Form.vatomXchgI64 o : Statement (.vatomXchgI64 o) := by
  intro w h
  cases h
  exact fits_T (by decide) (by decide) (by decide) _
theorem Form.vatomAddF o : Statement (.vatomAddF o) := by
  intro w h
  cases h
  exact fits_T (by decide) (by decide) (by decide) _
theorem Form.vatomAddD o : Statement (.vatomAddD o) := by
  intro w h
  cases h
  exact fits_T (by decide) (by decide) (by decide) _
theorem Form.vatomAndI64 o : Statement (.vatomAndI64 o) := by
  intro w h
  cases h
  exact fits_T (by decide) (by decide) (by decide) _
theorem Form.vatomOrI64 o : Statement (.vatomOrI64 o) := by
  intro w h
  cases h
  exact fits_T (by decide) (by decide) (by decide) _
theorem Form.vcasI32 o : Statement (.vcasI32 o) := by
  intro w h
  cases h
  exact fits_T (by decide) (by decide) (by decide) _
theorem Form.vcasI64 o : Statement (.vcasI64 o) := by
  intro w h
  cases h
  exact fits_T (by decide) (by decide) (by decide) _
theorem Form.atomkAdd d a b : Statement (.atomkAdd d a b) := by
  intro w h
  cases h
  exact fits_X (by decide) (by decide) (by decide) (by omega) (by omega) (by omega)
theorem Form.atomkXchg d a b : Statement (.atomkXchg d a b) := by
  intro w h
  cases h
  exact fits_X (by decide) (by decide) (by decide) (by omega) (by omega) (by omega)
theorem Form.cask d a b : Statement (.cask d a b) := by
  intro w h
  cases h
  exact fits_X (by decide) (by decide) (by decide) (by omega) (by omega) (by omega)
theorem Form.atomkFadd d a b : Statement (.atomkFadd d a b) := by
  intro w h
  cases h
  exact fits_X (by decide) (by decide) (by decide) (by omega) (by omega) (by omega)
theorem Form.lock a : Statement (.lock a) := by
  intro w h
  cases h
  exact fits_X (by decide) (by decide) (by decide) (by omega) (by omega) (by omega)
theorem Form.unlock a : Statement (.unlock a) := by
  intro w h
  cases h
  exact fits_X (by decide) (by decide) (by decide) (by omega) (by omega) (by omega)
theorem Form.waitm d a b : Statement (.waitm d a b) := by
  intro w h
  cases h
  exact fits_X (by decide) (by decide) (by decide) (by omega) (by omega) (by omega)
theorem Form.xpect a b : Statement (.xpect a b) := by
  intro w h
  cases h
  exact fits_X (by decide) (by decide) (by decide) (by omega) (by omega) (by omega)
theorem Form.waitc a b : Statement (.waitc a b) := by
  intro w h
  cases h
  exact fits_X (by decide) (by decide) (by decide) (by omega) (by omega) (by omega)
theorem Form.arst a : Statement (.arst a) := by
  intro w h
  cases h
  exact fits_X (by decide) (by decide) (by decide) (by omega) (by omega) (by omega)
theorem Form.cpyT d a b : Statement (.cpyT d a b) := by
  intro w h
  cases h
  exact fits_X (by decide) (by decide) (by decide) (by omega) (by omega) (by omega)
theorem Form.cpyTs d a b : Statement (.cpyTs d a b) := by
  intro w h
  cases h
  exact fits_X (by decide) (by decide) (by decide) (by omega) (by omega) (by omega)
theorem Form.cpyRed d a : Statement (.cpyRed d a) := by
  intro w h
  cases h
  exact fits_X (by decide) (by decide) (by decide) (by omega) (by omega) (by omega)
theorem Form.cpyRem d a : Statement (.cpyRem d a) := by
  intro w h
  cases h
  exact fits_X (by decide) (by decide) (by decide) (by omega) (by omega) (by omega)
theorem Form.cpyL o : Statement (.cpyL o) := by
  intro w h
  cases h
  exact fits_M (by decide) (by decide) _ _ _ _ _ _ _
theorem Form.qntEnc d a : Statement (.qntEnc d a) := by
  intro w h
  cases h
  exact fits_X (by decide) (by decide) (by decide) (by omega) (by omega) (by omega)
theorem Form.qntDec d a : Statement (.qntDec d a) := by
  intro w h
  cases h
  exact fits_X (by decide) (by decide) (by decide) (by omega) (by omega) (by omega)
theorem Form.gath d a : Statement (.gath d a) := by
  intro w h
  cases h
  exact fits_X (by decide) (by decide) (by decide) (by omega) (by omega) (by omega)
theorem Form.gcsr d a b : Statement (.gcsr d a b) := by
  intro w h
  cases h
  exact fits_X (by decide) (by decide) (by decide) (by omega) (by omega) (by omega)
theorem Form.mlda n a : Statement (.mlda n a) := by
  intro w h
  cases h
  exact fits_X (by decide) (by decide) (by decide) (by omega) (by omega) (by omega)
theorem Form.mldb n a : Statement (.mldb n a) := by
  intro w h
  cases h
  exact fits_X (by decide) (by decide) (by decide) (by omega) (by omega) (by omega)
theorem Form.mma d a b : Statement (.mma d a b) := by
  intro w h
  cases h
  exact fits_X (by decide) (by decide) (by decide) (by omega) (by omega) (by omega)
theorem Form.mmaC d a b : Statement (.mmaC d a b) := by
  intro w h
  cases h
  exact fits_X (by decide) (by decide) (by decide) (by omega) (by omega) (by omega)
theorem Form.mmaS d a : Statement (.mmaS d a) := by
  intro w h
  cases h
  exact fits_X (by decide) (by decide) (by decide) (by omega) (by omega) (by omega)
theorem Form.mzero d : Statement (.mzero d) := by
  intro w h
  cases h
  exact fits_X (by decide) (by decide) (by decide) (by omega) (by omega) (by omega)
theorem Form.mst d a b : Statement (.mst d a b) := by
  intro w h
  cases h
  exact fits_X (by decide) (by decide) (by decide) (by omega) (by omega) (by omega)
theorem Form.mfence : Statement .mfence := by
  intro w h
  cases h
  exact fits_X (by decide) (by decide) (by decide) (by omega) (by omega) (by omega)
theorem Form.mwait a n : Statement (.mwait a n) := by
  intro w h
  cases h
  exact fits_X (by decide) (by decide) (by decide) (by omega) (by omega) (by omega)
theorem Form.mprog d n : Statement (.mprog d n) := by
  intro w h
  cases h
  exact fits_X (by decide) (by decide) (by decide) (by omega) (by omega) (by omega)
theorem Form.bid a c : Statement (.bid a c) := by
  intro w h
  cases h
  exact fits_X (by decide) (by decide) (by decide) (by omega) (by omega) (by omega)
theorem Form.bidr d c : Statement (.bidr d c) := by
  intro w h
  cases h
  exact fits_X (by decide) (by decide) (by decide) (by omega) (by omega) (by omega)
theorem Form.price d c : Statement (.price d c) := by
  intro w h
  cases h
  exact fits_X (by decide) (by decide) (by decide) (by omega) (by omega) (by omega)
theorem Form.lease d c : Statement (.lease d c) := by
  intro w h
  cases h
  exact fits_X (by decide) (by decide) (by decide) (by omega) (by omega) (by omega)
theorem Form.peerp d a c : Statement (.peerp d a c) := by
  intro w h
  cases h
  exact fits_X (by decide) (by decide) (by decide) (by omega) (by omega) (by omega)
theorem Form.jnlX d a b : Statement (.jnlX d a b) := by
  intro w h
  cases h
  exact fits_X (by decide) (by decide) (by decide) (by omega) (by omega) (by omega)
theorem Form.jmark a b : Statement (.jmark a b) := by
  intro w h
  cases h
  exact fits_X (by decide) (by decide) (by decide) (by omega) (by omega) (by omega)
theorem Form.jtrunc a : Statement (.jtrunc a) := by
  intro w h
  cases h
  exact fits_X (by decide) (by decide) (by decide) (by omega) (by omega) (by omega)
theorem Form.emit d a b : Statement (.emit d a b) := by
  intro w h
  cases h
  exact fits_X (by decide) (by decide) (by decide) (by omega) (by omega) (by omega)
theorem Form.jstat d a n : Statement (.jstat d a n) := by
  intro w h
  cases h
  exact fits_X (by decide) (by decide) (by decide) (by omega) (by omega) (by omega)
theorem Form.hx p : Statement (.hx p) := by
  intro w h
  cases h
  exact fits_H (by decide) (by omega)
theorem Form.hj p : Statement (.hj p) := by
  intro w h
  cases h
  exact fits_H (by decide) (by omega)
theorem Form.hs c m : Statement (.hs c m) := by
  intro w h
  cases h
  exact fits_H (by decide) (by omega)
theorem Form.hp m : Statement (.hp m) := by
  intro w h
  cases h
  exact fits_H (by decide) (by omega)
theorem Form.hc m : Statement (.hc m) := by
  intro w h
  cases h
  exact fits_H (by decide) (by omega)
theorem Form.branchResolve x0 : Statement (.branchResolve x0) := fun _ h => nomatch h
theorem Form.resultLands x0 x1 : Statement (.resultLands x0 x1) := fun _ h => nomatch h
theorem Form.engineRequestAccept x0 : Statement (.engineRequestAccept x0) := fun _ h => nomatch h
theorem Form.landing x0 : Statement (.landing x0) := fun _ h => nomatch h
theorem Form.tokenFill x0 : Statement (.tokenFill x0) := fun _ h => nomatch h
theorem Form.matrixCommandStart x0 : Statement (.matrixCommandStart x0) := fun _ h => nomatch h
theorem Form.matrixCommandComplete x0 x1 : Statement (.matrixCommandComplete x0 x1) := fun _ h => nomatch h
theorem Form.barrierMessage x0 x1 x2 : Statement (.barrierMessage x0 x1 x2) := fun _ h => nomatch h
theorem Form.barrierRelease x0 x1 x2 : Statement (.barrierRelease x0 x1 x2) := fun _ h => nomatch h
theorem Form.lockRequest x0 x1 : Statement (.lockRequest x0 x1) := fun _ h => nomatch h
theorem Form.unlockRequest x0 x1 : Statement (.unlockRequest x0 x1) := fun _ h => nomatch h
theorem Form.lockGrant x0 x1 : Statement (.lockGrant x0 x1) := fun _ h => nomatch h
theorem Form.lockWithdrawal x0 x1 : Statement (.lockWithdrawal x0 x1) := fun _ h => nomatch h
theorem Form.lockReleaseNotice x0 x1 : Statement (.lockReleaseNotice x0 x1) := fun _ h => nomatch h
theorem Form.monitorWake x0 : Statement (.monitorWake x0) := fun _ h => nomatch h
theorem Form.monitorRelease x0 : Statement (.monitorRelease x0) := fun _ h => nomatch h
theorem Form.ownershipRegistration x0 x1 : Statement (.ownershipRegistration x0 x1) := fun _ h => nomatch h
theorem Form.registrationAck x0 x1 : Statement (.registrationAck x0 x1) := fun _ h => nomatch h
theorem Form.revocation x0 x1 : Statement (.revocation x0 x1) := fun _ h => nomatch h
theorem Form.recall x0 x1 : Statement (.recall x0 x1) := fun _ h => nomatch h
theorem Form.writeBack x0 x1 : Statement (.writeBack x0 x1) := fun _ h => nomatch h
theorem Form.lineFill x0 x1 : Statement (.lineFill x0 x1) := fun _ h => nomatch h
theorem Form.atomicAtHome x0 x1 : Statement (.atomicAtHome x0 x1) := fun _ h => nomatch h
theorem Form.reductionContribution x0 x1 : Statement (.reductionContribution x0 x1) := fun _ h => nomatch h
theorem Form.aliasAccess x0 x1 : Statement (.aliasAccess x0 x1) := fun _ h => nomatch h
theorem Form.pageWalkDone x0 x1 : Statement (.pageWalkDone x0 x1) := fun _ h => nomatch h
theorem Form.trapRecordWrite x0 : Statement (.trapRecordWrite x0) := fun _ h => nomatch h
theorem Form.contextEnd x0 x1 x2 : Statement (.contextEnd x0 x1 x2) := fun _ h => nomatch h
theorem Form.intervalEnd : Statement .intervalEnd := fun _ h => nomatch h
theorem Form.timeSlice : Statement .timeSlice := fun _ h => nomatch h
theorem Form.leaseChange : Statement .leaseChange := fun _ h => nomatch h
theorem Form.sidingTransfer x0 x1 : Statement (.sidingTransfer x0 x1) := fun _ h => nomatch h
theorem Form.depotSave x0 : Statement (.depotSave x0) := fun _ h => nomatch h
theorem Form.gangResume x0 : Statement (.gangResume x0) := fun _ h => nomatch h
theorem Form.cometMigration x0 x1 : Statement (.cometMigration x0 x1) := fun _ h => nomatch h
theorem Form.notifyWrite x0 x1 : Statement (.notifyWrite x0 x1) := fun _ h => nomatch h
theorem Form.headerPollTimer x0 : Statement (.headerPollTimer x0) := fun _ h => nomatch h
theorem Form.launchPacket x0 : Statement (.launchPacket x0) := fun _ h => nomatch h
theorem Form.bundlePacket x0 : Statement (.bundlePacket x0) := fun _ h => nomatch h
theorem Form.waitPacket x0 : Statement (.waitPacket x0) := fun _ h => nomatch h
theorem Form.waitPollTimer x0 : Statement (.waitPollTimer x0) := fun _ h => nomatch h
theorem Form.skipPacket x0 : Statement (.skipPacket x0) := fun _ h => nomatch h
theorem Form.copyPacket x0 : Statement (.copyPacket x0) := fun _ h => nomatch h
theorem Form.quantisePacket x0 : Statement (.quantisePacket x0) := fun _ h => nomatch h
theorem Form.launchStart x0 : Statement (.launchStart x0) := fun _ h => nomatch h
theorem Form.blockDispatch x0 x1 : Statement (.blockDispatch x0 x1) := fun _ h => nomatch h
theorem Form.launchRetire x0 : Statement (.launchRetire x0) := fun _ h => nomatch h
theorem Form.mgSemaWrite x0 x1 : Statement (.mgSemaWrite x0 x1) := fun _ h => nomatch h
theorem Form.mgPkgidWrite x0 x1 : Statement (.mgPkgidWrite x0 x1) := fun _ h => nomatch h
theorem Form.mkIntvWrite x0 x1 : Statement (.mkIntvWrite x0 x1) := fun _ h => nomatch h
theorem Form.mkFloorWrite x0 x1 x2 : Statement (.mkFloorWrite x0 x1 x2) := fun _ h => nomatch h
theorem Form.cxTenantWrite x0 x1 x2 : Statement (.cxTenantWrite x0 x1 x2) := fun _ h => nomatch h
theorem Form.jsCmdOpen x0 x1 x2 : Statement (.jsCmdOpen x0 x1 x2) := fun _ h => nomatch h
theorem Form.jsCmdClose x0 x1 x2 : Statement (.jsCmdClose x0 x1 x2) := fun _ h => nomatch h
theorem Form.qcCfgWrite x0 x1 x2 : Statement (.qcCfgWrite x0 x1 x2) := fun _ h => nomatch h
theorem Form.csrWrite x0 x1 x2 : Statement (.csrWrite x0 x1 x2) := fun _ h => nomatch h
theorem Form.rmaWrite x0 : Statement (.rmaWrite x0) := fun _ h => nomatch h
theorem Form.rmaRead x0 : Statement (.rmaRead x0) := fun _ h => nomatch h
theorem Form.rodConnectionFailure x0 : Statement (.rodConnectionFailure x0) := fun _ h => nomatch h
theorem Form.emitDeliveryAck x0 : Statement (.emitDeliveryAck x0) := fun _ h => nomatch h
theorem Form.emitDeliveryTimeout x0 : Statement (.emitDeliveryTimeout x0) := fun _ h => nomatch h
theorem Form.journalRecordAccept x0 : Statement (.journalRecordAccept x0) := fun _ h => nomatch h
theorem Form.partnerReassign x0 x1 x2 : Statement (.partnerReassign x0 x1 x2) := fun _ h => nomatch h
theorem Form.nopartnerTimeout x0 : Statement (.nopartnerTimeout x0) := fun _ h => nomatch h
theorem Form.partnerSilenceTimer x0 : Statement (.partnerSilenceTimer x0) := fun _ h => nomatch h
theorem Form.sourceAckTimer x0 : Statement (.sourceAckTimer x0) := fun _ h => nomatch h
theorem Form.probeTimeout x0 : Statement (.probeTimeout x0) := fun _ h => nomatch h
theorem Form.liveTimer x0 : Statement (.liveTimer x0) := fun _ h => nomatch h
theorem Form.linkSilenceTimeout x0 : Statement (.linkSilenceTimeout x0) := fun _ h => nomatch h
theorem Form.flitCrcError x0 : Statement (.flitCrcError x0) := fun _ h => nomatch h
theorem Form.linkLockLoss x0 : Statement (.linkLockLoss x0) := fun _ h => nomatch h
theorem Form.linkRetrainDone x0 x1 : Statement (.linkRetrainDone x0 x1) := fun _ h => nomatch h
theorem Form.planeAckTimeout x0 x1 : Statement (.planeAckTimeout x0 x1) := fun _ h => nomatch h
theorem Form.planeProbeTimer x0 x1 : Statement (.planeProbeTimer x0 x1) := fun _ h => nomatch h
theorem Form.routeReturn x0 : Statement (.routeReturn x0) := fun _ h => nomatch h
theorem Form.live x0 : Statement (.live x0) := fun _ h => nomatch h
theorem Form.rdreq x0 : Statement (.rdreq x0) := fun _ h => nomatch h
theorem Form.rdrsp x0 : Statement (.rdrsp x0) := fun _ h => nomatch h
theorem Form.pwr x0 : Statement (.pwr x0) := fun _ h => nomatch h
theorem Form.evict x0 : Statement (.evict x0) := fun _ h => nomatch h
theorem Form.inv x0 : Statement (.inv x0) := fun _ h => nomatch h
theorem Form.atom x0 : Statement (.atom x0) := fun _ h => nomatch h
theorem Form.atrsp x0 : Statement (.atrsp x0) := fun _ h => nomatch h
theorem Form.flush x0 : Statement (.flush x0) := fun _ h => nomatch h
theorem Form.flrsp x0 : Statement (.flrsp x0) := fun _ h => nomatch h
theorem Form.mcast x0 : Statement (.mcast x0) := fun _ h => nomatch h
theorem Form.red x0 : Statement (.red x0) := fun _ h => nomatch h
theorem Form.pricePacket x0 : Statement (.pricePacket x0) := fun _ h => nomatch h
theorem Form.jrec x0 : Statement (.jrec x0) := fun _ h => nomatch h
theorem Form.jack x0 : Statement (.jack x0) := fun _ h => nomatch h
theorem Form.ewr x0 : Statement (.ewr x0) := fun _ h => nomatch h
theorem Form.eack x0 : Statement (.eack x0) := fun _ h => nomatch h
theorem Form.probe x0 : Statement (.probe x0) := fun _ h => nomatch h
theorem Form.prsp x0 : Statement (.prsp x0) := fun _ h => nomatch h
theorem Form.powerGood : Statement .powerGood := fun _ h => nomatch h
theorem Form.bringupStageDone x0 : Statement (.bringupStageDone x0) := fun _ h => nomatch h
theorem Form.bringupStageTimeout x0 : Statement (.bringupStageTimeout x0) := fun _ h => nomatch h
theorem Form.illegalWord x0 x1 : Statement (.illegalWord x0 x1) := fun _ h => nomatch h
theorem Form.fetchFault x0 x1 : Statement (.fetchFault x0 x1) := fun _ h => nomatch h
theorem Form.accessAtHome x0 x1 : Statement (.accessAtHome x0 x1) := fun _ h => nomatch h
theorem Form.endToEndAcknowledgement x0 x1 x2 : Statement (.endToEndAcknowledgement x0 x1 x2) := fun _ h => nomatch h
theorem Form.takeoverReportSendComplete x0 : Statement (.takeoverReportSendComplete x0) := fun _ h => nomatch h
theorem Form.attestationRequest x0 : Statement (.attestationRequest x0) := fun _ h => nomatch h
theorem Form.powerLoss : Statement .powerLoss := fun _ h => nomatch h

end Sys2Proof.Laws
end

