-- ==== Sys2Proof/Tests/Slice0.lean ====
section
/-! SUPPORT. Tests: what the checks and the decoder refuse and read, one step of some instructions, and for each statement a state and
operands that meet its hypotheses. The expected words are written from the opcode table, the expected results by hand from the rules. -/
namespace Sys2Proof.Tests
open Sys2Proof Sys2Proof.Machine
set_option Elab.async false

/-! Each check of WellFormed refuses a term that fails it. -/

theorem test_wf_counts : (Instr.brk 0 1 5).defect = some 4 ∧ (Instr.brk 1 1 5).wf = true ∧ (Instr.barB 16).defect = some 4 ∧
    (Instr.baraB 16).defect = some 4 ∧ (Instr.barwB 16).defect = some 4 ∧ (Instr.barB 15).wf = true ∧ (Instr.barG 4).defect = some 4 ∧
    (Instr.baraG 4).defect = some 4 ∧ (Instr.barwG 4).defect = some 4 ∧ (Instr.barwG 3).wf = true ∧ (Instr.tlbinv 4 1 2).defect = some 4 ∧
    (Instr.tlbinv 3 1 2).wf = true := by decide +kernel

theorem test_wf_specials : (Instr.get 5 3).defect = some 4 ∧ (Instr.get 5 7).defect = some 4 ∧ (Instr.get 5 0x13).defect = some 4 ∧
    (Instr.get 5 0x19).defect = some 4 ∧ (Instr.get 5 0x12).wf = true ∧ (Instr.set 3 5).defect = some 4 ∧ (Instr.set 2 5).wf = true := by
  decide +kernel

theorem test_wf_vectors : (Instr.vcvt ⟨1, 2, 0x3C, 0, false, 0⟩).defect = some 2 ∧ (Instr.vcvt ⟨1, 2, 0x3B, 0, false, 0⟩).wf = true ∧
    (Instr.vldD ⟨1, 2, 3, 0, false, 3, false⟩).defect = some 4 ∧ (Instr.vldW ⟨1, 2, 3, 0, false, 3, false⟩).defect = some 4 ∧
    (Instr.vldH ⟨1, 2, 3, 0, false, 3, false⟩).defect = some 4 ∧ (Instr.vldB ⟨1, 2, 3, 0, false, 3, false⟩).defect = some 4 ∧
    (Instr.vstD ⟨1, 2, 3, 0, false, 3, false⟩).defect = some 4 ∧ (Instr.vstW ⟨1, 2, 3, 0, false, 3, false⟩).defect = some 4 ∧
    (Instr.vstH ⟨1, 2, 3, 0, false, 3, false⟩).defect = some 4 ∧ (Instr.vstB ⟨1, 2, 3, 0, false, 3, false⟩).defect = some 4 ∧
    (Instr.vldD ⟨1, 2, 3, 0, false, 2, false⟩).wf = true ∧ (Instr.sld ⟨1, 2, 3, 0, false, 3, false⟩).wf = true ∧
    (Instr.pref ⟨2, 3, 0, false, 2, false⟩).defect = some 4 ∧ (Instr.pref ⟨2, 3, 0, false, 1, false⟩).wf = true ∧
    (Instr.cpyL ⟨1, 2, 3, 0, false, 3⟩).defect = some 4 := by decide +kernel

theorem test_wf_bases : (Instr.cpyT 1 53 4).defect = some 4 ∧ (Instr.cpyT 1 52 62).defect = some 4 ∧ (Instr.cpyT 1 52 61).wf = true ∧
    (Instr.cpyTs 1 0 4).defect = some 4 ∧ (Instr.cpyRed 1 61).defect = some 4 ∧ (Instr.cpyRem 1 62).defect = some 4 ∧
    (Instr.qntEnc 1 61).defect = some 4 ∧ (Instr.qntDec 1 0).defect = some 4 ∧ (Instr.gath 1 61).defect = some 4 ∧
    (Instr.mst 1 2 63).defect = some 4 ∧ (Instr.jnlX 1 63 2).defect = some 4 ∧ (Instr.jmark 0 2).defect = some 4 ∧
    (Instr.jtrunc 63).defect = some 4 ∧ (Instr.emit 1 63 2).defect = some 4 ∧ (Instr.jstat 1 63 0).defect = some 4 ∧
    (Instr.jstat 1 62 6).defect = some 4 ∧ (Instr.jstat 1 62 5).wf = true := by decide +kernel

theorem test_wf_matrix_market : (Instr.mlda 2 5).defect = some 4 ∧ (Instr.mldb 0 63).defect = some 4 ∧ (Instr.mlda 1 62).wf = true ∧
    (Instr.mma 0 2 0).defect = some 4 ∧ (Instr.mma 0 0 2).defect = some 4 ∧ (Instr.mmaC 0 1 2).defect = some 4 ∧
    (Instr.mmaS 0 2).defect = some 4 ∧ (Instr.mprog 1 4).defect = some 4 ∧ (Instr.bid 1 5).defect = some 4 ∧ (Instr.bidr 1 5).defect = some 4 ∧
    (Instr.price 1 5).defect = some 4 ∧ (Instr.lease 1 5).defect = some 4 ∧ (Instr.peerp 1 2 5).defect = some 4 ∧
    (Instr.peerp 1 2 4).wf = true := by decide +kernel

theorem test_wf_hints : (Instr.hs 1 1).defect = some 3 ∧ (Instr.hs 0 2).defect = some 4 ∧ (Instr.hs 0 0).defect = some 4 ∧
    (Instr.hs 5 3).defect = some 4 ∧ (Instr.hs 0 1).wf = true ∧ (Instr.hs 31 2).wf = true ∧ (Instr.hp 5).defect = some 4 ∧
    (Instr.hp 4).wf = true ∧ (Instr.hc 3).defect = some 4 ∧ (Instr.hc 2).wf = true := by decide +kernel

/-- What decoding refuses, by name: reserved majors, reserved minors, unused bits that are not 0, field values (R374, Table 23.1). -/
theorem test_refused : decodeWord 0 = .error .major ∧ decodeWord (0x1B * 2 ^ 25) = .error .major ∧ decodeWord (0x7E * 2 ^ 25) = .error .major ∧
    decodeWord (0x08 * 2 ^ 25 + 3) = .error .minor ∧ decodeWord (0x17 * 2 ^ 25 + 7) = .error .minor ∧
    decodeWord (0x01 * 2 ^ 25 + 2 ^ 4) = .error .zeroBit ∧ decodeWord (0x17 * 2 ^ 25 + 2 ^ 7 + 5) = .error .zeroBit ∧
    decodeWord (0x16 * 2 ^ 25) = .error .fieldVal ∧ decodeWord (0x40 * 2 ^ 25 + 3 * 2) = .error .fieldVal := by decide +kernel

/-! Decoding: for each row of the opcode table, its fixed bits with its fields at other values. -/

theorem test_decode_01 :
    decodeWord (0x02000000 + 45 * 2 ^ 19 + 19 * 2 ^ 13 + 38 * 2 ^ 7 + 0 * 2 ^ 3 + 1 * 2 ^ 2) = .ok (.add ⟨45, 19, 38, false, true⟩) ∧
    decodeWord (0x02000001 + 45 * 2 ^ 19 + 19 * 2 ^ 13 + 38 * 2 ^ 7 + 1 * 2 ^ 3 + 0 * 2 ^ 2) = .ok (.sub ⟨45, 19, 38, true, false⟩) ∧
    decodeWord (0x02000002 + 45 * 2 ^ 19 + 19 * 2 ^ 13 + 38 * 2 ^ 7 + 0 * 2 ^ 3 + 1 * 2 ^ 2) = .ok (.mul ⟨45, 19, 38, false, true⟩) ∧
    decodeWord (0x02000003 + 45 * 2 ^ 19 + 19 * 2 ^ 13 + 38 * 2 ^ 7 + 1 * 2 ^ 3 + 0 * 2 ^ 2) = .ok (.mulh ⟨45, 19, 38, true, false⟩) := by
  decide +kernel

theorem test_decode_02 :
    decodeWord (0x04000000 + 45 * 2 ^ 19 + 19 * 2 ^ 13 + 38 * 2 ^ 7 + 0 * 2 ^ 3 + 1 * 2 ^ 2) = .ok (.div ⟨45, 19, 38, false, true⟩) ∧
    decodeWord (0x04000001 + 45 * 2 ^ 19 + 19 * 2 ^ 13 + 38 * 2 ^ 7 + 1 * 2 ^ 3 + 0 * 2 ^ 2) = .ok (.divn ⟨45, 19, 38, true, false⟩) ∧
    decodeWord (0x04000002 + 45 * 2 ^ 19 + 19 * 2 ^ 13 + 38 * 2 ^ 7 + 0 * 2 ^ 3 + 1 * 2 ^ 2) = .ok (.rem ⟨45, 19, 38, false, true⟩) ∧
    decodeWord (0x04000003 + 45 * 2 ^ 19 + 19 * 2 ^ 13 + 38 * 2 ^ 7 + 1 * 2 ^ 3 + 0 * 2 ^ 2) = .ok (.remn ⟨45, 19, 38, true, false⟩) := by
  decide +kernel

theorem test_decode_03 :
    decodeWord (0x06000000 + 45 * 2 ^ 19 + 19 * 2 ^ 13 + 38 * 2 ^ 7 + 0 * 2 ^ 3 + 1 * 2 ^ 2) = .ok (.and ⟨45, 19, 38, false, true⟩) ∧
    decodeWord (0x06000001 + 45 * 2 ^ 19 + 19 * 2 ^ 13 + 38 * 2 ^ 7 + 1 * 2 ^ 3 + 0 * 2 ^ 2) = .ok (.or ⟨45, 19, 38, true, false⟩) ∧
    decodeWord (0x06000002 + 45 * 2 ^ 19 + 19 * 2 ^ 13 + 38 * 2 ^ 7 + 0 * 2 ^ 3 + 1 * 2 ^ 2) = .ok (.xor ⟨45, 19, 38, false, true⟩) ∧
    decodeWord (0x06000003 + 45 * 2 ^ 19 + 19 * 2 ^ 13 + 38 * 2 ^ 7 + 1 * 2 ^ 3 + 0 * 2 ^ 2) = .ok (.andn ⟨45, 19, 38, true, false⟩) := by
  decide +kernel

theorem test_decode_04 :
    decodeWord (0x08000000 + 45 * 2 ^ 19 + 19 * 2 ^ 13 + 38 * 2 ^ 7 + 0 * 2 ^ 3 + 1 * 2 ^ 2) = .ok (.shl ⟨45, 19, 38, false, true⟩) ∧
    decodeWord (0x08000001 + 45 * 2 ^ 19 + 19 * 2 ^ 13 + 38 * 2 ^ 7 + 1 * 2 ^ 3 + 0 * 2 ^ 2) = .ok (.shr ⟨45, 19, 38, true, false⟩) ∧
    decodeWord (0x08000002 + 45 * 2 ^ 19 + 19 * 2 ^ 13 + 38 * 2 ^ 7 + 0 * 2 ^ 3 + 1 * 2 ^ 2) = .ok (.sha ⟨45, 19, 38, false, true⟩) ∧
    decodeWord (0x08000003 + 45 * 2 ^ 19 + 19 * 2 ^ 13 + 38 * 2 ^ 7 + 1 * 2 ^ 3 + 0 * 2 ^ 2) = .ok (.rot ⟨45, 19, 38, true, false⟩) := by
  decide +kernel

theorem test_decode_05 :
    decodeWord (0x0A000000 + 45 * 2 ^ 19 + 19 * 2 ^ 13 + 38 * 2 ^ 7 + 0 * 2 ^ 3 + 1 * 2 ^ 2) = .ok (.min ⟨45, 19, 38, false, true⟩) ∧
    decodeWord (0x0A000001 + 45 * 2 ^ 19 + 19 * 2 ^ 13 + 38 * 2 ^ 7 + 1 * 2 ^ 3 + 0 * 2 ^ 2) = .ok (.max ⟨45, 19, 38, true, false⟩) ∧
    decodeWord (0x0A000002 + 45 * 2 ^ 19 + 19 * 2 ^ 13 + 38 * 2 ^ 7 + 0 * 2 ^ 3 + 1 * 2 ^ 2) = .ok (.minn ⟨45, 19, 38, false, true⟩) ∧
    decodeWord (0x0A000003 + 45 * 2 ^ 19 + 19 * 2 ^ 13 + 38 * 2 ^ 7 + 1 * 2 ^ 3 + 0 * 2 ^ 2) = .ok (.maxn ⟨45, 19, 38, true, false⟩) := by
  decide +kernel

theorem test_decode_06 :
    decodeWord (0x0C000000 + 45 * 2 ^ 19 + 19 * 2 ^ 13 + 38 * 2 ^ 7 + 0 * 2 ^ 3 + 1 * 2 ^ 2) = .ok (.seq ⟨45, 19, 38, false, true⟩) ∧
    decodeWord (0x0C000001 + 45 * 2 ^ 19 + 19 * 2 ^ 13 + 38 * 2 ^ 7 + 1 * 2 ^ 3 + 0 * 2 ^ 2) = .ok (.slt ⟨45, 19, 38, true, false⟩) ∧
    decodeWord (0x0C000002 + 45 * 2 ^ 19 + 19 * 2 ^ 13 + 38 * 2 ^ 7 + 0 * 2 ^ 3 + 1 * 2 ^ 2) = .ok (.sltn ⟨45, 19, 38, false, true⟩) ∧
    decodeWord (0x0C000003 + 45 * 2 ^ 19 + 19 * 2 ^ 13 + 38 * 2 ^ 7 + 1 * 2 ^ 3 + 0 * 2 ^ 2) = .ok (.sne ⟨45, 19, 38, true, false⟩) := by
  decide +kernel

theorem test_decode_07 :
    decodeWord (0x0E000000 + 45 * 2 ^ 19 + 19 * 2 ^ 13 + 0 * 2 ^ 3) = .ok (.popc ⟨45, 19, false⟩) ∧
    decodeWord (0x0E000001 + 45 * 2 ^ 19 + 19 * 2 ^ 13 + 1 * 2 ^ 3) = .ok (.clz ⟨45, 19, true⟩) ∧
    decodeWord (0x0E000002 + 45 * 2 ^ 19 + 19 * 2 ^ 13 + 0 * 2 ^ 3) = .ok (.ctz ⟨45, 19, false⟩) ∧
    decodeWord (0x0E000003 + 45 * 2 ^ 19 + 19 * 2 ^ 13 + 1 * 2 ^ 3) = .ok (.brev ⟨45, 19, true⟩) := by
  decide +kernel

theorem test_decode_08 :
    decodeWord (0x10000000 + 45 * 2 ^ 19 + 19 * 2 ^ 13 + 38 * 2 ^ 7 + 0 * 2 ^ 3 + 1 * 2 ^ 2) = .ok (.bfx ⟨45, 19, 38, false, true⟩) ∧
    decodeWord (0x10000001 + 45 * 2 ^ 19 + 19 * 2 ^ 13 + 38 * 2 ^ 7 + 1 * 2 ^ 3 + 0 * 2 ^ 2) = .ok (.bfi ⟨45, 19, 38, true, false⟩) ∧
    decodeWord (0x10000002 + 45 * 2 ^ 19 + 19 * 2 ^ 13 + 0 * 2 ^ 3) = .ok (.mov ⟨45, 19, false⟩) := by
  decide +kernel

theorem test_decode_09 :
    decodeWord (0x12000000 + 45 * 2 ^ 19 + 19 * 2 ^ 13 + 6741 * 2 ^ 0) = .ok (.addi ⟨45, 19, 6741⟩) := by
  decide +kernel

theorem test_decode_0A :
    decodeWord (0x14000000 + 45 * 2 ^ 19 + 19 * 2 ^ 13 + 6741 * 2 ^ 0) = .ok (.andi ⟨45, 19, 6741⟩) := by
  decide +kernel

theorem test_decode_0B :
    decodeWord (0x16000000 + 45 * 2 ^ 19 + 19 * 2 ^ 13 + 6741 * 2 ^ 0) = .ok (.ori ⟨45, 19, 6741⟩) := by
  decide +kernel

theorem test_decode_0C :
    decodeWord (0x18000000 + 45 * 2 ^ 19 + 19 * 2 ^ 13 + 6741 * 2 ^ 0) = .ok (.xori ⟨45, 19, 6741⟩) := by
  decide +kernel

theorem test_decode_0D :
    decodeWord (0x1A000000 + 45 * 2 ^ 19 + 19 * 2 ^ 13 + 38 * 2 ^ 0) = .ok (.shli ⟨45, 19, 38⟩) ∧
    decodeWord (0x1A000800 + 45 * 2 ^ 19 + 19 * 2 ^ 13 + 38 * 2 ^ 0) = .ok (.shri ⟨45, 19, 38⟩) ∧
    decodeWord (0x1A001000 + 45 * 2 ^ 19 + 19 * 2 ^ 13 + 38 * 2 ^ 0) = .ok (.shai ⟨45, 19, 38⟩) ∧
    decodeWord (0x1A001800 + 45 * 2 ^ 19 + 19 * 2 ^ 13 + 38 * 2 ^ 0) = .ok (.roti ⟨45, 19, 38⟩) := by
  decide +kernel

theorem test_decode_0E :
    decodeWord (0x1C000000 + 45 * 2 ^ 19 + 6741 * 2 ^ 0) = .ok (.li 45 6741) := by
  decide +kernel

theorem test_decode_0F :
    decodeWord (0x1E000000 + 45 * 2 ^ 19 + 19 * 2 ^ 13 + 6741 * 2 ^ 0) = .ok (.lih ⟨45, 19, 6741⟩) := by
  decide +kernel

theorem test_decode_10 :
    decodeWord (0x20000000 + 370085 * 2 ^ 0) = .ok (.jmp 370085) := by
  decide +kernel

theorem test_decode_11 :
    decodeWord (0x22000000 + 45 * 2 ^ 19 + 370085 * 2 ^ 0) = .ok (.call 45 370085) := by
  decide +kernel

theorem test_decode_12 :
    decodeWord (0x24000000 + 45 * 2 ^ 19 + 370085 * 2 ^ 0) = .ok (.bz 45 370085) := by
  decide +kernel

theorem test_decode_13 :
    decodeWord (0x26000000 + 45 * 2 ^ 19 + 370085 * 2 ^ 0) = .ok (.bnz 45 370085) := by
  decide +kernel

theorem test_decode_14 :
    decodeWord (0x28000000 + 3 * 2 ^ 19 + 370085 * 2 ^ 0) = .ok (.brV 3 370085) ∧
    decodeWord (0x29000000 + 3 * 2 ^ 19 + 370085 * 2 ^ 0) = .ok (.brVn 3 370085) := by
  decide +kernel

theorem test_decode_15 :
    decodeWord (0x2A000000 + 3 * 2 ^ 19 + 370085 * 2 ^ 0) = .ok (.brU 3 370085) ∧
    decodeWord (0x2B000000 + 3 * 2 ^ 19 + 370085 * 2 ^ 0) = .ok (.brUn 3 370085) := by
  decide +kernel

theorem test_decode_16 :
    decodeWord (0x2C000000 + 2 * 2 ^ 22 + 3 * 2 ^ 19 + 370085 * 2 ^ 0) = .ok (.brk 2 3 370085) := by
  decide +kernel

theorem test_decode_17 :
    decodeWord (0x2E000000 + 45 * 2 ^ 19 + 19 * 2 ^ 13) = .ok (.jr 45 19) ∧
    decodeWord (0x2E000001) = .ok (.exit) ∧
    decodeWord (0x2E000002) = .ok (.exitV) ∧
    decodeWord (0x2E000003 + 45 * 2 ^ 19 + 19 * 2 ^ 13) = .ok (.setfmt 45 19) ∧
    decodeWord (0x2E000004 + 45 * 2 ^ 19 + 19 * 2 ^ 13 + 38 * 2 ^ 7) = .ok (.win 45 19 38) ∧
    decodeWord (0x2E000005) = .ok (.nop) ∧
    decodeWord (0x2E000006) = .ok (.yield) := by
  decide +kernel

theorem test_decode_18 :
    decodeWord (0x30000000 + 45 * 2 ^ 19 + 18 * 2 ^ 13) = .ok (.get 45 18) ∧
    decodeWord (0x30000001 + 1 * 2 ^ 19 + 45 * 2 ^ 13) = .ok (.set 1 45) ∧
    decodeWord (0x30000002 + 45 * 2 ^ 13 + 19 * 2 ^ 7) = .ok (.trap 45 19) ∧
    decodeWord (0x30000003 + 45 * 2 ^ 19 + 19 * 2 ^ 13) = .ok (.rett 45 19) ∧
    decodeWord (0x30000004 + 45 * 2 ^ 19 + 19 * 2 ^ 13) = .ok (.csrr 45 19) ∧
    decodeWord (0x30000005 + 45 * 2 ^ 13 + 19 * 2 ^ 7) = .ok (.csrw 45 19) ∧
    decodeWord (0x30000006 + 2 * 2 ^ 19 + 45 * 2 ^ 13 + 19 * 2 ^ 7) = .ok (.tlbinv 2 45 19) ∧
    decodeWord (0x30000007 + 45 * 2 ^ 19 + 19 * 2 ^ 13) = .ok (.halt 45 19) := by
  decide +kernel

theorem test_decode_19 :
    decodeWord (0x32000000 + 15 * 2 ^ 7) = .ok (.barB 15) ∧
    decodeWord (0x32000001 + 15 * 2 ^ 7) = .ok (.baraB 15) ∧
    decodeWord (0x32000002 + 15 * 2 ^ 7) = .ok (.barwB 15) ∧
    decodeWord (0x32000003 + 3 * 2 ^ 7) = .ok (.barG 3) ∧
    decodeWord (0x32000004 + 3 * 2 ^ 7) = .ok (.baraG 3) ∧
    decodeWord (0x32000005 + 3 * 2 ^ 7) = .ok (.barwG 3) := by
  decide +kernel

theorem test_decode_1A :
    decodeWord (0x34000000) = .ok (.fenceAcq) ∧
    decodeWord (0x34000001) = .ok (.fenceRel) ∧
    decodeWord (0x34000002) = .ok (.fenceAr) ∧
    decodeWord (0x34000003) = .ok (.fenceEng) ∧
    decodeWord (0x34000004 + 45 * 2 ^ 13 + 19 * 2 ^ 7) = .ok (.fenceFlag 45 19) ∧
    decodeWord (0x34000005 + 45 * 2 ^ 13) = .ok (.flushr 45) := by
  decide +kernel

theorem test_decode_20 :
    decodeWord (0x40000000 + 45 * 2 ^ 19 + 19 * 2 ^ 13 + 38 * 2 ^ 7 + 5 * 2 ^ 4 + 1 * 2 ^ 3 + 0 * 2 ^ 2) = .ok (.vaddI64 ⟨45, 19, 38, 5, true, false⟩) ∧
    decodeWord (0x40000001 + 45 * 2 ^ 19 + 19 * 2 ^ 13 + 38 * 2 ^ 7 + 5 * 2 ^ 4 + 0 * 2 ^ 3 + 1 * 2 ^ 2) = .ok (.vaddI32 ⟨45, 19, 38, 5, false, true⟩) ∧
    decodeWord (0x40000002 + 45 * 2 ^ 19 + 19 * 2 ^ 13 + 38 * 2 ^ 7 + 5 * 2 ^ 4 + 1 * 2 ^ 3 + 0 * 2 ^ 2) = .ok (.vaddP16 ⟨45, 19, 38, 5, true, false⟩) ∧
    decodeWord (0x40000003 + 45 * 2 ^ 19 + 19 * 2 ^ 13 + 38 * 2 ^ 7 + 5 * 2 ^ 4 + 0 * 2 ^ 3 + 1 * 2 ^ 2) = .ok (.vaddP8 ⟨45, 19, 38, 5, false, true⟩) := by
  decide +kernel

theorem test_decode_21 :
    decodeWord (0x42000000 + 45 * 2 ^ 19 + 19 * 2 ^ 13 + 38 * 2 ^ 7 + 5 * 2 ^ 4 + 1 * 2 ^ 3 + 0 * 2 ^ 2) = .ok (.vsubI64 ⟨45, 19, 38, 5, true, false⟩) ∧
    decodeWord (0x42000001 + 45 * 2 ^ 19 + 19 * 2 ^ 13 + 38 * 2 ^ 7 + 5 * 2 ^ 4 + 0 * 2 ^ 3 + 1 * 2 ^ 2) = .ok (.vsubI32 ⟨45, 19, 38, 5, false, true⟩) ∧
    decodeWord (0x42000002 + 45 * 2 ^ 19 + 19 * 2 ^ 13 + 38 * 2 ^ 7 + 5 * 2 ^ 4 + 1 * 2 ^ 3 + 0 * 2 ^ 2) = .ok (.vsubP16 ⟨45, 19, 38, 5, true, false⟩) ∧
    decodeWord (0x42000003 + 45 * 2 ^ 19 + 19 * 2 ^ 13 + 38 * 2 ^ 7 + 5 * 2 ^ 4 + 0 * 2 ^ 3 + 1 * 2 ^ 2) = .ok (.vsubP8 ⟨45, 19, 38, 5, false, true⟩) := by
  decide +kernel

theorem test_decode_22 :
    decodeWord (0x44000000 + 45 * 2 ^ 19 + 19 * 2 ^ 13 + 38 * 2 ^ 7 + 5 * 2 ^ 4 + 1 * 2 ^ 3 + 0 * 2 ^ 2) = .ok (.vmulI64 ⟨45, 19, 38, 5, true, false⟩) ∧
    decodeWord (0x44000001 + 45 * 2 ^ 19 + 19 * 2 ^ 13 + 38 * 2 ^ 7 + 5 * 2 ^ 4 + 0 * 2 ^ 3 + 1 * 2 ^ 2) = .ok (.vmulI32 ⟨45, 19, 38, 5, false, true⟩) ∧
    decodeWord (0x44000002 + 45 * 2 ^ 19 + 19 * 2 ^ 13 + 38 * 2 ^ 7 + 5 * 2 ^ 4 + 1 * 2 ^ 3 + 0 * 2 ^ 2) = .ok (.vmulP16 ⟨45, 19, 38, 5, true, false⟩) ∧
    decodeWord (0x44000003 + 45 * 2 ^ 19 + 19 * 2 ^ 13 + 38 * 2 ^ 7 + 5 * 2 ^ 4 + 0 * 2 ^ 3 + 1 * 2 ^ 2) = .ok (.vmulhI64 ⟨45, 19, 38, 5, false, true⟩) := by
  decide +kernel

theorem test_decode_23 :
    decodeWord (0x46000000 + 45 * 2 ^ 19 + 19 * 2 ^ 13 + 38 * 2 ^ 7 + 5 * 2 ^ 4 + 1 * 2 ^ 3 + 0 * 2 ^ 2) = .ok (.vminI64 ⟨45, 19, 38, 5, true, false⟩) ∧
    decodeWord (0x46000001 + 45 * 2 ^ 19 + 19 * 2 ^ 13 + 38 * 2 ^ 7 + 5 * 2 ^ 4 + 0 * 2 ^ 3 + 1 * 2 ^ 2) = .ok (.vminI32 ⟨45, 19, 38, 5, false, true⟩) ∧
    decodeWord (0x46000002 + 45 * 2 ^ 19 + 19 * 2 ^ 13 + 38 * 2 ^ 7 + 5 * 2 ^ 4 + 1 * 2 ^ 3 + 0 * 2 ^ 2) = .ok (.vminP16 ⟨45, 19, 38, 5, true, false⟩) ∧
    decodeWord (0x46000003 + 45 * 2 ^ 19 + 19 * 2 ^ 13 + 38 * 2 ^ 7 + 5 * 2 ^ 4 + 0 * 2 ^ 3 + 1 * 2 ^ 2) = .ok (.vminN32 ⟨45, 19, 38, 5, false, true⟩) := by
  decide +kernel

theorem test_decode_24 :
    decodeWord (0x48000000 + 45 * 2 ^ 19 + 19 * 2 ^ 13 + 38 * 2 ^ 7 + 5 * 2 ^ 4 + 1 * 2 ^ 3 + 0 * 2 ^ 2) = .ok (.vmaxI64 ⟨45, 19, 38, 5, true, false⟩) ∧
    decodeWord (0x48000001 + 45 * 2 ^ 19 + 19 * 2 ^ 13 + 38 * 2 ^ 7 + 5 * 2 ^ 4 + 0 * 2 ^ 3 + 1 * 2 ^ 2) = .ok (.vmaxI32 ⟨45, 19, 38, 5, false, true⟩) ∧
    decodeWord (0x48000002 + 45 * 2 ^ 19 + 19 * 2 ^ 13 + 38 * 2 ^ 7 + 5 * 2 ^ 4 + 1 * 2 ^ 3 + 0 * 2 ^ 2) = .ok (.vmaxP16 ⟨45, 19, 38, 5, true, false⟩) ∧
    decodeWord (0x48000003 + 45 * 2 ^ 19 + 19 * 2 ^ 13 + 38 * 2 ^ 7 + 5 * 2 ^ 4 + 0 * 2 ^ 3 + 1 * 2 ^ 2) = .ok (.vmaxN32 ⟨45, 19, 38, 5, false, true⟩) := by
  decide +kernel

theorem test_decode_25 :
    decodeWord (0x4A000000 + 45 * 2 ^ 19 + 19 * 2 ^ 13 + 38 * 2 ^ 7 + 5 * 2 ^ 4 + 1 * 2 ^ 3 + 0 * 2 ^ 2) = .ok (.vaddsP16 ⟨45, 19, 38, 5, true, false⟩) ∧
    decodeWord (0x4A000001 + 45 * 2 ^ 19 + 19 * 2 ^ 13 + 38 * 2 ^ 7 + 5 * 2 ^ 4 + 0 * 2 ^ 3 + 1 * 2 ^ 2) = .ok (.vaddsP16n ⟨45, 19, 38, 5, false, true⟩) ∧
    decodeWord (0x4A000002 + 45 * 2 ^ 19 + 19 * 2 ^ 13 + 38 * 2 ^ 7 + 5 * 2 ^ 4 + 1 * 2 ^ 3 + 0 * 2 ^ 2) = .ok (.vaddsP8 ⟨45, 19, 38, 5, true, false⟩) ∧
    decodeWord (0x4A000003 + 45 * 2 ^ 19 + 19 * 2 ^ 13 + 38 * 2 ^ 7 + 5 * 2 ^ 4 + 0 * 2 ^ 3 + 1 * 2 ^ 2) = .ok (.vaddsP8n ⟨45, 19, 38, 5, false, true⟩) := by
  decide +kernel

theorem test_decode_26 :
    decodeWord (0x4C000000 + 45 * 2 ^ 19 + 19 * 2 ^ 13 + 38 * 2 ^ 7 + 5 * 2 ^ 4 + 1 * 2 ^ 3 + 0 * 2 ^ 2) = .ok (.vand ⟨45, 19, 38, 5, true, false⟩) ∧
    decodeWord (0x4C000001 + 45 * 2 ^ 19 + 19 * 2 ^ 13 + 38 * 2 ^ 7 + 5 * 2 ^ 4 + 0 * 2 ^ 3 + 1 * 2 ^ 2) = .ok (.vor ⟨45, 19, 38, 5, false, true⟩) ∧
    decodeWord (0x4C000002 + 45 * 2 ^ 19 + 19 * 2 ^ 13 + 38 * 2 ^ 7 + 5 * 2 ^ 4 + 1 * 2 ^ 3 + 0 * 2 ^ 2) = .ok (.vxor ⟨45, 19, 38, 5, true, false⟩) ∧
    decodeWord (0x4C000003 + 45 * 2 ^ 19 + 19 * 2 ^ 13 + 38 * 2 ^ 7 + 5 * 2 ^ 4 + 0 * 2 ^ 3 + 1 * 2 ^ 2) = .ok (.vandn ⟨45, 19, 38, 5, false, true⟩) := by
  decide +kernel

theorem test_decode_27 :
    decodeWord (0x4E000000 + 45 * 2 ^ 19 + 19 * 2 ^ 13 + 38 * 2 ^ 7 + 5 * 2 ^ 4 + 1 * 2 ^ 3 + 0 * 2 ^ 2) = .ok (.vshl ⟨45, 19, 38, 5, true, false⟩) ∧
    decodeWord (0x4E000001 + 45 * 2 ^ 19 + 19 * 2 ^ 13 + 38 * 2 ^ 7 + 5 * 2 ^ 4 + 0 * 2 ^ 3 + 1 * 2 ^ 2) = .ok (.vshr ⟨45, 19, 38, 5, false, true⟩) ∧
    decodeWord (0x4E000002 + 45 * 2 ^ 19 + 19 * 2 ^ 13 + 38 * 2 ^ 7 + 5 * 2 ^ 4 + 1 * 2 ^ 3 + 0 * 2 ^ 2) = .ok (.vsha ⟨45, 19, 38, 5, true, false⟩) ∧
    decodeWord (0x4E000003 + 45 * 2 ^ 19 + 19 * 2 ^ 13 + 38 * 2 ^ 7 + 5 * 2 ^ 4 + 0 * 2 ^ 3 + 1 * 2 ^ 2) = .ok (.vrot ⟨45, 19, 38, 5, false, true⟩) := by
  decide +kernel

theorem test_decode_28 :
    decodeWord (0x50000000 + 6 * 2 ^ 19 + 45 * 2 ^ 13 + 19 * 2 ^ 7 + 5 * 2 ^ 4 + 1 * 2 ^ 3 + 0 * 2 ^ 2) = .ok (.vcmpEqI64 ⟨6, 45, 19, 5, true, false⟩) ∧
    decodeWord (0x50000001 + 6 * 2 ^ 19 + 45 * 2 ^ 13 + 19 * 2 ^ 7 + 5 * 2 ^ 4 + 0 * 2 ^ 3 + 1 * 2 ^ 2) = .ok (.vcmpLtI64 ⟨6, 45, 19, 5, false, true⟩) ∧
    decodeWord (0x50000002 + 6 * 2 ^ 19 + 45 * 2 ^ 13 + 19 * 2 ^ 7 + 5 * 2 ^ 4 + 1 * 2 ^ 3 + 0 * 2 ^ 2) = .ok (.vcmpLtnI64 ⟨6, 45, 19, 5, true, false⟩) ∧
    decodeWord (0x50000003 + 6 * 2 ^ 19 + 45 * 2 ^ 13 + 19 * 2 ^ 7 + 5 * 2 ^ 4 + 0 * 2 ^ 3 + 1 * 2 ^ 2) = .ok (.vcmpLeI64 ⟨6, 45, 19, 5, false, true⟩) := by
  decide +kernel

theorem test_decode_29 :
    decodeWord (0x52000000 + 6 * 2 ^ 19 + 45 * 2 ^ 13 + 19 * 2 ^ 7 + 5 * 2 ^ 4 + 1 * 2 ^ 3 + 0 * 2 ^ 2) = .ok (.vcmpEqI32 ⟨6, 45, 19, 5, true, false⟩) ∧
    decodeWord (0x52000001 + 6 * 2 ^ 19 + 45 * 2 ^ 13 + 19 * 2 ^ 7 + 5 * 2 ^ 4 + 0 * 2 ^ 3 + 1 * 2 ^ 2) = .ok (.vcmpLtI32 ⟨6, 45, 19, 5, false, true⟩) ∧
    decodeWord (0x52000002 + 45 * 2 ^ 19 + 19 * 2 ^ 13 + 38 * 2 ^ 7 + 5 * 2 ^ 4 + 1 * 2 ^ 3 + 0 * 2 ^ 2) = .ok (.vcmpmGtP16 ⟨45, 19, 38, 5, true, false⟩) ∧
    decodeWord (0x52000003 + 45 * 2 ^ 19 + 19 * 2 ^ 13 + 38 * 2 ^ 7 + 5 * 2 ^ 4 + 0 * 2 ^ 3 + 1 * 2 ^ 2) = .ok (.vcmpmEqP16 ⟨45, 19, 38, 5, false, true⟩) := by
  decide +kernel

theorem test_decode_2A :
    decodeWord (0x54000000 + 45 * 2 ^ 19 + 19 * 2 ^ 13 + 38 * 2 ^ 7 + 5 * 2 ^ 4 + 1 * 2 ^ 3 + 0 * 2 ^ 2) = .ok (.vsel ⟨45, 19, 38, 5, true, false⟩) ∧
    decodeWord (0x54000001 + 45 * 2 ^ 19 + 19 * 2 ^ 13 + 38 * 2 ^ 7 + 5 * 2 ^ 4 + 0 * 2 ^ 3 + 1 * 2 ^ 2) = .ok (.vbsl ⟨45, 19, 38, 5, false, true⟩) ∧
    decodeWord (0x54000002 + 45 * 2 ^ 19 + 19 * 2 ^ 13 + 5 * 2 ^ 4 + 1 * 2 ^ 3) = .ok (.vpackmP16 ⟨45, 19, 5, true⟩) ∧
    decodeWord (0x54000003 + 45 * 2 ^ 19 + 6 * 2 ^ 13 + 5 * 2 ^ 4 + 0 * 2 ^ 3) = .ok (.vpopc ⟨45, 6, 5, false⟩) := by
  decide +kernel

theorem test_decode_2B :
    decodeWord (0x56000000 + 45 * 2 ^ 19 + 19 * 2 ^ 13 + 5 * 2 ^ 4 + 1 * 2 ^ 3) = .ok (.vmov ⟨45, 19, 5, true⟩) ∧
    decodeWord (0x56000001 + 45 * 2 ^ 19 + 19 * 2 ^ 13 + 5 * 2 ^ 4 + 0 * 2 ^ 3) = .ok (.vbcast ⟨45, 19, 5, false⟩) ∧
    decodeWord (0x56000002 + 45 * 2 ^ 19 + 19 * 2 ^ 13 + 38 * 2 ^ 7 + 1 * 2 ^ 3 + 0 * 2 ^ 2) = .ok (.vext ⟨45, 19, 38, true, false⟩) ∧
    decodeWord (0x56000003 + 45 * 2 ^ 19 + 19 * 2 ^ 13 + 38 * 2 ^ 7 + 5 * 2 ^ 4 + 0 * 2 ^ 3 + 1 * 2 ^ 2) = .ok (.vins ⟨45, 19, 38, 5, false, true⟩) := by
  decide +kernel

theorem test_decode_2C :
    decodeWord (0x58000000 + 45 * 2 ^ 19 + 19 * 2 ^ 13 + 38 * 2 ^ 7 + 5 * 2 ^ 4 + 1 * 2 ^ 3 + 0 * 2 ^ 2) = .ok (.vshfl ⟨45, 19, 38, 5, true, false⟩) ∧
    decodeWord (0x58000001 + 45 * 2 ^ 19 + 19 * 2 ^ 13 + 38 * 2 ^ 7 + 5 * 2 ^ 4 + 0 * 2 ^ 3 + 1 * 2 ^ 2) = .ok (.vshup ⟨45, 19, 38, 5, false, true⟩) ∧
    decodeWord (0x58000002 + 45 * 2 ^ 19 + 19 * 2 ^ 13 + 38 * 2 ^ 7 + 5 * 2 ^ 4 + 1 * 2 ^ 3 + 0 * 2 ^ 2) = .ok (.vlane ⟨45, 19, 38, 5, true, false⟩) ∧
    decodeWord (0x58000003 + 45 * 2 ^ 19 + 19 * 2 ^ 13 + 38 * 2 ^ 7 + 5 * 2 ^ 4 + 0 * 2 ^ 3 + 1 * 2 ^ 2) = .ok (.vswzP16 ⟨45, 19, 38, 5, false, true⟩) := by
  decide +kernel

theorem test_decode_2D :
    decodeWord (0x5A000000 + 45 * 2 ^ 19 + 19 * 2 ^ 13 + 5 * 2 ^ 4 + 1 * 2 ^ 3) = .ok (.vrsumI64 ⟨45, 19, 5, true⟩) ∧
    decodeWord (0x5A000001 + 45 * 2 ^ 19 + 19 * 2 ^ 13 + 5 * 2 ^ 4 + 0 * 2 ^ 3) = .ok (.vrminI64 ⟨45, 19, 5, false⟩) ∧
    decodeWord (0x5A000002 + 45 * 2 ^ 19 + 19 * 2 ^ 13 + 5 * 2 ^ 4 + 1 * 2 ^ 3) = .ok (.vrmaxI64 ⟨45, 19, 5, true⟩) ∧
    decodeWord (0x5A000003 + 45 * 2 ^ 19 + 19 * 2 ^ 13 + 5 * 2 ^ 4 + 0 * 2 ^ 3) = .ok (.vargmaxF ⟨45, 19, 5, false⟩) := by
  decide +kernel

theorem test_decode_2E :
    decodeWord (0x5C000000 + 45 * 2 ^ 19 + 19 * 2 ^ 13 + 5 * 2 ^ 4 + 1 * 2 ^ 3) = .ok (.vscanI32 ⟨45, 19, 5, true⟩) ∧
    decodeWord (0x5C000001 + 45 * 2 ^ 19 + 19 * 2 ^ 13 + 5 * 2 ^ 4 + 0 * 2 ^ 3) = .ok (.vrsumD ⟨45, 19, 5, false⟩) ∧
    decodeWord (0x5C000002 + 45 * 2 ^ 19 + 19 * 2 ^ 13 + 5 * 2 ^ 4 + 1 * 2 ^ 3) = .ok (.vrsumF ⟨45, 19, 5, true⟩) ∧
    decodeWord (0x5C000003 + 45 * 2 ^ 19 + 6 * 2 ^ 13 + 5 * 2 ^ 4 + 0 * 2 ^ 3) = .ok (.vcount ⟨45, 6, 5, false⟩) := by
  decide +kernel

theorem test_decode_30 :
    decodeWord (0x60000000 + 45 * 2 ^ 19 + 19 * 2 ^ 13 + 38 * 2 ^ 7 + 5 * 2 ^ 4 + 1 * 2 ^ 3 + 0 * 2 ^ 2) = .ok (.vfaddD ⟨45, 19, 38, 5, true, false⟩) ∧
    decodeWord (0x60000001 + 45 * 2 ^ 19 + 19 * 2 ^ 13 + 38 * 2 ^ 7 + 5 * 2 ^ 4 + 0 * 2 ^ 3 + 1 * 2 ^ 2) = .ok (.vfaddF ⟨45, 19, 38, 5, false, true⟩) ∧
    decodeWord (0x60000002 + 45 * 2 ^ 19 + 19 * 2 ^ 13 + 38 * 2 ^ 7 + 5 * 2 ^ 4 + 1 * 2 ^ 3 + 0 * 2 ^ 2) = .ok (.vfaddH4 ⟨45, 19, 38, 5, true, false⟩) ∧
    decodeWord (0x60000003 + 45 * 2 ^ 19 + 19 * 2 ^ 13 + 38 * 2 ^ 7 + 5 * 2 ^ 4 + 0 * 2 ^ 3 + 1 * 2 ^ 2) = .ok (.vfaddB4 ⟨45, 19, 38, 5, false, true⟩) := by
  decide +kernel

theorem test_decode_31 :
    decodeWord (0x62000000 + 45 * 2 ^ 19 + 19 * 2 ^ 13 + 38 * 2 ^ 7 + 5 * 2 ^ 4 + 1 * 2 ^ 3 + 0 * 2 ^ 2) = .ok (.vfsubD ⟨45, 19, 38, 5, true, false⟩) ∧
    decodeWord (0x62000001 + 45 * 2 ^ 19 + 19 * 2 ^ 13 + 38 * 2 ^ 7 + 5 * 2 ^ 4 + 0 * 2 ^ 3 + 1 * 2 ^ 2) = .ok (.vfsubF ⟨45, 19, 38, 5, false, true⟩) ∧
    decodeWord (0x62000002 + 45 * 2 ^ 19 + 19 * 2 ^ 13 + 38 * 2 ^ 7 + 5 * 2 ^ 4 + 1 * 2 ^ 3 + 0 * 2 ^ 2) = .ok (.vfsubH4 ⟨45, 19, 38, 5, true, false⟩) ∧
    decodeWord (0x62000003 + 45 * 2 ^ 19 + 19 * 2 ^ 13 + 38 * 2 ^ 7 + 5 * 2 ^ 4 + 0 * 2 ^ 3 + 1 * 2 ^ 2) = .ok (.vfsubB4 ⟨45, 19, 38, 5, false, true⟩) := by
  decide +kernel

theorem test_decode_32 :
    decodeWord (0x64000000 + 45 * 2 ^ 19 + 19 * 2 ^ 13 + 38 * 2 ^ 7 + 5 * 2 ^ 4 + 1 * 2 ^ 3 + 0 * 2 ^ 2) = .ok (.vfmulD ⟨45, 19, 38, 5, true, false⟩) ∧
    decodeWord (0x64000001 + 45 * 2 ^ 19 + 19 * 2 ^ 13 + 38 * 2 ^ 7 + 5 * 2 ^ 4 + 0 * 2 ^ 3 + 1 * 2 ^ 2) = .ok (.vfmulF ⟨45, 19, 38, 5, false, true⟩) ∧
    decodeWord (0x64000002 + 45 * 2 ^ 19 + 19 * 2 ^ 13 + 38 * 2 ^ 7 + 5 * 2 ^ 4 + 1 * 2 ^ 3 + 0 * 2 ^ 2) = .ok (.vfmulH4 ⟨45, 19, 38, 5, true, false⟩) ∧
    decodeWord (0x64000003 + 45 * 2 ^ 19 + 19 * 2 ^ 13 + 38 * 2 ^ 7 + 5 * 2 ^ 4 + 0 * 2 ^ 3 + 1 * 2 ^ 2) = .ok (.vfmulB4 ⟨45, 19, 38, 5, false, true⟩) := by
  decide +kernel

theorem test_decode_33 :
    decodeWord (0x66000000 + 45 * 2 ^ 19 + 19 * 2 ^ 13 + 38 * 2 ^ 7 + 5 * 2 ^ 4 + 1 * 2 ^ 3 + 0 * 2 ^ 2) = .ok (.vfmaD ⟨45, 19, 38, 5, true, false⟩) ∧
    decodeWord (0x66000001 + 45 * 2 ^ 19 + 19 * 2 ^ 13 + 38 * 2 ^ 7 + 5 * 2 ^ 4 + 0 * 2 ^ 3 + 1 * 2 ^ 2) = .ok (.vfmaF ⟨45, 19, 38, 5, false, true⟩) ∧
    decodeWord (0x66000002 + 45 * 2 ^ 19 + 19 * 2 ^ 13 + 38 * 2 ^ 7 + 5 * 2 ^ 4 + 1 * 2 ^ 3 + 0 * 2 ^ 2) = .ok (.vfmaH4 ⟨45, 19, 38, 5, true, false⟩) ∧
    decodeWord (0x66000003 + 45 * 2 ^ 19 + 19 * 2 ^ 13 + 38 * 2 ^ 7 + 5 * 2 ^ 4 + 0 * 2 ^ 3 + 1 * 2 ^ 2) = .ok (.vfmaB4 ⟨45, 19, 38, 5, false, true⟩) := by
  decide +kernel

theorem test_decode_34 :
    decodeWord (0x68000000 + 45 * 2 ^ 19 + 19 * 2 ^ 13 + 38 * 2 ^ 7 + 5 * 2 ^ 4 + 1 * 2 ^ 3 + 0 * 2 ^ 2) = .ok (.vfminD ⟨45, 19, 38, 5, true, false⟩) ∧
    decodeWord (0x68000001 + 45 * 2 ^ 19 + 19 * 2 ^ 13 + 38 * 2 ^ 7 + 5 * 2 ^ 4 + 0 * 2 ^ 3 + 1 * 2 ^ 2) = .ok (.vfmaxD ⟨45, 19, 38, 5, false, true⟩) ∧
    decodeWord (0x68000002 + 45 * 2 ^ 19 + 19 * 2 ^ 13 + 38 * 2 ^ 7 + 5 * 2 ^ 4 + 1 * 2 ^ 3 + 0 * 2 ^ 2) = .ok (.vfminF ⟨45, 19, 38, 5, true, false⟩) ∧
    decodeWord (0x68000003 + 45 * 2 ^ 19 + 19 * 2 ^ 13 + 38 * 2 ^ 7 + 5 * 2 ^ 4 + 0 * 2 ^ 3 + 1 * 2 ^ 2) = .ok (.vfmaxF ⟨45, 19, 38, 5, false, true⟩) := by
  decide +kernel

theorem test_decode_35 :
    decodeWord (0x6A000000 + 45 * 2 ^ 19 + 19 * 2 ^ 13 + 38 * 2 ^ 7 + 5 * 2 ^ 4 + 1 * 2 ^ 3 + 0 * 2 ^ 2) = .ok (.vfdivD ⟨45, 19, 38, 5, true, false⟩) ∧
    decodeWord (0x6A000001 + 45 * 2 ^ 19 + 19 * 2 ^ 13 + 38 * 2 ^ 7 + 5 * 2 ^ 4 + 0 * 2 ^ 3 + 1 * 2 ^ 2) = .ok (.vfdivF ⟨45, 19, 38, 5, false, true⟩) ∧
    decodeWord (0x6A000002 + 45 * 2 ^ 19 + 19 * 2 ^ 13 + 5 * 2 ^ 4 + 1 * 2 ^ 3) = .ok (.vfsqrtD ⟨45, 19, 5, true⟩) ∧
    decodeWord (0x6A000003 + 45 * 2 ^ 19 + 19 * 2 ^ 13 + 5 * 2 ^ 4 + 0 * 2 ^ 3) = .ok (.vfsqrtF ⟨45, 19, 5, false⟩) := by
  decide +kernel

theorem test_decode_36 :
    decodeWord (0x6C000000 + 6 * 2 ^ 19 + 45 * 2 ^ 13 + 19 * 2 ^ 7 + 5 * 2 ^ 4 + 1 * 2 ^ 3 + 0 * 2 ^ 2) = .ok (.vfcmpEqD ⟨6, 45, 19, 5, true, false⟩) ∧
    decodeWord (0x6C000001 + 6 * 2 ^ 19 + 45 * 2 ^ 13 + 19 * 2 ^ 7 + 5 * 2 ^ 4 + 0 * 2 ^ 3 + 1 * 2 ^ 2) = .ok (.vfcmpLtD ⟨6, 45, 19, 5, false, true⟩) ∧
    decodeWord (0x6C000002 + 6 * 2 ^ 19 + 45 * 2 ^ 13 + 19 * 2 ^ 7 + 5 * 2 ^ 4 + 1 * 2 ^ 3 + 0 * 2 ^ 2) = .ok (.vfcmpLeD ⟨6, 45, 19, 5, true, false⟩) ∧
    decodeWord (0x6C000003 + 6 * 2 ^ 19 + 45 * 2 ^ 13 + 19 * 2 ^ 7 + 5 * 2 ^ 4 + 0 * 2 ^ 3 + 1 * 2 ^ 2) = .ok (.vfcmpUnD ⟨6, 45, 19, 5, false, true⟩) := by
  decide +kernel

theorem test_decode_37 :
    decodeWord (0x6E000000 + 6 * 2 ^ 19 + 45 * 2 ^ 13 + 19 * 2 ^ 7 + 5 * 2 ^ 4 + 1 * 2 ^ 3 + 0 * 2 ^ 2) = .ok (.vfcmpEqF ⟨6, 45, 19, 5, true, false⟩) ∧
    decodeWord (0x6E000001 + 6 * 2 ^ 19 + 45 * 2 ^ 13 + 19 * 2 ^ 7 + 5 * 2 ^ 4 + 0 * 2 ^ 3 + 1 * 2 ^ 2) = .ok (.vfcmpLtF ⟨6, 45, 19, 5, false, true⟩) ∧
    decodeWord (0x6E000002 + 6 * 2 ^ 19 + 45 * 2 ^ 13 + 19 * 2 ^ 7 + 5 * 2 ^ 4 + 1 * 2 ^ 3 + 0 * 2 ^ 2) = .ok (.vfcmpLeF ⟨6, 45, 19, 5, true, false⟩) ∧
    decodeWord (0x6E000003 + 6 * 2 ^ 19 + 45 * 2 ^ 13 + 19 * 2 ^ 7 + 5 * 2 ^ 4 + 0 * 2 ^ 3 + 1 * 2 ^ 2) = .ok (.vfcmpUnF ⟨6, 45, 19, 5, false, true⟩) := by
  decide +kernel

theorem test_decode_38 :
    decodeWord (0x70000000 + 45 * 2 ^ 19 + 19 * 2 ^ 13 + 59 * 2 ^ 7 + 5 * 2 ^ 4 + 1 * 2 ^ 3 + 2 * 2 ^ 0) = .ok (.vcvt ⟨45, 19, 59, 5, true, 2⟩) := by
  decide +kernel

theorem test_decode_39 :
    decodeWord (0x72000000 + 45 * 2 ^ 19 + 19 * 2 ^ 13 + 5 * 2 ^ 4 + 0 * 2 ^ 3) = .ok (.vfrintD ⟨45, 19, 5, false⟩) ∧
    decodeWord (0x72000001 + 45 * 2 ^ 19 + 19 * 2 ^ 13 + 5 * 2 ^ 4 + 1 * 2 ^ 3) = .ok (.vfrintF ⟨45, 19, 5, true⟩) ∧
    decodeWord (0x72000002 + 45 * 2 ^ 19 + 19 * 2 ^ 13 + 5 * 2 ^ 4 + 0 * 2 ^ 3) = .ok (.vfclassD ⟨45, 19, 5, false⟩) ∧
    decodeWord (0x72000003 + 45 * 2 ^ 19 + 19 * 2 ^ 13 + 5 * 2 ^ 4 + 1 * 2 ^ 3) = .ok (.vfclassF ⟨45, 19, 5, true⟩) := by
  decide +kernel

theorem test_decode_3A :
    decodeWord (0x74000000 + 45 * 2 ^ 19 + 19 * 2 ^ 13 + 5 * 2 ^ 4 + 0 * 2 ^ 3) = .ok (.vrcpF ⟨45, 19, 5, false⟩) ∧
    decodeWord (0x74000001 + 45 * 2 ^ 19 + 19 * 2 ^ 13 + 5 * 2 ^ 4 + 1 * 2 ^ 3) = .ok (.vrsqF ⟨45, 19, 5, true⟩) ∧
    decodeWord (0x74000002 + 45 * 2 ^ 19 + 19 * 2 ^ 13 + 5 * 2 ^ 4 + 0 * 2 ^ 3) = .ok (.vexp2F ⟨45, 19, 5, false⟩) ∧
    decodeWord (0x74000003 + 45 * 2 ^ 19 + 19 * 2 ^ 13 + 5 * 2 ^ 4 + 1 * 2 ^ 3) = .ok (.vlog2F ⟨45, 19, 5, true⟩) := by
  decide +kernel

theorem test_decode_3B :
    decodeWord (0x76000000 + 45 * 2 ^ 19 + 19 * 2 ^ 13 + 38 * 2 ^ 7 + 5 * 2 ^ 4 + 0 * 2 ^ 3 + 1 * 2 ^ 2) = .ok (.vrng ⟨45, 19, 38, 5, false, true⟩) := by
  decide +kernel

theorem test_decode_40 :
    decodeWord (0x80000000 + 45 * 2 ^ 19 + 19 * 2 ^ 13 + 38 * 2 ^ 7 + 5 * 2 ^ 4 + 1 * 2 ^ 3 + 1 * 2 ^ 1 + 1 * 2 ^ 0) = .ok (.vldD ⟨45, 19, 38, 5, true, 1, true⟩) := by
  decide +kernel

theorem test_decode_41 :
    decodeWord (0x82000000 + 45 * 2 ^ 19 + 19 * 2 ^ 13 + 38 * 2 ^ 7 + 5 * 2 ^ 4 + 0 * 2 ^ 3 + 1 * 2 ^ 1 + 1 * 2 ^ 0) = .ok (.vldW ⟨45, 19, 38, 5, false, 1, true⟩) := by
  decide +kernel

theorem test_decode_42 :
    decodeWord (0x84000000 + 45 * 2 ^ 19 + 19 * 2 ^ 13 + 38 * 2 ^ 7 + 5 * 2 ^ 4 + 1 * 2 ^ 3 + 1 * 2 ^ 1 + 1 * 2 ^ 0) = .ok (.vldH ⟨45, 19, 38, 5, true, 1, true⟩) := by
  decide +kernel

theorem test_decode_43 :
    decodeWord (0x86000000 + 45 * 2 ^ 19 + 19 * 2 ^ 13 + 38 * 2 ^ 7 + 5 * 2 ^ 4 + 0 * 2 ^ 3 + 1 * 2 ^ 1 + 1 * 2 ^ 0) = .ok (.vldB ⟨45, 19, 38, 5, false, 1, true⟩) := by
  decide +kernel

theorem test_decode_44 :
    decodeWord (0x88000000 + 45 * 2 ^ 19 + 19 * 2 ^ 13 + 38 * 2 ^ 7 + 5 * 2 ^ 4 + 1 * 2 ^ 3 + 1 * 2 ^ 1 + 1 * 2 ^ 0) = .ok (.vstD ⟨45, 19, 38, 5, true, 1, true⟩) := by
  decide +kernel

theorem test_decode_45 :
    decodeWord (0x8A000000 + 45 * 2 ^ 19 + 19 * 2 ^ 13 + 38 * 2 ^ 7 + 5 * 2 ^ 4 + 0 * 2 ^ 3 + 1 * 2 ^ 1 + 1 * 2 ^ 0) = .ok (.vstW ⟨45, 19, 38, 5, false, 1, true⟩) := by
  decide +kernel

theorem test_decode_46 :
    decodeWord (0x8C000000 + 45 * 2 ^ 19 + 19 * 2 ^ 13 + 38 * 2 ^ 7 + 5 * 2 ^ 4 + 1 * 2 ^ 3 + 1 * 2 ^ 1 + 1 * 2 ^ 0) = .ok (.vstH ⟨45, 19, 38, 5, true, 1, true⟩) := by
  decide +kernel

theorem test_decode_47 :
    decodeWord (0x8E000000 + 45 * 2 ^ 19 + 19 * 2 ^ 13 + 38 * 2 ^ 7 + 5 * 2 ^ 4 + 0 * 2 ^ 3 + 1 * 2 ^ 1 + 1 * 2 ^ 0) = .ok (.vstB ⟨45, 19, 38, 5, false, 1, true⟩) := by
  decide +kernel

theorem test_decode_48 :
    decodeWord (0x90000000 + 45 * 2 ^ 19 + 19 * 2 ^ 13 + 38 * 2 ^ 7 + 5 * 2 ^ 4 + 1 * 2 ^ 3 + 1 * 2 ^ 1 + 1 * 2 ^ 0) = .ok (.sld ⟨45, 19, 38, 5, true, 1, true⟩) := by
  decide +kernel

theorem test_decode_49 :
    decodeWord (0x92000000 + 45 * 2 ^ 19 + 19 * 2 ^ 13 + 38 * 2 ^ 7 + 5 * 2 ^ 4 + 0 * 2 ^ 3 + 1 * 2 ^ 1 + 1 * 2 ^ 0) = .ok (.sst ⟨45, 19, 38, 5, false, 1, true⟩) := by
  decide +kernel

theorem test_decode_4A :
    decodeWord (0x94000000 + 45 * 2 ^ 13 + 19 * 2 ^ 7 + 5 * 2 ^ 4 + 1 * 2 ^ 3 + 1 * 2 ^ 1 + 1 * 2 ^ 0) = .ok (.pref ⟨45, 19, 5, true, 1, true⟩) := by
  decide +kernel

theorem test_decode_4B :
    decodeWord (0x96000000 + 45 * 2 ^ 19 + 19 * 2 ^ 13 + 6741 * 2 ^ 0) = .ok (.ldkD ⟨45, 19, 6741⟩) := by
  decide +kernel

theorem test_decode_4C :
    decodeWord (0x98000000 + 45 * 2 ^ 19 + 19 * 2 ^ 13 + 6741 * 2 ^ 0) = .ok (.ldkW ⟨45, 19, 6741⟩) := by
  decide +kernel

theorem test_decode_4D :
    decodeWord (0x9A000000 + 45 * 2 ^ 19 + 19 * 2 ^ 13 + 6741 * 2 ^ 0) = .ok (.stkD ⟨45, 19, 6741⟩) := by
  decide +kernel

theorem test_decode_4E :
    decodeWord (0x9C000000 + 45 * 2 ^ 19 + 19 * 2 ^ 13 + 6741 * 2 ^ 0) = .ok (.stkW ⟨45, 19, 6741⟩) := by
  decide +kernel

theorem test_decode_50 :
    decodeWord (0xA0000000 + 45 * 2 ^ 19 + 19 * 2 ^ 13) = .ok (.ldkAcq 45 19) ∧
    decodeWord (0xA0000001 + 45 * 2 ^ 13 + 19 * 2 ^ 7) = .ok (.stkRel 45 19) ∧
    decodeWord (0xA0000002 + 45 * 2 ^ 19 + 19 * 2 ^ 13 + 38 * 2 ^ 7) = .ok (.vldAcq 45 19 38) ∧
    decodeWord (0xA0000003 + 45 * 2 ^ 19 + 19 * 2 ^ 13 + 38 * 2 ^ 7) = .ok (.vstRel 45 19 38) := by
  decide +kernel

theorem test_decode_51 :
    decodeWord (0xA2000000 + 45 * 2 ^ 19 + 19 * 2 ^ 13 + 38 * 2 ^ 7 + 5 * 2 ^ 4 + 0 * 2 ^ 3 + 1 * 2 ^ 2) = .ok (.vatomAddI32 ⟨45, 19, 38, 5, false, true⟩) ∧
    decodeWord (0xA2000001 + 45 * 2 ^ 19 + 19 * 2 ^ 13 + 38 * 2 ^ 7 + 5 * 2 ^ 4 + 1 * 2 ^ 3 + 0 * 2 ^ 2) = .ok (.vatomMinI32 ⟨45, 19, 38, 5, true, false⟩) ∧
    decodeWord (0xA2000002 + 45 * 2 ^ 19 + 19 * 2 ^ 13 + 38 * 2 ^ 7 + 5 * 2 ^ 4 + 0 * 2 ^ 3 + 1 * 2 ^ 2) = .ok (.vatomMaxI32 ⟨45, 19, 38, 5, false, true⟩) ∧
    decodeWord (0xA2000003 + 45 * 2 ^ 19 + 19 * 2 ^ 13 + 38 * 2 ^ 7 + 5 * 2 ^ 4 + 1 * 2 ^ 3 + 0 * 2 ^ 2) = .ok (.vatomXchgI32 ⟨45, 19, 38, 5, true, false⟩) := by
  decide +kernel

theorem test_decode_52 :
    decodeWord (0xA4000000 + 45 * 2 ^ 19 + 19 * 2 ^ 13 + 38 * 2 ^ 7 + 5 * 2 ^ 4 + 0 * 2 ^ 3 + 1 * 2 ^ 2) = .ok (.vatomAddI64 ⟨45, 19, 38, 5, false, true⟩) ∧
    decodeWord (0xA4000001 + 45 * 2 ^ 19 + 19 * 2 ^ 13 + 38 * 2 ^ 7 + 5 * 2 ^ 4 + 1 * 2 ^ 3 + 0 * 2 ^ 2) = .ok (.vatomMinI64 ⟨45, 19, 38, 5, true, false⟩) ∧
    decodeWord (0xA4000002 + 45 * 2 ^ 19 + 19 * 2 ^ 13 + 38 * 2 ^ 7 + 5 * 2 ^ 4 + 0 * 2 ^ 3 + 1 * 2 ^ 2) = .ok (.vatomMaxI64 ⟨45, 19, 38, 5, false, true⟩) ∧
    decodeWord (0xA4000003 + 45 * 2 ^ 19 + 19 * 2 ^ 13 + 38 * 2 ^ 7 + 5 * 2 ^ 4 + 1 * 2 ^ 3 + 0 * 2 ^ 2) = .ok (.vatomXchgI64 ⟨45, 19, 38, 5, true, false⟩) := by
  decide +kernel

theorem test_decode_53 :
    decodeWord (0xA6000000 + 45 * 2 ^ 19 + 19 * 2 ^ 13 + 38 * 2 ^ 7 + 5 * 2 ^ 4 + 0 * 2 ^ 3 + 1 * 2 ^ 2) = .ok (.vatomAddF ⟨45, 19, 38, 5, false, true⟩) ∧
    decodeWord (0xA6000001 + 45 * 2 ^ 19 + 19 * 2 ^ 13 + 38 * 2 ^ 7 + 5 * 2 ^ 4 + 1 * 2 ^ 3 + 0 * 2 ^ 2) = .ok (.vatomAddD ⟨45, 19, 38, 5, true, false⟩) ∧
    decodeWord (0xA6000002 + 45 * 2 ^ 19 + 19 * 2 ^ 13 + 38 * 2 ^ 7 + 5 * 2 ^ 4 + 0 * 2 ^ 3 + 1 * 2 ^ 2) = .ok (.vatomAndI64 ⟨45, 19, 38, 5, false, true⟩) ∧
    decodeWord (0xA6000003 + 45 * 2 ^ 19 + 19 * 2 ^ 13 + 38 * 2 ^ 7 + 5 * 2 ^ 4 + 1 * 2 ^ 3 + 0 * 2 ^ 2) = .ok (.vatomOrI64 ⟨45, 19, 38, 5, true, false⟩) := by
  decide +kernel

theorem test_decode_54 :
    decodeWord (0xA8000000 + 45 * 2 ^ 19 + 19 * 2 ^ 13 + 38 * 2 ^ 7 + 5 * 2 ^ 4 + 0 * 2 ^ 3 + 1 * 2 ^ 2) = .ok (.vcasI32 ⟨45, 19, 38, 5, false, true⟩) ∧
    decodeWord (0xA8000001 + 45 * 2 ^ 19 + 19 * 2 ^ 13 + 38 * 2 ^ 7 + 5 * 2 ^ 4 + 1 * 2 ^ 3 + 0 * 2 ^ 2) = .ok (.vcasI64 ⟨45, 19, 38, 5, true, false⟩) := by
  decide +kernel

theorem test_decode_55 :
    decodeWord (0xAA000000 + 45 * 2 ^ 19 + 19 * 2 ^ 13 + 38 * 2 ^ 7) = .ok (.atomkAdd 45 19 38) ∧
    decodeWord (0xAA000001 + 45 * 2 ^ 19 + 19 * 2 ^ 13 + 38 * 2 ^ 7) = .ok (.atomkXchg 45 19 38) ∧
    decodeWord (0xAA000002 + 45 * 2 ^ 19 + 19 * 2 ^ 13 + 38 * 2 ^ 7) = .ok (.cask 45 19 38) ∧
    decodeWord (0xAA000003 + 45 * 2 ^ 19 + 19 * 2 ^ 13 + 38 * 2 ^ 7) = .ok (.atomkFadd 45 19 38) := by
  decide +kernel

theorem test_decode_56 :
    decodeWord (0xAC000000 + 45 * 2 ^ 13) = .ok (.lock 45) ∧
    decodeWord (0xAC000001 + 45 * 2 ^ 13) = .ok (.unlock 45) ∧
    decodeWord (0xAC000002 + 45 * 2 ^ 19 + 19 * 2 ^ 13 + 38 * 2 ^ 7) = .ok (.waitm 45 19 38) ∧
    decodeWord (0xAC000003 + 45 * 2 ^ 13 + 19 * 2 ^ 7) = .ok (.xpect 45 19) ∧
    decodeWord (0xAC000004 + 45 * 2 ^ 13 + 19 * 2 ^ 7) = .ok (.waitc 45 19) ∧
    decodeWord (0xAC000005 + 45 * 2 ^ 13) = .ok (.arst 45) := by
  decide +kernel

theorem test_decode_58 :
    decodeWord (0xB0000000 + 45 * 2 ^ 19 + 19 * 2 ^ 13 + 38 * 2 ^ 7) = .ok (.cpyT 45 19 38) ∧
    decodeWord (0xB0000001 + 45 * 2 ^ 19 + 19 * 2 ^ 13 + 38 * 2 ^ 7) = .ok (.cpyTs 45 19 38) ∧
    decodeWord (0xB0000002 + 45 * 2 ^ 19 + 19 * 2 ^ 13) = .ok (.cpyRed 45 19) ∧
    decodeWord (0xB0000003 + 45 * 2 ^ 19 + 19 * 2 ^ 13) = .ok (.cpyRem 45 19) := by
  decide +kernel

theorem test_decode_59 :
    decodeWord (0xB2000000 + 45 * 2 ^ 19 + 19 * 2 ^ 13 + 38 * 2 ^ 7 + 5 * 2 ^ 4 + 0 * 2 ^ 3 + 1 * 2 ^ 1) = .ok (.cpyL ⟨45, 19, 38, 5, false, 1⟩) := by
  decide +kernel

theorem test_decode_5A :
    decodeWord (0xB4000000 + 45 * 2 ^ 19 + 19 * 2 ^ 13) = .ok (.qntEnc 45 19) ∧
    decodeWord (0xB4000001 + 45 * 2 ^ 19 + 19 * 2 ^ 13) = .ok (.qntDec 45 19) ∧
    decodeWord (0xB4000002 + 45 * 2 ^ 19 + 19 * 2 ^ 13) = .ok (.gath 45 19) := by
  decide +kernel

theorem test_decode_5B :
    decodeWord (0xB6000000 + 45 * 2 ^ 19 + 19 * 2 ^ 13 + 38 * 2 ^ 7) = .ok (.gcsr 45 19 38) := by
  decide +kernel

theorem test_decode_60_0 :
    decodeWord (0xC0000000 + 1 * 2 ^ 19 + 19 * 2 ^ 13) = .ok (.mlda 1 19) ∧
    decodeWord (0xC0000001 + 1 * 2 ^ 19 + 19 * 2 ^ 13) = .ok (.mldb 1 19) ∧
    decodeWord (0xC0000002 + 13 * 2 ^ 19 + 1 * 2 ^ 13 + 0 * 2 ^ 7) = .ok (.mma 13 1 0) ∧
    decodeWord (0xC0000003 + 13 * 2 ^ 19 + 6 * 2 ^ 13 + 1 * 2 ^ 7) = .ok (.mmaC 13 6 1) ∧
    decodeWord (0xC0000004 + 13 * 2 ^ 19 + 1 * 2 ^ 13) = .ok (.mmaS 13 1) ∧
    decodeWord (0xC0000005 + 13 * 2 ^ 19) = .ok (.mzero 13) ∧
    decodeWord (0xC0000006 + 45 * 2 ^ 19 + 6 * 2 ^ 13 + 19 * 2 ^ 7) = .ok (.mst 45 6 19) ∧
    decodeWord (0xC0000007) = .ok (.mfence) := by
  decide +kernel

theorem test_decode_60_1 :
    decodeWord (0xC0000008 + 45 * 2 ^ 13 + 19 * 2 ^ 7) = .ok (.mwait 45 19) ∧
    decodeWord (0xC0000009 + 45 * 2 ^ 19 + 3 * 2 ^ 7) = .ok (.mprog 45 3) := by
  decide +kernel

theorem test_decode_6C :
    decodeWord (0xD8000000 + 45 * 2 ^ 13 + 4 * 2 ^ 7) = .ok (.bid 45 4) ∧
    decodeWord (0xD8000001 + 45 * 2 ^ 19 + 4 * 2 ^ 7) = .ok (.bidr 45 4) ∧
    decodeWord (0xD8000002 + 45 * 2 ^ 19 + 4 * 2 ^ 7) = .ok (.price 45 4) ∧
    decodeWord (0xD8000003 + 45 * 2 ^ 19 + 4 * 2 ^ 7) = .ok (.lease 45 4) ∧
    decodeWord (0xD8000004 + 45 * 2 ^ 19 + 19 * 2 ^ 13 + 4 * 2 ^ 7) = .ok (.peerp 45 19 4) := by
  decide +kernel

theorem test_decode_6D :
    decodeWord (0xDA000000 + 45 * 2 ^ 19 + 19 * 2 ^ 13 + 38 * 2 ^ 7) = .ok (.jnlX 45 19 38) ∧
    decodeWord (0xDA000001 + 45 * 2 ^ 13 + 19 * 2 ^ 7) = .ok (.jmark 45 19) ∧
    decodeWord (0xDA000002 + 45 * 2 ^ 13) = .ok (.jtrunc 45) ∧
    decodeWord (0xDA000003 + 45 * 2 ^ 19 + 19 * 2 ^ 13 + 38 * 2 ^ 7) = .ok (.emit 45 19 38) ∧
    decodeWord (0xDA000004 + 45 * 2 ^ 19 + 19 * 2 ^ 13 + 5 * 2 ^ 7) = .ok (.jstat 45 19 5) := by
  decide +kernel

theorem test_decode_7F :
    decodeWord (0xFE000000 + 1418661 * 2 ^ 0) = .ok (.hx 1418661) ∧
    decodeWord (0xFE200000 + 1418661 * 2 ^ 0) = .ok (.hj 1418661) ∧
    decodeWord (0xFE400000 + 21 * 2 ^ 2 + 2 * 2 ^ 0) = .ok (.hs 21 2) ∧
    decodeWord (0xFE600000 + 4 * 2 ^ 0) = .ok (.hp 4) ∧
    decodeWord (0xFE800000 + 2 * 2 ^ 0) = .ok (.hc 2) := by
  decide +kernel
/-! A small state: one thread with 32 lanes on core 0 of a part that is ready, its code and data in one page of memory at 0x10000, one
page of package 5 at 0x20000. -/

def T : Group := { live := true, tid := 1, core := 0, ctx := 1, priv := true, launch := 1, gang := 1, block := 1, rows := 1, allot := 64,
                   nblk := 1, resident := true, pc := 0x10000, M := 0xFFFFFFFF }

def W : State := { g := T, powered := true, nextId := 5
                   csr := [(0, 0x4B321A020B ^^^ 2), (2, 0x1003)]
                   tlb := [⟨1, 0x10000, 0x10000, true, true, true, false, 0x10000, 0, 128⟩, ⟨1, 0x20000, 0x10000, true, true, true, true, 0x20000, 5, 128⟩]
                   blocks := [{ id := 1, launch := 1, gang := 1, banks := [0], nbanks := 1, recn := 4, phys := [0, 1, 2, 3], threads := [1]
                                bars := [(0, { members := [1] }), (15, { members := [1, 2] })] }]
                   gangs := [{ id := 1, launch := 1, blocks := [1], bars := [(3, { members := [1] })] }]
                   launches := [{ id := 1, ctx := 1, code := 0x10000, nblk := 1, started := true, next := 1 }] }

/-- A thread that any word may issue for. -/
def plain (g : Group) : Bool :=
  g.live && g.resident && g.priv && g.wait == .none && g.run == [] && g.kEmpty == 0 && g.kBad == 0 && g.vEmpty == 0 && g.vBad == [] &&
    g.qBusy == 0 && g.wv == 0 && decide (64 ≤ g.allot)

/-- A well-formed word that needs no hint, on a core that admits it. -/
def simple (g : Group) (i : Instr) : Bool := ownDefect i == 0 && !isBrV (wordOf i) && admits (onMcc g) (wordOf i)

theorem admitted {s : State} {i : Instr} (hp : plain s.g = true) (hw : s.windows = []) (hc : coreStopped s s.g.core = false)
    (ha : coreAsleep s s.g.core = false) (hi : simple s.g i = true) : Admitted s i := by
  simp only [plain, Bool.and_eq_true, beq_iff_eq, decide_eq_true_eq] at hp
  simp only [simple, Bool.and_eq_true, beq_iff_eq, Bool.not_eq_true'] at hi
  obtain ⟨⟨⟨⟨⟨⟨⟨⟨⟨⟨⟨h1, h2⟩, h3⟩, h4⟩, h5⟩, h6⟩, h7⟩, h8⟩, h9⟩, h10⟩, h11⟩, h12⟩ := hp
  obtain ⟨⟨i1, i2⟩, i3⟩ := hi
  refine ⟨?_, ?_, fun _ => h3, ?_⟩
  · simp [mayIssue, h1, h2, h4, hc, ha]
  · simp [unitDefect, runDefects, wordDefects, h5, i1, i2, i3, lowest]
  · simp [windowBlocks, windowOf, hw]

/-- No other thread, and the current one does not sleep. -/
theorem awake {s : State} (hp : plain s.g = true) (ho : s.others = []) (core : Nat) : coreAsleep s core = false := by
  simp only [plain, Bool.and_eq_true, beq_iff_eq, decide_eq_true_eq] at hp
  obtain ⟨⟨⟨⟨⟨⟨⟨⟨⟨⟨⟨h1, h2⟩, h3⟩, h4⟩, h5⟩, h6⟩, h7⟩, h8⟩, h9⟩, h10⟩, h11⟩, h12⟩ := hp
  simp [coreAsleep, threads, ho, h1, h4]

theorem operands {s : State} (hp : plain s.g = true) (u : Use) : OperandsThere s u := by
  simp only [plain, Bool.and_eq_true, beq_iff_eq, decide_eq_true_eq] at hp
  obtain ⟨⟨⟨⟨⟨⟨⟨⟨⟨⟨⟨h1, h2⟩, h3⟩, h4⟩, h5⟩, h6⟩, h7⟩, h8⟩, h9⟩, h10⟩, h11⟩, h12⟩ := hp
  have hr : ∀ p r, rowEmpty s.g p r = false := fun p r => by simp [rowEmpty, h8]
  have hk : ∀ n, kIsEmpty s.g n = false := fun n => by simp [kIsEmpty, h6]
  refine ⟨fun f _ => ?_, fun p _ => Or.inr (by simp [h10]), fun x _ => ?_, fun n _ => hk n, fun f _ n _ _ => hr _ _, fun f _ r _ => hr _ _⟩
  · have := f.isLt
    simp only [physReg, h11]
    exact Nat.lt_of_lt_of_le (by simp) h12
  · cases x with
    | k n t => exact ⟨hk n, by simp [h7]⟩
    | v f t => exact fun n _ _ => ⟨hr _ _, by simp [h9]⟩
    | all f t => exact ⟨fun r _ => hr _ _, fun n _ => by simp [h9]⟩

theorem W_admits {i : Instr} (hi : simple T i = true) : Admitted W i := admitted (by decide +kernel) rfl (by decide +kernel) (by decide +kernel) hi
theorem W_operands (u : Use) : OperandsThere W u := operands (by decide +kernel) u

/-- What a checked access answers. -/
def allows (c : Checked) (l : List (Nat × Nat × Loc)) : Bool := match c with
  | .ok m => m == l
  | _ => false

theorem allows_ok {c : Checked} {l : List (Nat × Nat × Loc)} (h : allows c l = true) : c = .ok l := by
  cases c <;> simp_all [allows]

/-- A thread with a number in k3, on a core, with everything else as in `T`. -/
def at3 (core n : Nat) : Group := { T with core := core, k := T.k.set 3 (BitVec.ofNat 64 n) }

theorem at3_plain (core n : Nat) : plain (at3 core n) = true := by
  have h : plain T = true := by decide +kernel
  unfold plain at h ⊢
  exact h
theorem at3_core (core n : Nat) : (at3 core n).core = core := rfl

/-- `W` with that thread. -/
def A (va : Nat) : State := { W with g := at3 0 va }

theorem A_g (va : Nat) : (A va).g = at3 0 va := rfl
theorem A_plain (va : Nat) : plain (A va).g = true := by rw [A_g]; exact at3_plain 0 va
theorem A_admits (va : Nat) {i : Instr} (hi : simple T i = true) : Admitted (A va) i :=
  admitted (A_plain va) rfl (by rw [A, at3_core]; rfl) (awake (A_plain va) rfl _) (by
    have h : onMcc (A va).g = onMcc T := by rw [onMcc, A, at3_core]; rfl
    rw [simple, h]; exact hi)
theorem A_operands (va : Nat) (u : Use) : OperandsThere (A va) u := operands (A_plain va) u

/-- A firmware thread on core 2 of die 0, with core 0 stopped. -/
def F (n : Nat) : State := { W with g := at3 2 n, cores := [(0, { stopped := true })] }

theorem F_g (n : Nat) : (F n).g = at3 2 n := rfl
theorem F_plain (n : Nat) : plain (F n).g = true := by rw [F_g]; exact at3_plain 2 n
theorem F_admits (n : Nat) {i : Instr} (hi : simple T i = true) : Admitted (F n) i :=
  admitted (F_plain n) rfl (by rw [F, at3_core]; rfl) (awake (F_plain n) rfl _) (by
    have h : onMcc (F n).g = onMcc T := by rw [onMcc, F, at3_core]; rfl
    rw [simple, h]; exact hi)
theorem F_operands (n : Nat) (u : Use) : OperandsThere (F n) u := operands (F_plain n) u

/-- `W` with numbers in scalars, on a core. -/
def D (core : Nat) (l : List (Nat × Nat)) : State :=
  { W with g := { T with core := core, k := l.foldl (fun v x => v.set (x.1 % 64) (BitVec.ofNat 64 x.2) (Nat.mod_lt _ (by decide))) T.k } }

theorem D_plain (core : Nat) (l : List (Nat × Nat)) : plain (D core l).g = true := by
  have h : plain T = true := by decide +kernel
  unfold plain at h ⊢
  exact h
theorem D_operands (core : Nat) (l : List (Nat × Nat)) (u : Use) : OperandsThere (D core l) u := operands (D_plain core l) u
theorem D_core (core : Nat) (l : List (Nat × Nat)) : (D core l).g.core = core := rfl
theorem D_admits {core : Nat} (l : List (Nat × Nat)) {i : Instr} (hi : simple { T with core := core } i = true) : Admitted (D core l) i :=
  admitted (D_plain core l) rfl (by rw [D_core]; rfl) (awake (D_plain core l) rfl _) (by
    have h : onMcc (D core l).g = onMcc { T with core := core } := by rw [onMcc, D_core]; rfl
    rw [simple, h]; exact hi)

/-- Lane n of v3 holds `va` + `step` × n. -/
def V (va step : Nat) : State := { W with g := { at3 0 va with v := putAll 0 [] ((List.range 32).map fun n => (laneKey 3 n, BitVec.ofNat 64 (va + step * n))) } }

theorem V_plain (va step : Nat) : plain (V va step).g = true := at3_plain 0 va
theorem V_admits (va step : Nat) {i : Instr} (hi : simple T i = true) : Admitted (V va step) i :=
  have a := A_admits va hi
  ⟨a.runs, a.form, a.priv, a.window⟩
theorem V_operands (va step : Nat) (u : Use) : OperandsThere (V va step) u := operands (V_plain va step) u


/-- The words may issue. -/
def mayGo (s : State) (l : List Instr) : Bool :=
  mayIssue s s.g && l.all fun i => unitDefect s.g (ownDefect i) (wordOf i) == none && (!isPrivileged (wordOf i) || s.g.priv) && !windowBlocks s (wordOf i)

theorem admits_all {s : State} {l : List Instr} (h : mayGo s l = true) : ∀ i ∈ l, Admitted s i := by
  intro i hi
  simp only [mayGo, Bool.and_eq_true, List.all_eq_true, beq_iff_eq, Bool.or_eq_true, Bool.not_eq_true'] at h
  obtain ⟨⟨h1, h2⟩, h3⟩ := h.2 i hi
  refine ⟨h.1, h1, fun hp => h2.resolve_left (by simp [hp]), h3⟩

/-- The words may issue, and every operand is there. -/
def Ready (s : State) (l : List Instr) : Prop := (∀ i ∈ l, Admitted s i) ∧ ∀ u, OperandsThere s u

theorem ready {s : State} {l : List Instr} (h : mayGo s l = true) (hp : plain s.g = true) : Ready s l := ⟨admits_all h, operands hp⟩

/-- The access waits for a walk; it traps. -/
def waits (c : Checked) : Bool := match c with
  | .wait _ => true
  | _ => false
def traps (c : Checked) : Bool := match c with
  | .trap _ => true
  | _ => false

theorem waits_is {c : Checked} (h : waits c = true) : ∃ u, c = .wait u := by cases c <;> simp_all [waits]
theorem traps_is {c : Checked} (h : traps c = true) : ∃ r, c = .trap r := by cases c <;> simp_all [traps]
/-! One step each, on values worked out by hand from the rules. -/

def next? : Host.Outcome State Fault Refusal → Option State
  | .next s => some s
  | _ => none

/-- Run one instruction and look at the state after it. -/
def after {α : Type} (i : Instr) (s : State) (f : State → α) : Option α := (next? (exec i s)).map f

theorem test_add_wraps : after (.add ⟨5, 3, 4, false, false⟩) (D 0 [(3, 2 ^ 64 - 1), (4, 2)]) (fun t => (readK t.g 5, t.g.pc)) = some (1, 0x10004) := by decide +kernel
theorem test_add_k0 : after (.add ⟨0, 3, 4, false, false⟩) (D 0 [(3, 5), (4, 2)]) (fun t => (readK t.g 0, t.g.pc)) = some (0, 0x10004) := by decide +kernel
theorem test_sub : after (.sub ⟨3, 3, 4, false, false⟩) (D 0 [(3, 5), (4, 7)]) (fun t => readK t.g 3) = some (-2) := by decide +kernel
theorem test_mulh_signed : after (.mulh ⟨5, 3, 4, false, false⟩) (D 0 [(3, 2 ^ 64 - 1), (4, 2)]) (fun t => readK t.g 5) = some (-1) := by decide +kernel
theorem test_div_truncates : after (.div ⟨5, 3, 4, false, false⟩) (D 0 [(3, 2 ^ 64 - 7), (4, 2)]) (fun t => readK t.g 5) = some (-3) := by decide +kernel
theorem test_div_zero : after (.div ⟨5, 3, 4, false, false⟩) (D 0 [(3, 7)]) (fun t => readK t.g 5) = some (-1) := by decide +kernel
theorem test_div_overflow : after (.div ⟨5, 3, 4, false, false⟩) (D 0 [(3, 2 ^ 63), (4, 2 ^ 64 - 1)]) (fun t => readK t.g 5) = some (BitVec.ofNat 64 (2 ^ 63)) := by decide +kernel
theorem test_rem_sign : after (.rem ⟨5, 3, 4, false, false⟩) (D 0 [(3, 2 ^ 64 - 7), (4, 2)]) (fun t => readK t.g 5) = some (-1) := by decide +kernel
theorem test_remn_zero : after (.remn ⟨5, 3, 4, false, false⟩) (D 0 [(3, 7)]) (fun t => readK t.g 5) = some 7 := by decide +kernel
theorem test_andn : after (.andn ⟨5, 3, 4, false, false⟩) (D 0 [(3, 0xFF), (4, 0x0F)]) (fun t => readK t.g 5) = some 0xF0 := by decide +kernel
theorem test_shl_mod64 : after (.shl ⟨5, 3, 4, false, false⟩) (D 0 [(3, 3), (4, 65)]) (fun t => readK t.g 5) = some 6 := by decide +kernel
theorem test_sha : after (.sha ⟨5, 3, 4, false, false⟩) (D 0 [(3, 2 ^ 63), (4, 63)]) (fun t => readK t.g 5) = some (-1) := by decide +kernel
theorem test_rot_left : after (.rot ⟨5, 3, 4, false, false⟩) (D 0 [(3, 2 ^ 63 + 1), (4, 1)]) (fun t => readK t.g 5) = some 3 := by decide +kernel
theorem test_slt_signed : after (.slt ⟨5, 3, 4, false, false⟩) (D 0 [(3, 2 ^ 64 - 1), (4, 1)]) (fun t => readK t.g 5) = some 1 := by decide +kernel
theorem test_sltn_unsigned : after (.sltn ⟨5, 3, 4, false, false⟩) (D 0 [(3, 2 ^ 64 - 1), (4, 1)]) (fun t => readK t.g 5) = some 0 := by decide +kernel
theorem test_clz : after (.clz ⟨5, 3, false⟩) (D 0 [(3, 1)]) (fun t => readK t.g 5) = some 63 := by decide +kernel
theorem test_ctz_zero : after (.ctz ⟨5, 3, false⟩) W (fun t => readK t.g 5) = some 64 := by decide +kernel
theorem test_brev : after (.brev ⟨5, 3, false⟩) (D 0 [(3, 5)]) (fun t => readK t.g 5) = some 0xA000000000000000 := by decide +kernel
theorem test_addi_negative : after (.addi ⟨5, 3, -1⟩) (D 0 [(3, 5)]) (fun t => readK t.g 5) = some 4 := by decide +kernel
theorem test_li_extended : after (.li 5 1) { W with g := { T with run := [wordH 0 3], runPc := 0xFFFC } } (fun t => (readK t.g 5, t.g.run)) = some (24577, []) := by
  decide +kernel
theorem test_jmp_back : after (.jmp (-1)) W (fun t => t.g.pc) = some 0xFFFC := by decide +kernel
theorem test_call_links : after (.call 1 2) W (fun t => (readK t.g 1, t.g.pc)) = some (0x10004, 0x10008) := by decide +kernel
theorem test_bz_taken : after (.bz 3 4) W (fun t => t.g.pc) = some 0x10010 := by decide +kernel
theorem test_bnz_falls : after (.bnz 3 4) W (fun t => t.g.pc) = some 0x10004 := by decide +kernel
theorem test_jr_same_register : after (.jr 3 3) (D 0 [(3, 0x10040)]) (fun t => (readK t.g 3, t.g.pc)) = some (0x10004, 0x10040) := by decide +kernel
theorem test_win : after (.win 5 3 63) (D 0 [(3, 255)]) (fun t => (readK t.g 5, t.g.wv)) = some (62, 62) := by decide +kernel
theorem test_get_core : after (.get 5 0x0D) (D 2 []) (fun t => readK t.g 5) = some 2 := by decide +kernel
theorem test_hint_joins : after (.hx 5) W (fun t => (t.g.run, t.g.runPc, t.g.pc)) = some ([0xFE000005], 0x10000, 0x10004) := by decide +kernel
theorem test_privilege : after (.halt 5 3) { A 1 with g := { at3 0 1 with priv := false } } (fun t => (coreStopped t 0, t.g.pc, readN t.mem (ringBase 0) 8)) = some (true, 0x10000, 1) := by
  decide +kernel
theorem test_trap_goes_on : after (.trap 3 7) (A 9) (fun t => (coreStopped t 0, t.g.pc)) = some (true, 0x10004) := by decide +kernel
theorem test_rett_starts : after (.rett 5 3) (F 0) (fun t => (coreStopped t 0, readK t.g 5)) = some (false, 0) := by decide +kernel
theorem test_empty_traps : after (.add ⟨5, 3, 4, true, false⟩) { W with g := { T with kEmpty := 8 } } (fun t => (coreStopped t 0, t.g.pc)) = some (true, 0x10000) := by decide +kernel
theorem test_empty_waits : after (.add ⟨5, 3, 4, false, false⟩) { W with g := { T with kEmpty := 8 } } (fun t => (coreStopped t 0, t.g.pc)) = some (false, 0x10000) := by decide +kernel
theorem test_vadd_p16 : after (.vaddP16 ⟨5, 3, 3, 0, false, false⟩) (V 0x8000FFFF 0) (fun t => (readV t.g 5 31, readV t.g 5 32)) = some (0xFFFE, 0) := by decide +kernel
theorem test_vadds_p8 : after (.vaddsP8 ⟨5, 3, 3, 0, false, false⟩) (V 0x7F80 0) (fun t => readV t.g 5 0) = some 0x7F80 := by decide +kernel
theorem test_vfadd_f : after (.vfaddF ⟨5, 3, 3, 0, false, false⟩) (V 0x3FC00000 0) (fun t => (readV t.g 5 0, t.g.fpflags)) = some (0x40400000, 0) := by decide +kernel
theorem test_vfdiv_by_zero : after (.vfdivF ⟨5, 3, 4, 0, false, false⟩) (V 0x3F800000 0) (fun t => (readV t.g 5 0, t.g.fpflags)) = some (0x7F800000, 2) := by decide +kernel
theorem test_vcmp_bits : after (.vcmpLtI64 ⟨2, 3, 4, 0, false, false⟩) (V (2 ^ 64 - 16) 1) (fun t => readQ t.g 2) = some 0xFFFF := by decide +kernel
theorem test_vrsum : after (.vrsumI64 ⟨5, 3, 0, false⟩) (V 0 1) (fun t => readK t.g 5) = some 496 := by decide +kernel
theorem test_sst_bytes : after (.sst ⟨3, 4, 0, 0, false, 3, true⟩) (V 0x41 1) (fun t => (readN (blockOf t 1).spad 0 4, readByte (blockOf t 1).spad 31, readByte (blockOf t 1).spad 32)) =
    some (0x44434241, 0x60, 0) := by decide +kernel
theorem test_atomk_scratchpad : after (.atomkAdd 5 3 4) { D 0 [(3, 0x1FFFFFFF0000008), (4, 3)] with blocks := [{ id := 1, nbanks := 1, spad := [(8, 9)] }] }
    (fun t => (readN (blockOf t 1).spad 8 8, t.flights.map Flight.atoms)) = some (9, [[⟨.spad 1 8, 8, .add, [(0, 3, 0)], [], false⟩]]) := by decide +kernel
theorem test_load_empties : after (.ldkD ⟨5, 3, 8⟩) (A 0x10000) (fun t => (kIsEmpty t.g 5, t.flights.length, t.g.pc)) = some (true, 1, 0x10004) := by decide +kernel
theorem test_load_misaligned : after (.ldkD ⟨5, 3, 4⟩) (A 0x10000) (fun t => (coreStopped t 0, t.flights.length)) = some (true, 0) := by decide +kernel
theorem test_store_dirty : after (.stkW ⟨4, 3, 0⟩) (D 0 [(3, 0x10000), (4, 0x1122334455667788)]) (fun t => (coherentByte t 0x10000, lineRead (l1Line t 0 (0x10000 / 128)) 0 4)) =
    some (0, 0x55667788) := by decide +kernel
theorem test_xpect : after (.xpect 3 4) (D 0 [(3, 2), (4, 48)]) (fun t => (recordAt t 1 2).exp) = some 48 := by decide +kernel
theorem test_barrier_of_one : after (.barB 0) W (fun t => ((barrierOf t t.g false 0).phase, t.g.wait == .none)) = some (1, true) := by decide +kernel
theorem test_exit_ends : after .exit W (fun t => (t.g.live, t.blocks.length)) = some (false, 0) := by decide +kernel
theorem test_sema_taken : after (.mgSemaWrite 1 1) W (fun t => (ownerPort t, t.host)) = some (1, [.written 0 true]) := by decide +kernel
theorem test_bringup_first : after (.bringupStageDone []) { State.reset with powered := true } stageOf = some 2 := by decide +kernel
theorem test_fetch_word : (next? (step (State.withFetchWord State.reset 32 (0x17 * 2 ^ 25 + 5)))).map (fun t => t.g.pc) = some 0x10004 := by decide +kernel

/-! The hypotheses of the statements are met: a state and operands for each of them, clause by clause, at values where clauses meet. -/

theorem met_ScalarResults : (∀ i ∈ ([.add ⟨5, 3, 4, true, false⟩, .sub ⟨5, 3, 4, true, false⟩, .mul ⟨5, 3, 4, true, false⟩, .mulh ⟨5, 3, 4, true, false⟩,
      .div ⟨0, 3, 0, false, false⟩, .divn ⟨5, 3, 0, false, false⟩, .rem ⟨5, 3, 0, false, false⟩, .remn ⟨63, 3, 0, false, false⟩,
      .and ⟨5, 3, 4, true, false⟩, .or ⟨5, 3, 4, true, false⟩, .xor ⟨5, 3, 4, true, false⟩, .andn ⟨5, 3, 4, true, false⟩,
      .shl ⟨5, 3, 4, true, false⟩, .shr ⟨5, 3, 4, true, false⟩, .sha ⟨5, 3, 4, true, false⟩, .rot ⟨5, 3, 4, true, false⟩,
      .min ⟨5, 3, 4, true, false⟩, .max ⟨5, 3, 4, true, false⟩, .minn ⟨5, 3, 4, true, false⟩, .maxn ⟨5, 3, 4, true, false⟩,
      .seq ⟨5, 3, 3, true, false⟩, .slt ⟨5, 3, 4, true, false⟩, .sltn ⟨5, 3, 4, true, false⟩, .sne ⟨5, 3, 4, true, false⟩,
      .bfx ⟨5, 3, 4, true, false⟩] : List Instr), Admitted W i) ∧
    OperandsThere W { srcs := [.k 3 true, .k 4 false], dstK := [5] } :=
  ⟨fun i h => W_admits ((by decide +kernel : ∀ i ∈ _, simple T i = true) i h), W_operands _⟩

theorem met_ScalarBits : (∀ i ∈ ([.popc ⟨5, 3, true⟩, .clz ⟨5, 3, true⟩, .ctz ⟨5, 3, true⟩, .brev ⟨5, 3, true⟩, .mov ⟨5, 3, true⟩, .bfi ⟨5, 3, 4, true, false⟩]
      : List Instr), Admitted W i) ∧ OperandsThere W { srcs := [.k 3 true], dstK := [5] } ∧
    OperandsThere W { srcs := [.k 3 true, .k 4 false, .k 5 false], dstK := [5] } ∧ (1 : BitVec 64) ≠ 0 ∧ (BitVec.allOnes 64) ≠ 0 ∧
    (63 < 64 ∧ 63 < fieldWidth 0x4000) :=
  ⟨fun i h => W_admits ((by decide +kernel : ∀ i ∈ _, simple T i = true) i h), W_operands _, W_operands _, by decide +kernel⟩

theorem met_ScalarImmediates : (∀ i ∈ ([.addi ⟨5, 3, 1⟩, .andi ⟨5, 3, -1⟩, .ori ⟨5, 3, 1⟩, .xori ⟨5, 3, 1⟩, .lih ⟨5, 3, 1⟩, .shli ⟨5, 3, 0⟩, .shri ⟨5, 3, 63⟩,
      .shai ⟨5, 3, 63⟩, .roti ⟨5, 3, 63⟩, .li 5 (-1)] : List Instr), Admitted W i) ∧
    OperandsThere W { srcs := [.k 3 false], dstK := [5] } ∧ OperandsThere W { dstK := [5] } ∧ T.run = [] ∧
    ({ T with run := [wordH 0 (BitVec.toNat (0x1FFFFF : BitVec 21))] } : Group).run = [wordH 0 (BitVec.toNat (0x1FFFFF : BitVec 21))] :=
  ⟨fun i h => W_admits ((by decide +kernel : ∀ i ∈ _, simple T i = true) i h), W_operands _, W_operands _, rfl, rfl⟩

theorem met_HardwiredRegisters : (63 : Fin 64) ≠ 0 ∧ (7 : Fin 8) ≠ 0 := by decide

/-- A thread whose hint run is `HP` 0 and `HJ` 2, as a divergent branch needs it (R55, R102). -/
def hinted : State := { W with g := { T with run := [wordH 3 0, wordH 1 2], runPc := 0xFFF8, q := T.q.set 1 0x0000FFFF } }

theorem met_Transfers_jumps : (∀ i ∈ ([.jmp 5, .call 1 (-1), .call 0 7, .bz 3 5, .bnz 3 5, .jr 1 3] : List Instr), Admitted W i) ∧
    OperandsThere W { dstK := [1] } ∧ OperandsThere W { srcs := [.k 3 false] } ∧ OperandsThere W { srcs := [.k 3 false], dstK := [1] } ∧
    (readK W.g 3).toNat % 4 = 0 ∧ (readK W.g 3).toNat < 2 ^ 57 :=
  ⟨fun i h => W_admits ((by decide +kernel : ∀ i ∈ _, simple T i = true) i h), W_operands _, W_operands _, W_operands _, by decide +kernel⟩

theorem met_Transfers_divergent : Admitted hinted (.brV 1 5) ∧ Admitted hinted (.brVn 0 5) ∧ hinted.g.qBusy.getLsbD 1 = false ∧
    hinted.g.stack.length < 1023 ∧
    (hinted.g.M &&& readQ hinted.g 1 ≠ 0 ∧ hinted.g.M &&& ~~~(hinted.g.M &&& readQ hinted.g 1) ≠ 0) ∧
    hinted.g.M &&& ~~~(readQ hinted.g 0) = 0 ∧ hinted.g.M &&& ~~~(hinted.g.M &&& readQ hinted.g 0) = 0 :=
  ⟨⟨by decide +kernel, by decide +kernel, fun _ => rfl, by decide +kernel⟩, ⟨by decide +kernel, by decide +kernel, fun _ => rfl, by decide +kernel⟩,
   by decide +kernel⟩

theorem met_Transfers_uniform : Admitted W (.brU 0 5) ∧ Admitted W (.brUn 0 5) ∧ OperandsThere W { preds := [0] } ∧
    (W.g.M &&& readQ W.g 0 = W.g.M) ∧ W.g.M &&& ~~~(readQ W.g 0) = 0 :=
  ⟨W_admits (by decide +kernel), W_admits (by decide +kernel), W_operands _, by decide +kernel⟩

/-- A thread inside a region: lanes 0 to 15 run, a path entry holds the others. -/
def regional : State := { W with g := { T with M := 0xFFFF, q := T.q.set 1 0xFF, stack := [⟨false, 0xFFFF0000, 0x10100, 0⟩, ⟨true, 0xFFFFFFFF, 0x10200, 0⟩] } }

theorem regional_admits {i : Instr} (hi : simple regional.g i = true) : Admitted regional i := admitted (by decide +kernel) rfl (by decide +kernel) (by decide +kernel) hi

theorem met_LanePaths_brk : Admitted regional (.brk 1 1 5) ∧ Admitted regional (.brk 1 0 5) ∧ Admitted regional (.brk 1 2 5) ∧
    OperandsThere regional { preds := [1] } ∧ (1 : Fin 8).val < depth regional.g.stack + 1 ∧ regional.g.stack.length < 1024 ∧
    (activeMask regional.g 1 ≠ 0 ∧ regional.g.M &&& ~~~(activeMask regional.g 1) ≠ 0) ∧ activeMask regional.g 2 = 0 ∧
    regional.g.M &&& ~~~(activeMask regional.g 0) = 0 :=
  ⟨regional_admits (by decide +kernel), regional_admits (by decide +kernel), regional_admits (by decide +kernel), operands (by decide +kernel) _,
   by decide +kernel⟩

theorem met_LanePaths_exitV : Admitted regional .exitV ∧ onMcc regional.g = false ∧
    regional.g.stack = ⟨false, 0xFFFF0000, 0x10100, 0⟩ :: [⟨true, 0xFFFFFFFF, 0x10200, 0⟩] ∧ 0 < depth regional.g.stack ∧
    (0xFFFF0000 : Mask) &&& ~~~(regional.g.X ||| regional.g.M) ≠ 0 :=
  ⟨regional_admits (by decide +kernel), by decide +kernel⟩

theorem met_LanePaths_exit : Admitted W .exit ∧ released W W.g.core = true ∧ W.g.locks = [] ∧ drained W W.g.tid = true :=
  ⟨W_admits (by decide +kernel), by decide +kernel⟩

theorem met_LanePaths_exit_draining : let s := { W with flights := [⟨9, 1, 0, .scalar 5, false, false, [(0, 7)], [], [], 1, 0, false, false⟩] }
    Admitted s .exit ∧ released s s.g.core = true ∧ s.g.locks = [] ∧ drained s s.g.tid = false :=
  ⟨admitted (by decide +kernel) rfl (by decide +kernel) (by decide +kernel) (by decide +kernel), by decide +kernel⟩

theorem met_GroupRegisters : (∀ i ∈ ([.setfmt 5 3, .win 5 3 63, .nop, .yield, .get 5 0x18, .get 0 2, .get 5 0x12, .set 0 3, .set 1 3, .set 2 3]
      : List Instr), Admitted W i) ∧ OperandsThere W { srcs := [.k 3 false], dstK := [5] } ∧ OperandsThere W { dstK := [5] } ∧
    OperandsThere W { srcs := [.k 3 false] } ∧ (readK W.g 3).toNat < 5 ∧ pendingFlags W W.g = false ∧ mayIssue W W.g = true :=
  ⟨fun i h => W_admits ((by decide +kernel : ∀ i ∈ _, simple T i = true) i h), W_operands _, W_operands _, W_operands _, by decide +kernel⟩

theorem met_TrapEntry : Admitted W (.trap 3 63) ∧ OperandsThere W { srcs := [.k 3 false] } ∧ windowOf W W.g.tid = none ∧ W.g.live = true :=
  ⟨W_admits (by decide +kernel), W_operands _, by decide +kernel⟩

theorem met_FaultingWords : mayIssue W W.g = true ∧ windowOf W W.g.tid = none ∧ unitDefect W.g 1 0 = some (1, 0) ∧
    unitDefect W.g 4 (0x16 * 2 ^ 25) = some (4, 0x16 * 2 ^ 25) ∧
    (let s := { W with g := { T with priv := false } }
     mayIssue s s.g = true ∧ s.g.priv = false ∧
       ∀ i ∈ ([.rett 5 3, .csrr 5 3, .csrw 3 4, .tlbinv 3 3 4, .halt 5 3] : List Instr), unitDefect s.g (ownDefect i) (wordOf i) = none) := by
  decide +kernel

theorem met_CoreControl (n : Nat) : Admitted (F n) (.rett 5 3) ∧ Admitted (F n) (.halt 5 3) ∧
    OperandsThere (F n) { srcs := [.k 3 false], dstK := [5] } :=
  ⟨F_admits n (by decide +kernel), F_admits n (by decide +kernel), F_operands n _⟩

theorem met_CoreControl_cores : coreHere (F 24).g 24 = false ∧ coreHere (F 23).g 23 = true ∧
    (coreHere (F 1).g 1 = true ∧ coreStopped (F 1) 1 = false ∧ (1 : Nat) ≠ (F 1).g.core) ∧
    (coreHere (F 0).g 0 = true ∧ coreStopped (F 0) 0 = true ∧ recordWaits (F 0) 0 = false ∧ (0 : Nat) ≠ (F 0).g.core) ∧
    (coreHere (F 2).g 2 = true ∧ (readK (F 2).g 3).toNat = (F 2).g.core) := by decide +kernel

theorem met_ControlRegisters (n : Nat) : Admitted (F n) (.csrr 5 3) ∧ Admitted (F n) (.csrw 3 4) ∧ Admitted (F n) (.tlbinv 3 3 4) ∧
    Admitted (F n) (.tlbinv 0 3 4) ∧ OperandsThere (F n) { srcs := [.k 3 false], dstK := [5] } ∧
    OperandsThere (F n) { srcs := [.k 3 false, .k 4 false] } ∧ (∀ w ∈ (F n).walks, w.code ≠ 0) :=
  ⟨F_admits n (by decide +kernel), F_admits n (by decide +kernel), F_admits n (by decide +kernel), F_admits n (by decide +kernel), F_operands n _,
   F_operands n _, fun w hw => nomatch hw⟩

theorem met_ControlRegisters_numbers : ∀ x ∈ ([0x102, 0x108, 0x10C, 0x140, 0x17F, 2, 0xA00, 0x840] : List Nat),
    csrAccess x ≠ .none ∧ csrAccess x ≠ .ro ∧ csrValueOk x 0 = true := by decide +kernel

theorem met_Barriers_block : (∀ i ∈ ([.baraB 0, .barB 0, .barwB 0, .barB 15, .baraG 3, .barG 3, .barwG 3] : List Instr), Admitted W i) ∧
    isMember W W.g false 0 = true ∧ isMember W W.g false 15 = true ∧ isMember W W.g true 3 = true ∧ released W W.g.core = true ∧
    awaiting W W.g false 0 = false ∧ awaiting W W.g true 3 = false ∧ W.blocks.any (fun b => b.id == W.g.block) = true ∧
    W.gangs.any (fun b => b.id == W.g.gang) = true ∧ farFrom W W.g true = false :=
  ⟨fun i h => W_admits ((by decide +kernel : ∀ i ∈ _, simple T i = true) i h), by decide +kernel⟩

theorem met_Barriers_wait : let s := { W with g := { T with barA := 0x8000 } }
    Admitted s (.barwB 15) ∧ isMember s s.g false 15 = true ∧ awaiting s s.g false 15 = true :=
  ⟨admitted (by decide +kernel) rfl (by decide +kernel) (by decide +kernel) (by decide +kernel), by decide +kernel⟩

theorem met_Barriers_messages : let s := { W with g := { T with core := 24 }, barMsgs := [(1, 3, 1)], barRels := [(1, 3, 1)] }
    (1, 3, 1) ∈ s.barMsgs ∧ s.gangs.any (fun b => b.id == 1) = true ∧ (1, 3, 1) ∈ s.barRels ∧ farFrom s s.g true = true := by decide +kernel

theorem met_Fences : (∀ i ∈ ([.fenceRel, .fenceEng, .fenceAcq, .fenceAr, .fenceFlag 3 4, .flushr 3] : List Instr), Admitted W i) ∧
    released W W.g.core = true ∧ (∀ k ∈ W.kept, k.tid = W.g.tid → k.packet.kind ≠ 0x03 ∧ k.packet.kind ≠ 0x06) ∧
    (∀ f ∈ W.flights, f.tid ≠ W.g.tid) :=
  ⟨fun i h => W_admits ((by decide +kernel : ∀ i ∈ _, simple T i = true) i h), by decide +kernel, by decide +kernel, by decide +kernel⟩

theorem met_Fences_flag : Admitted (A 0x1FFF8) (.fenceFlag 3 4) ∧ OperandsThere (A 0x1FFF8) { srcs := [.k 3 false, .k 4 false] } ∧
    checkAccess (A 0x1FFF8) (A 0x1FFF8).g ⟨1, 8, 8, false, false⟩ [(0, (readK (A 0x1FFF8).g 3).toNat)] = .ok [(0, 0x1FFF8, .hbm 0x1FFF8)] ∧
    released (A 0x1FFF8) 0 = true ∧ (A 0x1FFF8).flagWrites = [] :=
  ⟨A_admits _ (by decide +kernel), A_operands _ _, allows_ok (by decide +kernel), by decide +kernel, rfl⟩

theorem met_Fences_flag_later : let s := { A 0x10000 with pending := [{ core := 0, word := 0x4000, atHome := false }] }
    Admitted s (.fenceFlag 3 4) ∧ checkAccess s s.g ⟨1, 8, 8, false, false⟩ [(0, (readK s.g 3).toNat)] = .ok [(0, 0x10000, .hbm 0x10000)] ∧
    released s 0 = false ∧ s.flagWrites = [] :=
  ⟨admitted (by decide +kernel) rfl (by decide +kernel) (by decide +kernel) (by decide +kernel), allows_ok (by decide +kernel), by decide +kernel, rfl⟩

theorem met_Fences_flushr : Admitted (A 0x10007) (.flushr 3) ∧
    checkAccess (A 0x10007) (A 0x10007).g ⟨0, 0, 1, false, false⟩ [(0, (readK (A 0x10007).g 3).toNat / 8 * 8)] = .ok [(0, 0x10000, .hbm 0x10000)] ∧
    released (A 0x10007) 0 = true ∧ Admitted (A 0x20008) (.flushr 3) ∧
    checkAccess (A 0x20008) (A 0x20008).g ⟨0, 0, 1, false, false⟩ [(0, (readK (A 0x20008).g 3).toNat / 8 * 8)] = .ok [(0, 0x20008, .peer 5 0x20008)] ∧
    settledAt (A 0x20008) 0 (some 5) = true :=
  ⟨A_admits _ (by decide +kernel), allows_ok (by decide +kernel), by decide +kernel, A_admits _ (by decide +kernel), allows_ok (by decide +kernel),
   by decide +kernel⟩


/-! Clauses of waits, traps and ends of the statements about control and system instructions. -/

/-- A window of thread 1 on q1, at the branch where `T` stands. -/
def win (pt : Mask) : Window := { saved := { T with qBusy := 2 }, pred := 1, neg := false, pt := pt, target := 0x10040, join := 0x10080, issued := 0 }

/-- `W` inside a window. -/
def WW : State := { W with g := { T with pc := 0x10040 }, windows := [win 0xFF] }

theorem met_Transfers_traps : Ready (D 0 [(3, 0x10001)]) [.jr 1 3] ∧ (readK (D 0 [(3, 0x10001)]).g 3).toNat % 4 ≠ 0 ∧
    Ready (D 0 [(3, 2 ^ 57)]) [.jr 1 3] ∧ (readK (D 0 [(3, 2 ^ 57)]).g 3).toNat % 4 = 0 ∧ 2 ^ 57 ≤ (readK (D 0 [(3, 2 ^ 57)]).g 3).toNat :=
  ⟨ready (by decide +kernel) (D_plain _ _), by decide +kernel, ready (by decide +kernel) (D_plain _ _), by decide +kernel⟩

def fullStack : State := { hinted with g := { hinted.g with stack := List.replicate 1023 ⟨true, 0xFFFFFFFF, 0x10100, 0⟩ } }

theorem met_Transfers_full : (∀ i ∈ ([.brV 1 5] : List Instr), Admitted fullStack i) ∧ 1023 ≤ fullStack.g.stack.length ∧
    fullStack.g.M &&& readQ fullStack.g 1 ≠ 0 ∧ fullStack.g.M &&& ~~~(fullStack.g.M &&& readQ fullStack.g 1) ≠ 0 :=
  ⟨admits_all (by decide +kernel), by decide +kernel⟩

theorem met_Transfers_busy : let s := { hinted with g := { hinted.g with qBusy := 2 } }
    let u := { s with g := { s.g with run := [wordH 3 1, wordH 1 2] } }
    let v := { fullStack with g := { fullStack.g with qBusy := 2 } }
    (∀ i ∈ ([.brV 1 5, .brVn 1 5] : List Instr), Admitted s i) ∧ s.g.qBusy.getLsbD 1 = true ∧ predict s s.g (hpMode s.g) = none ∧
    (∀ i ∈ ([.brV 1 5, .brVn 1 5] : List Instr), Admitted u i) ∧ u.g.stack.length < 1023 ∧ (predict u u.g (hpMode u.g)).isSome = true ∧
    (∀ i ∈ ([.brV 1 5] : List Instr), Admitted v i) ∧ v.g.qBusy.getLsbD 1 = true ∧ 1023 ≤ v.g.stack.length :=
  ⟨admits_all (by decide +kernel), by decide +kernel, by decide +kernel, admits_all (by decide +kernel), by decide +kernel, by decide +kernel,
   admits_all (by decide +kernel), by decide +kernel⟩

theorem met_Transfers_disagree : let s := { W with g := { T with q := T.q.set 1 0xFF } }
    Ready s [.brU 1 5, .brUn 1 5] ∧ s.g.M &&& readQ s.g 1 ≠ s.g.M ∧ s.g.M &&& readQ s.g 1 ≠ 0 ∧
    s.g.M &&& ~~~(readQ s.g 1) ≠ s.g.M ∧ s.g.M &&& ~~~(readQ s.g 1) ≠ 0 :=
  ⟨ready (by decide +kernel) (by decide +kernel), by decide +kernel⟩

/-- Two regions, the inner with a path entry; `q1` selects eight of the sixteen running lanes, `q2` none, `q3` all. -/
def nested : State :=
  { W with g := { T with M := 0xFFFF, q := (T.q.set 1 0xFF).set 3 0xFFFF
                         stack := [⟨false, 0xFFFF0000, 0x10100, 0⟩, ⟨true, 0xFFFFFFFF, 0x10200, 0⟩, ⟨false, 0x0F000000, 0x10010, 0⟩,
                                   ⟨true, 0xFFFFFFFF, 0x10300, 0⟩] } }

theorem met_LanePaths_break : Ready nested [.brk 1 1 4, .brk 1 1 5, .brk 1 3 4, .brk 2 1 4, .brk 1 2 4] ∧ depth nested.g.stack ≤ 2 ∧
    1 < depth nested.g.stack ∧ nested.g.M &&& readQ nested.g 2 = 0 ∧ nested.g.M &&& readQ nested.g 1 ≠ 0 ∧
    (let inner : List Entry := [⟨false, 0xFFFF0000, 0x10100, 0⟩, ⟨true, 0xFFFFFFFF, 0x10200, 0⟩]
     let paths : List Entry := [⟨false, 0x0F000000, 0x10010, 0⟩]
     let rest : List Entry := [⟨true, 0xFFFFFFFF, 0x10300, 0⟩]
     nested.g.stack = inner ++ paths ++ rest ∧ depth inner = 1 ∧ inner.getLast?.any Entry.join = true ∧ paths.all (fun e => !e.join) = true ∧
       rest.head?.any Entry.join = true ∧ target nested.g.pc 4 = 0x10010 ∧ target nested.g.pc 5 ≠ 0x10010 ∧
       nested.g.M &&& ~~~(nested.g.M &&& readQ nested.g 1) ≠ 0 ∧ inner.length + paths.length + rest.length < 1024 ∧
       nested.g.M &&& ~~~(nested.g.M &&& readQ nested.g 3) = 0 ∧ (pathEnd nested.g.X nested.g.stack).isSome = true) :=
  ⟨ready (by decide +kernel) (by decide +kernel), by decide +kernel⟩

theorem met_LanePaths_break_full : let s := { nested with g := { nested.g with stack := List.replicate 1025 ⟨true, 0xFFFFFFFF, 0x10200, 0⟩ } }
    Ready s [.brk 1 1 4] ∧ s.g.M &&& readQ s.g 1 ≠ 0 ∧
    s.g.stack = [⟨true, 0xFFFFFFFF, 0x10200, 0⟩] ++ [] ++ List.replicate 1024 ⟨true, 0xFFFFFFFF, 0x10200, 0⟩ ∧
    1 < depth s.g.stack ∧ ((List.replicate 1024 (⟨true, 0xFFFFFFFF, 0x10200, 0⟩ : Entry)).head?.any Entry.join) = true ∧
    (0xFFFFFFFF : Mask) &&& ~~~(s.g.M &&& readQ s.g 1) ≠ 0 ∧ 1024 ≤ (List.replicate 1024 (⟨true, 0xFFFFFFFF, 0x10200, 0⟩ : Entry)).length :=
  ⟨ready (by decide +kernel) (by decide +kernel), by decide +kernel, rfl, by decide +kernel, by decide +kernel, by decide +kernel, by decide +kernel⟩

theorem met_LanePaths_exitV_paths : (∀ i ∈ ([.exitV] : List Instr), Admitted regional i) ∧ 0 < depth regional.g.stack ∧
    (pathEnd (regional.g.X ||| regional.g.M) regional.g.stack).isSome = true ∧ (∀ i ∈ ([.exitV] : List Instr), Admitted W i) ∧ depth W.g.stack = 0 :=
  ⟨admits_all (by decide +kernel), by decide +kernel, by decide +kernel, admits_all (by decide +kernel), by decide +kernel⟩

theorem met_LanePaths_exit_waits : let s := { W with pending := [{ core := 0, word := 4, atHome := false }] }
    let u := { W with g := { T with locks := [(0x2000, 0x10000)] } }
    (∀ i ∈ ([.exit] : List Instr), Admitted s i) ∧ released s 0 = false ∧ (∀ i ∈ ([.exit] : List Instr), Admitted u i) ∧ released u 0 = true ∧
    u.g.locks ≠ [] ∧ ctxEnded u 1 = false :=
  ⟨admits_all (by decide +kernel), by decide +kernel, admits_all (by decide +kernel), by decide +kernel⟩

/-- `W` with a quantise operation of its thread, which may still raise a flag. -/
def flagsPending : State := { D 0 [(3, 31)] with engines := [{ id := 9, kind := .qntEnc, ctx := 1, tid := 1 }] }

theorem met_GroupRegisters_limits : Ready (D 0 [(3, 5)]) [.setfmt 5 3, .set 0 3] ∧ 5 ≤ (readK (D 0 [(3, 5)]).g 3).toNat ∧
    Ready (D 0 [(3, 256)]) [.set 1 3, .set 2 3] ∧ 256 ≤ (readK (D 0 [(3, 256)]).g 3).toNat ∧ (readK (D 0 [(3, 255)]).g 3).toNat < 256 ∧
    Ready flagsPending [.get 5 2, .set 2 3] ∧ pendingFlags flagsPending flagsPending.g = true ∧ (readK flagsPending.g 3).toNat < 32 :=
  ⟨ready (by decide +kernel) (D_plain _ _), by decide +kernel, ready (by decide +kernel) (D_plain _ _), by decide +kernel, by decide +kernel,
   ready (by decide +kernel) (by decide +kernel), by decide +kernel⟩

theorem met_TrapEntry_window : windowOf WW WW.g.tid = some (win 0xFF) ∧ (win 0xFF).resolved = none := by decide +kernel

theorem met_FaultingWords_window : mayIssue { W with cores := [(0, { stopped := true })] } W.g = false ∧
    windowOf WW WW.g.tid = some (win 0xFF) ∧ mayIssue WW WW.g = true := by decide +kernel

/-- The ring of die 0 holds 4,095 records. -/
def ringFull : State := { W with mem := writeN [] (ringBase 0) 8 4095 }

theorem met_TrapRecordRing : ringRoom W 0 = true ∧ ringRoom ringFull 0 = false ∧ (∀ x ∈ W.trapWait, x.die ≠ 0) ∧ W.bad = [] ∧
    (∃ x ∈ ({ W with trapWait := [{ cause := 3 }] } : State).trapWait, x.die = 0) := by decide +kernel

theorem met_CoreControl_waits : let s := { F 0 with trapWait := [{ cause := 3, core := 0 }] }
    Ready s [.rett 5 3] ∧ coreHere s.g (readK s.g 3).toNat = true ∧ coreStopped s (readK s.g 3).toNat = true ∧ recordWaits s (readK s.g 3).toNat = true :=
  ⟨ready (by decide +kernel) (F_plain 0), by decide +kernel⟩

theorem met_ControlRegisters_traps : Ready (D 2 [(3, 3), (4, 1)]) [.csrr 5 3, .csrw 3 4] ∧ csrAccess 0x3FFFF = .none ∧
    Ready (D 2 [(3, 0x3FFFF)]) [.csrr 5 3, .csrw 3 4] ∧ csrAccess csrStatus = .ro ∧ csrValueOk csrSema 3 = false ∧ csrAccess csrSema ≠ .none ∧
    csrAccess csrSema ≠ .ro ∧ csrValueOk csrSema 0 = true ∧ csrValueOk csrIntv 21 = true ∧ csrValueOk csrPkgid 0x1003 = true ∧
    csrAccess csrIntv ≠ .none ∧ csrAccess csrPkgid ≠ .ro :=
  ⟨ready (by decide +kernel) (D_plain _ _), by decide +kernel, ready (by decide +kernel) (D_plain _ _), by decide +kernel⟩

theorem met_ControlRegisters_walks : let s := { F 0 with walks := [⟨1, 0x50000, 0, 0, [1]⟩] }
    let u := { F 0 with walks := [⟨1, 0x50000, 1, 0, [1]⟩] }
    Ready s [.tlbinv 0 3 4, .tlbinv 3 3 4] ∧ (∃ w ∈ s.walks, w.code = 0) ∧ Ready u [.tlbinv 0 3 4, .tlbinv 1 3 4, .tlbinv 2 3 4, .tlbinv 3 3 4] ∧
    ∀ w ∈ u.walks, w.code ≠ 0 :=
  ⟨ready (by decide +kernel) (F_plain 0), by decide +kernel, ready (by decide +kernel) (F_plain 0), by decide +kernel⟩

theorem met_Barriers_member : (∀ i ∈ ([.baraB 1, .barB 1, .barwB 1, .baraG 1, .barG 1, .barwG 1] : List Instr), Admitted W i) ∧
    isMember W W.g false 1 = false ∧ isMember W W.g true 1 = false ∧ readsDone W 1 = true ∧ quiet W 1 = true :=
  ⟨admits_all (by decide +kernel), by decide +kernel⟩

/-- A scalar load of k5 in flight. -/
def loading : Flight := ⟨9, 1, 0, .scalar 5, false, false, [], [⟨0, .hbm 0x10000, 8, .fill, 0, false, 0x10000⟩], [], 1, 0, false, false⟩

theorem met_Barriers_waits : let s := { W with flights := [loading] }
    let u := { W with g := { T with core := 24 } }
    (∀ i ∈ ([.baraB 0, .barB 0, .barwB 0] : List Instr), Admitted s i) ∧ isMember s s.g false 0 = true ∧ readsDone s 1 = false ∧ quiet s 1 = false ∧
    awaiting s s.g false 0 = false ∧ (∀ i ∈ ([.baraG 3, .barG 3, .barwG 3] : List Instr), Admitted u i) ∧ isMember u u.g true 3 = true ∧
    released u 24 = true ∧ readsDone u 1 = true ∧ awaiting u u.g true 3 = false ∧ farFrom u u.g true = true ∧
    (barrierOf W W.g false 0).count + 1 = (barrierOf W W.g false 0).members.length ∧
    (barrierOf W W.g false 15).count + 1 ≠ (barrierOf W W.g false 15).members.length :=
  ⟨admits_all (by decide +kernel), by decide +kernel, by decide +kernel, by decide +kernel, by decide +kernel, admits_all (by decide +kernel),
   by decide +kernel⟩

theorem met_Fences_waits : let s := { W with flights := [loading], pending := [{ core := 0, word := 4, atHome := false }] }
    let u := { W with kept := [⟨{ packet 0x03 5 1 0x20000 with via := 1 }, 0, 1, 0x20000, false, 0, 512⟩] }
    (∀ i ∈ ([.fenceRel, .fenceEng, .fenceAcq, .fenceAr] : List Instr), Admitted s i) ∧ released s 0 = false ∧ quiet s 1 = false ∧
    (∀ i ∈ ([.fenceEng] : List Instr), Admitted u i) ∧ released u 0 = true ∧ (∃ k ∈ u.kept, k.tid = u.g.tid ∧ k.packet.kind = 0x03) ∧
    quiet W 1 = true :=
  ⟨admits_all (by decide +kernel), by decide +kernel, by decide +kernel, admits_all (by decide +kernel), by decide +kernel⟩

/-- The access of `FENCE.FLAG` and of `FLUSHR` at K[3]. -/
def flagAt (s : State) : Checked := checkAccess s s.g ⟨1, 8, 8, false, false⟩ [(0, (readK s.g 3).toNat)]
def flushAt (s : State) : Checked := checkAccess s s.g ⟨0, 0, 1, false, false⟩ [(0, (readK s.g 3).toNat / 8 * 8)]

theorem met_Fences_access : Ready (A 0x50000) [.fenceFlag 3 4, .flushr 3] ∧ (∃ u, flagAt (A 0x50000) = .wait u) ∧ (∃ u, flushAt (A 0x50000) = .wait u) ∧
    Ready (A 0x10004) [.fenceFlag 3 4] ∧ (∃ r, flagAt (A 0x10004) = .trap r) ∧ Ready (A (2 ^ 57)) [.flushr 3] ∧ (∃ r, flushAt (A (2 ^ 57)) = .trap r) ∧
    Ready (A 0x20008) [.fenceFlag 3 4] ∧ flagAt (A 0x20008) = .ok [(0, 0x20008, .peer 5 0x20008)] ∧ readsDone (A 0x20008) 1 = true ∧
    unreachable (A 0x20008) 5 = 0 ∧ readsDone { A 0x20008 with flights := [loading] } 1 = false :=
  ⟨ready (by decide +kernel) (A_plain _), waits_is (by decide +kernel), waits_is (by decide +kernel), ready (by decide +kernel) (A_plain _),
   traps_is (by decide +kernel), ready (by decide +kernel) (A_plain _), traps_is (by decide +kernel), ready (by decide +kernel) (A_plain _),
   allows_ok (by decide +kernel), by decide +kernel⟩

theorem met_Fences_unsettled : let s := { A 0x20008 with kept := [⟨{ packet 0x03 5 1 0x20000 with via := 1 }, 0, 1, 0x20000, false, 0, 512⟩] }
    let u := { A 0x10000 with pending := [{ core := 0, word := 4, atHome := false }] }
    Ready s [.fenceFlag 3 4, .flushr 3] ∧ flagAt s = .ok [(0, 0x20008, .peer 5 0x20008)] ∧ flushAt s = .ok [(0, 0x20008, .peer 5 0x20008)] ∧
    released s 0 = true ∧ settledAt s 0 (some 5) = false ∧ Ready u [.flushr 3] ∧ flushAt u = .ok [(0, 0x10000, .hbm 0x10000)] ∧ released u 0 = false :=
  ⟨ready (by decide +kernel) (by decide +kernel), allows_ok (by decide +kernel), allows_ok (by decide +kernel), by decide +kernel, by decide +kernel,
   ready (by decide +kernel) (by decide +kernel), allows_ok (by decide +kernel), by decide +kernel⟩

/-! Clauses about the core that halts itself, traps in windows, fences and flags. -/

/-- Core 2 with its firmware thread, and a tenant's thread on it. -/
def shared2 : State := { F 2 with others := [{ T with tid := 2, core := 2, priv := false }] }

theorem met_CoreControl_own : Ready shared2 [.halt 5 3] ∧ coreHere shared2.g (readK shared2.g 3).toNat = true ∧
    (readK shared2.g 3).toNat = shared2.g.core ∧ windowOf shared2 shared2.g.tid = none ∧ (∀ y ∈ shared2.others, y.tid ≠ shared2.g.tid) :=
  ⟨ready (by decide +kernel) (by decide +kernel), by decide +kernel⟩

theorem met_CoreControl_withdrawal : let s := { F 0 with others := [{ T with tid := 2 }], lockMsgs := [.withdraw 7 2] }
    Ready s [.rett 5 3] ∧ coreHere s.g (readK s.g 3).toNat = true ∧ coreStopped s (readK s.g 3).toNat = true ∧ recordWaits s 0 = false ∧
    withdrawing s (fun g => g.core == 0) = true ∧ withdrawing (F 0) (fun g => g.core == 0) = false :=
  ⟨ready (by decide +kernel) (by decide +kernel), by decide +kernel⟩

theorem met_TrapEntry_replay : let s := { WW with windows := [{ win 0xFF with resolved := some 0xFF }] }
    windowOf s s.g.tid = some { win 0xFF with resolved := some 0xFF } ∧ ({ win 0xFF with resolved := some 0xFF } : Window).resolved ≠ none := by
  decide +kernel

theorem met_Fences_multicast : let s := { W with kept := [⟨{ packet 0x0A 0 1 0x20000 with via := 1 }, 0, 1, 0x20000, false, 0, 512⟩] }
    let u := { W with flagWrites := [⟨0, 1, 1, 0x20008, .peer 5 0x20008, 1⟩] }
    (∀ x ∈ [s, u], Ready x [.fenceEng] ∧ released x 0 = true) ∧ (∃ k ∈ s.kept, k.tid = s.g.tid ∧ k.packet.kind = 0x0A) ∧
    (∃ w ∈ u.flagWrites, w.tid = u.g.tid) ∧ (∀ w ∈ W.flagWrites, w.tid ≠ W.g.tid) :=
  ⟨fun x h => by
    simp only [List.mem_cons, List.not_mem_nil, or_false] at h
    rcases h with rfl | rfl <;> exact ⟨ready (by decide +kernel) (by decide +kernel), by decide +kernel⟩, by decide +kernel⟩

theorem met_Fences_flush_flag : let s := { A 0x20008 with flagWrites := [⟨0, 2, 1, 0x20000, .peer 5 0x20000, 1⟩] }
    Ready s [.flushr 3] ∧ flushAt s = .ok [(0, 0x20008, .peer 5 0x20008)] ∧ settledAt s 0 (some 5) = true ∧
    (∃ w ∈ s.flagWrites, w.core = s.g.core ∧ peerPkg w.loc = some 5) ∧ (A 0x20008).flagWrites = [] :=
  ⟨ready (by decide +kernel) (by decide +kernel), allows_ok (by decide +kernel), by decide +kernel⟩

theorem met_LanePaths_orphan : let u := { W with g := { T with locks := [(0x2000, 0x10000)] } }
    Ready u [.exit] ∧ released u u.g.core = true ∧ u.g.locks ≠ [] ∧ ctxEnded u u.g.ctx = false ∧ ringRoom u 0 = true :=
  ⟨ready (by decide +kernel) (by decide +kernel), by decide +kernel⟩

theorem met_ControlRegisters_number : let s := { D 2 [(3, 2), (4, 0x1007)] with csr := [(0, 0x4B321A020B ^^^ 2)], outbox := [packet 0x03 5 1 0x20000] }
    Ready s [.csrw 3 4] ∧ (readK s.g 3).toNat % 2 ^ 32 = csrPkgid ∧ csrAccess csrPkgid = .rw ∧ csrValueOk csrPkgid (readK s.g 4).toNat = true ∧ s.outbox ≠ [] :=
  ⟨ready (by decide +kernel) (by decide +kernel), by decide +kernel⟩

theorem met_ControlRegisters_fabric : let s := { F 0 with fmTlb := [(3, 1)] }
    Ready s [.tlbinv 3 3 4, .tlbinv 2 3 4] ∧ (∀ w ∈ s.walks, w.code ≠ 0) ∧ s.fmTlb ≠ [] :=
  ⟨ready (by decide +kernel) (by decide +kernel), by decide +kernel⟩
theorem met_LaneResults : let o : V3 := ⟨5, 3, 4, 0, true, true⟩
    (∀ i ∈ ([.vaddI64 o, .vaddI32 o, .vaddP16 o, .vaddP8 o, .vsubI64 o, .vsubI32 o, .vsubP16 o, .vsubP8 o, .vmulI64 o, .vmulI32 o, .vmulP16 o,
      .vmulhI64 o, .vrng o, .vminI64 o, .vminI32 o, .vminP16 o, .vminN32 o, .vmaxI64 o, .vmaxI32 o, .vmaxP16 o, .vmaxN32 o, .vaddsP16 o,
      .vaddsP16n o, .vaddsP8 o, .vaddsP8n o] : List Instr), Admitted W i) ∧
    (∀ i ∈ ([.vcmpmGtP16 o, .vcmpmEqP16 o, .vand o, .vor o, .vxor o, .vandn o, .vshl o, .vshr o, .vsha o, .vrot o, .vsel o, .vbsl o,
      .vpackmP16 ⟨5, 3, 1, false⟩, .vpopc ⟨5, 2, 1, false⟩, .vmov ⟨5, 3, 0, true⟩, .vbcast ⟨5, 3, 0, true⟩] : List Instr), Admitted W i) :=
  ⟨fun i h => W_admits ((by decide +kernel : ∀ i ∈ _, simple T i = true) i h), fun i h => W_admits ((by decide +kernel : ∀ i ∈ _, simple T i = true) i h)⟩

theorem met_LaneResults_operands : let act := activeMask W.g 0
    OperandsThere W { bounds := [5, 3, 4], preds := [0], act := act, dstV := [5], srcs := [.v 3 true, .v 4 true] } ∧
    OperandsThere W { bounds := [5, 3, 4], preds := [0], act := W.g.M, dstV := [5], srcs := [.v 3 true, .v 4 true] } ∧
    OperandsThere W { bounds := [5, 3, 4], preds := [0], act := act, dstV := [5], srcs := [.v 3 true, .v 4 true, .v 5 false] } ∧
    OperandsThere W { bounds := [5], preds := [1, 2], act := activeMask W.g 1, dstV := [5] } ∧
    OperandsThere W { bounds := [5], preds := [0], act := act, dstV := [5], srcs := [.k 3 true] } :=
  ⟨W_operands _, W_operands _, W_operands _, W_operands _, W_operands _⟩

theorem met_LaneMoves : (∀ i ∈ ([.vext ⟨5, 3, 4, true, true⟩, .vins ⟨5, 3, 4, 0, true, true⟩, .vshfl ⟨5, 3, 4, 0, true, true⟩, .vlane ⟨5, 3, 5, 0, true, true⟩,
      .vshup ⟨5, 5, 4, 0, true, true⟩, .vswzP16 ⟨5, 3, 4, 0, true, true⟩] : List Instr), Admitted W i) ∧
    OperandsThere W { bounds := [3], act := W.g.M, dstK := [5], srcs := [.all 3 true, .k 4 true] } ∧
    OperandsThere W { bounds := [5], preds := [0], act := activeMask W.g 0, dstV := [5], srcs := [.k 3 true, .k 4 true] } ∧
    OperandsThere W { bounds := [5, 3, 4], preds := [0], act := activeMask W.g 0, dstV := [5], srcs := [.all 3 true, .all 4 true] } ∧
    OperandsThere W { bounds := [5, 3], preds := [0], act := activeMask W.g 0, dstV := [5], srcs := [.all 3 true, .k 4 true] } :=
  ⟨fun i h => W_admits ((by decide +kernel : ∀ i ∈ _, simple T i = true) i h), W_operands _, W_operands _, W_operands _, W_operands _⟩

theorem met_ComparesReductions : let o : P3 := ⟨7, 3, 4, 0, true, true⟩
    (∀ i ∈ ([.vcmpEqI64 o, .vcmpLtI64 o, .vcmpLtnI64 o, .vcmpLeI64 o, .vcmpEqI32 o, .vcmpLtI32 o, .vfcmpEqD o, .vfcmpLtD o, .vfcmpLeD o, .vfcmpUnD o,
      .vfcmpEqF o, .vfcmpLtF o, .vfcmpLeF o, .vfcmpUnF o, .vcmpEqI64 ⟨0, 3, 4, 7, true, true⟩, .vrsumI64 ⟨5, 3, 0, true⟩, .vrminI64 ⟨5, 3, 0, true⟩,
      .vrmaxI64 ⟨5, 3, 0, true⟩, .vrsumD ⟨5, 3, 0, true⟩, .vrsumF ⟨5, 3, 0, true⟩, .vargmaxF ⟨5, 3, 1, true⟩, .vcount ⟨5, 2, 0, true⟩,
      .vscanI32 ⟨5, 3, 0, true⟩] : List Instr), Admitted W i) ∧
    OperandsThere W { bounds := [3, 4], preds := [0, 7], act := activeMask W.g 0, srcs := [.v 3 true, .v 4 true] } ∧
    OperandsThere W { bounds := [3], preds := [0], act := activeMask W.g 0, dstK := [5], srcs := [.all 3 true] } ∧
    OperandsThere W { preds := [0, 2], act := activeMask W.g 0, dstK := [5] } ∧
    OperandsThere W { bounds := [5, 3], preds := [0], act := activeMask W.g 0, dstV := [5], srcs := [.all 3 true] } ∧
    lanesOf W.g (activeMask W.g 0) ≠ [] ∧ lanesOf W.g (activeMask W.g 1) = [] ∧ W.g.rows ≤ 16 :=
  ⟨fun i h => W_admits ((by decide +kernel : ∀ i ∈ _, simple T i = true) i h), W_operands _, W_operands _, W_operands _, W_operands _, by decide +kernel⟩

theorem met_FloatLanes : let o : V3 := ⟨5, 3, 4, 0, true, true⟩
    (∀ i ∈ ([.vfaddD o, .vfaddF o, .vfaddH4 o, .vfaddB4 o, .vfsubD o, .vfsubF o, .vfsubH4 o, .vfsubB4 o, .vfmulD o, .vfmulF o, .vfmulH4 o, .vfmulB4 o,
      .vfmaD o, .vfmaF o, .vfmaH4 o, .vfmaB4 o, .vfminD o, .vfmaxD o, .vfminF o, .vfmaxF o, .vfdivD o, .vfdivF o] : List Instr), Admitted W i) ∧
    (let p : V2 := ⟨5, 3, 0, true⟩
     ∀ i ∈ ([.vfsqrtD p, .vfsqrtF p, .vfrintD p, .vfrintF p, .vfclassD p, .vfclassF p, .vrcpF p, .vrsqF p, .vexp2F p, .vlog2F p,
      .vcvt ⟨5, 3, 0x3B, 0, true, 3⟩, .vcvt ⟨5, 3, 0, 0, true, 0⟩] : List Instr), Admitted W i) ∧
    OperandsThere W { bounds := [5, 3, 4], preds := [0], act := activeMask W.g 0, dstV := [5], srcs := [.v 3 true, .v 4 true] ++ [.v 5 false] } ∧
    OperandsThere W { bounds := [5, 3], preds := [0], act := activeMask W.g 0, dstV := [5], srcs := [.v 3 true] } :=
  ⟨fun i h => W_admits ((by decide +kernel : ∀ i ∈ _, simple T i = true) i h), fun i h => W_admits ((by decide +kernel : ∀ i ∈ _, simple T i = true) i h),
   W_operands _, W_operands _⟩

theorem met_FaultOrder : (∃ x ∈ ([(3, 0x10008), (511, 0x10001)] : List (Nat × Nat)), x.2 % (⟨0, 8, 8, false, true⟩ : Form).align ≠ 0) ∧
    (let l : List Flaw := [⟨false, 0, 3⟩, ⟨true, 14, 63⟩, ⟨true, 14, 0⟩]
     (∀ g ∈ l, g.bit < 64 ∧ g.word < 15) ∧ firstFlaw l = some ⟨true, 14, 0⟩) := by decide +kernel

/-- The last 32 doubles of the page. -/
def doubles : List (Nat × Nat × Loc) := (List.range 32).map fun n => (n, 0x1FF00 + 8 * n, .hbm (0x1FF00 + 8 * n))

theorem met_VectorLoads : let o : M := ⟨5, 3, 0, 0, true, 0, true⟩
    (∀ i ∈ ([.vldD o, .vldW o, .vldH o, .vldB o, .sld o, .vldD ⟨5, 3, 4, 0, true, 1, false⟩] : List Instr), Admitted (A 0x1FF00) i) ∧
    OperandsThere (A 0x1FF00) { bounds := addrFields [5] 0 true, preds := [0], srcs := addrSrcs 3 0 true true, act := activeMask (A 0x1FF00).g 0, dstAll := [5] } ∧
    badPolicy 0 (laneAddrs (A 0x1FF00).g (activeMask (A 0x1FF00).g 0) 3 0 true 8) = false ∧
    checkAccess (A 0x1FF00) (A 0x1FF00).g ⟨0, 8, 8, false, true⟩ (laneAddrs (A 0x1FF00).g (activeMask (A 0x1FF00).g 0) 3 0 true 8) = .ok doubles ∧
    doubles ≠ [] ∧ stillOpen (A 0x1FF00) 1 8 doubles = false ∧ queueRoom (A 0x1FF00) 0 = true ∧ (∀ x ∈ doubles, peerPkg x.2.2 = none) :=
  ⟨fun i h => A_admits _ ((by decide +kernel : ∀ i ∈ _, simple T i = true) i h), A_operands _ _, by decide +kernel, allows_ok (by decide +kernel), by decide +kernel⟩

theorem met_VectorLoads_none : checkAccess W W.g ⟨0, 8, 8, false, true⟩ (laneAddrs W.g (activeMask W.g 1) 3 0 true 8) = .ok [] ∧
    Admitted W (.vldD ⟨5, 3, 0, 1, true, 0, true⟩) := ⟨allows_ok (by decide +kernel), W_admits (by decide +kernel)⟩

theorem met_VectorLoads_spad : checkAccess (A 0x1FF00) (A 0x1FF00).g ⟨0, 8, 8, true, true⟩ (laneAddrs (A 0x1FF00).g (activeMask (A 0x1FF00).g 0) 3 0 true 8)
      = .ok ((List.range 32).map fun n => (n, 0x1FF00 + 8 * n, .spad 1 (0x1FF00 + 8 * n))) := allows_ok (by decide +kernel)

/-- Where a prefetch of thread 1 leads. -/
def leads (s : State) (a : Nat) : Xlate := translate s s.g.tid s.g.ctx a 0
def missing (s : State) (a : Nat) : Bool := match leads s a with
  | .miss => true
  | _ => false
theorem missing_is {s : State} {a : Nat} (h : missing s a = true) : leads s a = .miss := by
  simp only [missing] at h
  split at h <;> simp_all
theorem missing_not {s : State} {a : Nat} (h : missing s a = false) : leads s a ≠ .miss := by
  intro e
  simp [missing, e] at h
def leadsTo (s : State) (a : Nat) (l : Loc) : Bool := match leads s a with
  | .ok m => m == l
  | _ => false
theorem leads_ok {s : State} {a : Nat} {l : Loc} (h : leadsTo s a l = true) : leads s a = .ok l := by
  simp only [leadsTo] at h
  split at h <;> simp_all

/-- Lanes at the two ends of the page, and one lane alone, at a line of memory of the other half and at one of package 5. -/
def oneLane (va : Nat) : State := { A va with g := { at3 0 va with q := T.q.set 1 1 } }

/-- A page whose home is on die 1. -/
def remote : State := { oneLane 0x30080 with tlb := [⟨1, 0x30000, 0x10000, true, true, true, false, 2 ^ 37, 0, 128⟩] }

theorem met_VectorLoads_prefetch_remote : Ready remote [.pref ⟨3, 0, 1, true, 1, true⟩] ∧ leads remote 0x30080 = .ok (.hbm (2 ^ 37 + 128)) ∧
    remoteLine remote.g.core ((2 ^ 37 + 128) / 128) = true ∧
    ((lanesOf remote.g (activeMask remote.g 1)).map (prefAddr remote.g ⟨3, 0, 1, true, 1, true⟩)) = [0x30080] :=
  ⟨ready (by decide +kernel) (by decide +kernel), leads_ok (by decide +kernel), by decide +kernel⟩

theorem met_VectorLoads_prefetch : (∀ o ∈ ([⟨3, 0, 1, true, 0, true⟩, ⟨3, 0, 1, true, 1, true⟩] : List M0), Ready (oneLane 0x1FF80) [.pref o] ∧
      Ready (oneLane 0x50000) [.pref o] ∧ Ready (oneLane 0x20080) [.pref o] ∧
      ((lanesOf (oneLane 0x1FF80).g (activeMask (oneLane 0x1FF80).g 1)).map (prefAddr (oneLane 0x1FF80).g o)) = [0x1FF80] ∧
      ((lanesOf (oneLane 0x50000).g (activeMask (oneLane 0x50000).g 1)).map (prefAddr (oneLane 0x50000).g o)) = [0x50000] ∧
      ((lanesOf (oneLane 0x20080).g (activeMask (oneLane 0x20080).g 1)).map (prefAddr (oneLane 0x20080).g o)) = [0x20080]) ∧
    leads (oneLane 0x50000) 0x50000 = .miss ∧ leads (oneLane 0x1FF80) 0x1FF80 = .ok (.hbm 0x1FF80) ∧ leads (oneLane 0x1FF80) 0x1FF80 ≠ .miss ∧
    l1Room (oneLane 0x1FF80) 0 1 = true ∧ leads (oneLane 0x20080) 0x20080 = .ok (.peer 5 0x20080) ∧
    fabricUp (oneLane 0x20080) = true ∧ unreachable (oneLane 0x20080) 5 = 0 ∧ rdcMissRoom (oneLane 0x20080) 0 = true ∧ (oneLane 0x20080).sections = [] :=
  ⟨fun o h => by
    simp only [List.mem_cons, List.not_mem_nil, or_false] at h
    rcases h with rfl | rfl <;>
    exact ⟨ready (by decide +kernel) (by decide +kernel), ready (by decide +kernel) (by decide +kernel), ready (by decide +kernel) (by decide +kernel),
      by decide +kernel⟩,
   missing_is (by decide +kernel), leads_ok (by decide +kernel), missing_not (by decide +kernel), by decide +kernel,
   leads_ok (by decide +kernel), by decide +kernel⟩

theorem met_ScalarLoads : (∀ i ∈ ([.ldkD ⟨5, 3, 0⟩, .ldkW ⟨5, 3, 0⟩, .ldkAcq 5 3] : List Instr), Admitted (A 0x1FFF8) i) ∧
    OperandsThere (A 0x1FFF8) { srcs := [.k 3 false], dstK := [5] } ∧
    checkAccess (A 0x1FFF8) (A 0x1FFF8).g ⟨0, 8, 8, false, false⟩ [(0, (readK (A 0x1FFF8).g 3 + immS (A 0x1FFF8).g 0).toNat)] = .ok [(0, 0x1FFF8, .hbm 0x1FFF8)] ∧
    checkAccess (A 0x1FFFC) (A 0x1FFFC).g ⟨0, 4, 4, false, false⟩ [(0, (readK (A 0x1FFFC).g 3 + immS (A 0x1FFFC).g 0).toNat)] = .ok [(0, 0x1FFFC, .hbm 0x1FFFC)] ∧
    checkAccess (A 0x1FFF8) (A 0x1FFF8).g ⟨0, 8, 8, false, false⟩ [(0, (readK (A 0x1FFF8).g 3).toNat)] = .ok [(0, 0x1FFF8, .hbm 0x1FFF8)] ∧
    stillOpen (A 0x1FFF8) 1 8 [(0, 0x1FFF8, .hbm 0x1FFF8)] = false ∧ queueRoom (A 0x1FFF8) 0 = true :=
  ⟨fun i h => A_admits _ ((by decide +kernel : ∀ i ∈ _, simple T i = true) i h), A_operands _ _, allows_ok (by decide +kernel), allows_ok (by decide +kernel),
   allows_ok (by decide +kernel), by decide +kernel⟩

/-- Lane addresses k3 + v4, with v4 all 0. -/
theorem met_ScalarLoads_vector : let l := (List.range 32).map fun n => (n, 0x1FFF8, Loc.hbm 0x1FFF8)
    Admitted (A 0x1FFF8) (.vldAcq 5 3 4) ∧ OperandsThere (A 0x1FFF8) { bounds := [5, 4], srcs := [.k 3 false, .v 4 false], act := (A 0x1FFF8).g.M, dstAll := [5] } ∧
    checkAccess (A 0x1FFF8) (A 0x1FFF8).g ⟨0, 8, 8, false, true⟩ (formAddrs (A 0x1FFF8).g 3 4) = .ok l ∧ l ≠ [] ∧ stillOpen (A 0x1FFF8) 1 8 l = false ∧
    (∀ x ∈ l, peerPkg x.2.2 = none) :=
  ⟨A_admits _ (by decide +kernel), A_operands _ _, allows_ok (by decide +kernel), by decide +kernel⟩

theorem met_ScalarLoads_peer : Admitted (A 0x2FFF8) (.ldkD ⟨5, 3, 0⟩) ∧
    checkAccess (A 0x2FFF8) (A 0x2FFF8).g ⟨0, 8, 8, false, false⟩ [(0, (readK (A 0x2FFF8).g 3 + immS (A 0x2FFF8).g 0).toNat)] = .ok [(0, 0x2FFF8, .peer 5 0x2FFF8)] ∧
    stillOpen (A 0x2FFF8) 1 8 [(0, 0x2FFF8, .peer 5 0x2FFF8)] = false ∧ queueRoom (A 0x2FFF8) 0 = true ∧
    valueNow (A 0x2FFF8) 0 8 false (.peer 5 0x2FFF8) = none :=
  ⟨A_admits _ (by decide +kernel), allows_ok (by decide +kernel), by decide +kernel⟩

theorem met_StoresWrite : let o : M := ⟨5, 3, 0, 0, true, 0, true⟩
    (∀ i ∈ ([.vstD o, .vstW o, .vstH o, .vstB o, .sst o, .stkRel 3 4, .vstRel 5 3 4, .stkD ⟨5, 3, 0⟩, .stkW ⟨5, 3, 0⟩] : List Instr), Admitted (A 0x1FF00) i) ∧
    OperandsThere (A 0x1FF00) { bounds := addrFields [5] 0 true, preds := [0], srcs := addrSrcs 3 0 true true ++ [.v 5 true], act := activeMask (A 0x1FF00).g 0 } ∧
    checkAccess (A 0x1FF00) (A 0x1FF00).g ⟨1, 8, 8, false, true⟩ (laneAddrs (A 0x1FF00).g (activeMask (A 0x1FF00).g 0) 3 0 true 8) = .ok doubles ∧
    checkAccess (A 0x1FF00) (A 0x1FF00).g ⟨1, 8, 8, false, false⟩ [(0, (readK (A 0x1FF00).g 3).toNat)] = .ok [(0, 0x1FF00, .hbm 0x1FF00)] ∧
    checkAccess (A 0x1FFF8) (A 0x1FFF8).g ⟨1, 8, 8, false, true⟩ (formAddrs (A 0x1FFF8).g 3 4) = .ok ((List.range 32).map fun n => (n, 0x1FFF8, .hbm 0x1FFF8)) ∧
    windowOf (A 0x1FF00) 1 = none ∧ stillOpen (A 0x1FF00) 1 8 doubles = false ∧ queueRoom (A 0x1FF00) 0 = true ∧ released (A 0x1FF00) 0 = true :=
  ⟨fun i h => A_admits _ ((by decide +kernel : ∀ i ∈ _, simple T i = true) i h), A_operands _ _, allows_ok (by decide +kernel), allows_ok (by decide +kernel),
   allows_ok (by decide +kernel), by decide +kernel⟩

/-- In a window the branch of which is still open, and in one that is kept. -/
def storing (r : Option Mask) : State := { A 0x1FF00 with windows := [{ win 0xFFFFFFFF with resolved := r }] }

theorem met_StoresWrite_window : (∀ r ∈ [none, some (0xFF : Mask)], (∀ i ∈ ([.vstD ⟨5, 3, 0, 0, true, 0, true⟩, .sst ⟨5, 3, 0, 0, true, 0, true⟩,
      .stkD ⟨5, 3, 0⟩, .stkW ⟨5, 3, 0⟩] : List Instr), Admitted (storing r) i) ∧
      windowOf (storing r) (storing r).g.tid = some { win 0xFFFFFFFF with resolved := r } ∧
      checkAccess (storing r) (storing r).g ⟨1, 8, 8, false, true⟩ (laneAddrs (storing r).g (activeMask (storing r).g 0) 3 0 true 8) = .ok doubles) :=
  fun r h => by
    simp only [List.mem_cons, List.not_mem_nil, or_false] at h
    rcases h with rfl | rfl <;> exact ⟨admits_all (by decide +kernel), by decide +kernel, allows_ok (by decide +kernel)⟩

theorem met_StoresWrite_spad : let s := A 0x1FFE0
    let l := (List.range 32).map fun n => (n, 0x1FFE0 + n, Loc.spad 1 (0x1FFE0 + n))
    Admitted s (.sst ⟨5, 3, 0, 0, true, 3, true⟩) ∧ checkAccess s s.g ⟨1, 1, 1, true, true⟩ (laneAddrs s.g (activeMask s.g 0) 3 0 true 1) = .ok l ∧
    stillOpen s 1 1 l = false ∧ s.blocks.any (fun k => k.id == 1) = true ∧ (∀ x ∈ l, ∀ y ∈ l, x.2.2 = y.2.2 → y = x) :=
  ⟨A_admits _ (by decide +kernel), allows_ok (by decide +kernel), by decide +kernel⟩

theorem met_StoresWrite_scalar : (∀ i ∈ ([.stkD ⟨5, 3, 0⟩, .stkW ⟨5, 3, 0⟩] : List Instr), Admitted (A 0x1FFF8) i) ∧
    OperandsThere (A 0x1FFF8) { srcs := [.k 3 false, .k 5 false] } ∧ windowOf (A 0x1FFF8) 1 = none ∧
    checkAccess (A 0x1FFF8) (A 0x1FFF8).g ⟨1, 8, 8, false, false⟩ [(0, (readK (A 0x1FFF8).g 3 + immS (A 0x1FFF8).g 0).toNat)] = .ok [(0, 0x1FFF8, .hbm 0x1FFF8)] ∧
    checkAccess (A 0x1FFF8) (A 0x1FFF8).g ⟨1, 4, 4, false, false⟩ [(0, (readK (A 0x1FFF8).g 3 + immS (A 0x1FFF8).g 0).toNat)] = .ok [(0, 0x1FFF8, .hbm 0x1FFF8)] ∧
    stillOpen (A 0x1FFF8) 1 8 [(0, 0x1FFF8, .hbm 0x1FFF8)] = false ∧ queueRoom (A 0x1FFF8) 0 = true ∧ 0x1FFF8 % 8 = 0 ∧ 0x1FFF8 < 2 ^ 52 :=
  ⟨fun i h => A_admits _ ((by decide +kernel : ∀ i ∈ _, simple T i = true) i h), A_operands _ _, by decide +kernel, allows_ok (by decide +kernel), allows_ok (by decide +kernel),
   by decide +kernel⟩

theorem met_Atomics : let o : V3 := ⟨5, 3, 4, 0, true, true⟩
    (∀ i ∈ ([.vatomAddI32 o, .vatomMinI32 o, .vatomMaxI32 o, .vatomXchgI32 o, .vatomAddI64 o, .vatomMinI64 o, .vatomMaxI64 o, .vatomXchgI64 o, .vatomAddF o,
      .vatomAddD o, .vatomAndI64 o, .vatomOrI64 o, .vcasI32 o, .vcasI64 o] : List Instr), Admitted (V 0x1FF00 8) i) ∧
    OperandsThere (V 0x1FF00 8) { bounds := [5, 3, 4], preds := [0], act := activeMask (V 0x1FF00 8).g 0, dstAll := [5], srcs := [.v 3 true, .v 4 true] ++ [.v 5 false] } ∧
    checkAccess (V 0x1FF00 8) (V 0x1FF00 8).g ⟨2, 8, 8, false, true⟩ ((lanesOf (V 0x1FF00 8).g (activeMask (V 0x1FF00 8).g 0)).map fun n => (n, (readV (V 0x1FF00 8).g 3 n).toNat)) = .ok doubles ∧
    checkAccess (V 0x1FF00 8) (V 0x1FF00 8).g ⟨2, 4, 4, false, true⟩ ((lanesOf (V 0x1FF00 8).g (activeMask (V 0x1FF00 8).g 0)).map fun n => (n, (readV (V 0x1FF00 8).g 3 n).toNat)) = .ok doubles ∧
    stillOpen (V 0x1FF00 8) 1 8 doubles = false ∧ queueRoom (V 0x1FF00 8) 0 = true :=
  ⟨fun i h => V_admits _ _ ((by decide +kernel : ∀ i ∈ _, simple T i = true) i h), V_operands _ _ _, allows_ok (by decide +kernel), allows_ok (by decide +kernel), by decide +kernel⟩

theorem met_Atomics_spad : let s := A 0x1FFFFFFF001FFF8
    (∀ i ∈ ([.atomkAdd 5 3 4, .atomkXchg 5 3 4, .cask 5 3 4, .atomkFadd 5 3 4] : List Instr), Admitted s i) ∧
    OperandsThere s { srcs := [.k 3 false, .k 4 false] ++ [.k 5 false], dstK := [5] } ∧
    checkAccess s s.g ⟨2, 8, 8, false, false⟩ [(0, (readK s.g 3).toNat)] = .ok [(0, 0x1FFFFFFF001FFF8, .spad 1 0x1FFF8)] ∧
    stillOpen s 1 8 [(0, 0x1FFFFFFF001FFF8, .spad 1 0x1FFF8)] = false ∧ queueRoom s 0 = true ∧ s.blocks.any (fun k => k.id == 1) = true ∧ AtomOp.add ≠ .addF :=
  ⟨fun i h => A_admits _ ((by decide +kernel : ∀ i ∈ _, simple T i = true) i h), A_operands _ _, allows_ok (by decide +kernel), by decide +kernel⟩


/-! Waits and traps of the statements about loads, stores and atomics, and places at peers and in control space. -/

/-- The lane addresses k3 + v4 of a vector access, and its check. -/
def laneVas (s : State) (size : Nat) : List (Nat × Nat) := laneAddrs s.g (activeMask s.g 0) 3 0 true size
def laneAt (s : State) (kind size : Nat) : Checked := checkAccess s s.g ⟨kind, size, size, false, true⟩ (laneVas s size)

/-- A flight of thread 1 still to read eight bytes at an address. -/
def reading (pa : Nat) : Flight :=
  ⟨9, 1, 0, .scalar 6, false, false, [], [⟨0, .hbm pa, 8, .fill, 0, false, pa⟩], [], 1, 0, false, false⟩

theorem met_VectorLoads_waits : let o : M := ⟨5, 3, 0, 0, true, 0, true⟩
    (∀ i ∈ ([.vldD o, .vldW o, .vldH o, .vldB o, .vstD o, .vstW o, .vstH o, .vstB o] : List Instr), Admitted (A 0x50000) i) ∧
    (∃ u, laneAt (A 0x50000) 0 8 = .wait u) ∧ (∃ u, laneAt (A 0x50000) 1 8 = .wait u) ∧
    (∃ r, laneAt (A 0x10004) 0 8 = .trap r) ∧ (∃ r, laneAt (A 0x10004) 1 8 = .trap r) ∧ badPolicy 0 (laneVas (A 0x50000) 8) = false ∧
    (let s := { A 0x1FF00 with flights := [reading 0x1FFF8] }
     laneAt s 0 8 = .ok doubles ∧ stillOpen s s.g.tid 8 doubles = true ∧ storeWaits s .normal 8 doubles = true) ∧
    (let s := { A 0x1FF00 with flights := List.replicate 128 { reading 0x10000 with tid := 2 } }
     laneAt s 0 8 = .ok doubles ∧ stillOpen s s.g.tid 8 doubles = false ∧ queueRoom s s.g.core = false ∧ storeWaits s .normal 8 doubles = true) :=
  ⟨fun i h => A_admits _ ((by decide +kernel : ∀ i ∈ _, simple T i = true) i h), waits_is (by decide +kernel), waits_is (by decide +kernel),
   traps_is (by decide +kernel), traps_is (by decide +kernel), by decide +kernel, ⟨allows_ok (by decide +kernel), by decide +kernel⟩,
   allows_ok (by decide +kernel), by decide +kernel⟩

theorem met_VectorLoads_policy : let s := A 0x1FFFFFFF0000000
    (∀ i ∈ ([.vldD ⟨5, 3, 0, 0, true, 1, true⟩, .vstB ⟨5, 3, 0, 0, true, 2, true⟩] : List Instr), Admitted s i) ∧
    badPolicy 1 (laneVas s 8) = true ∧ badPolicy 2 (laneVas s 1) = true :=
  ⟨fun i h => A_admits _ ((by decide +kernel : ∀ i ∈ _, simple T i = true) i h), by decide +kernel⟩

theorem met_VectorLoads_peer : let s := A 0x2FF00
    let l := (List.range 32).map fun n => (n, 0x2FF00 + 8 * n, Loc.peer 5 (0x2FF00 + 8 * n))
    laneAt s 0 8 = .ok l ∧ l ≠ [] ∧ stillOpen s 1 8 l = false ∧ queueRoom s 0 = true ∧ rdcMissRoom s 0 = true ∧ laneAt s 1 8 = .ok l ∧
    storeWaits s .normal 8 l = false := ⟨allows_ok (by decide +kernel), by decide +kernel, by decide +kernel, by decide +kernel, by decide +kernel,
      allows_ok (by decide +kernel), by decide +kernel⟩

/-- No lane of `T` takes part. -/
def idle (fl : List Flight) : State := { A 0x1FFF8 with g := { at3 0 0x1FFF8 with M := 0 }, flights := fl }

theorem met_ScalarLoads_idle : (∀ fl ∈ [[], [reading 0x10000]], (∀ i ∈ ([.vldAcq 5 3 4, .vstRel 5 3 4] : List Instr), Admitted (idle fl) i) ∧
      checkAccess (idle fl) (idle fl).g ⟨0, 8, 8, false, true⟩ (formAddrs (idle fl).g 3 4) = .ok [] ∧
      checkAccess (idle fl) (idle fl).g ⟨1, 8, 8, false, true⟩ (formAddrs (idle fl).g 3 4) = .ok []) ∧
    quiet (idle []) (idle []).g.tid = true ∧ quiet (idle [reading 0x10000]) 1 = false :=
  ⟨fun fl h => by
    simp only [List.mem_cons, List.not_mem_nil, or_false] at h
    rcases h with rfl | rfl <;> exact ⟨admits_all (by decide +kernel), allows_ok (by decide +kernel), allows_ok (by decide +kernel)⟩,
   by decide +kernel⟩

theorem met_ScalarLoads_waits : let at' (s : State) (kind size : Nat) := checkAccess s s.g ⟨kind, size, size, false, false⟩ [(0, (readK s.g 3).toNat)]
    (∀ i ∈ ([.ldkD ⟨5, 3, 0⟩, .ldkW ⟨5, 3, 0⟩, .ldkAcq 5 3, .stkD ⟨5, 3, 0⟩, .stkW ⟨5, 3, 0⟩, .stkRel 3 4, .atomkAdd 5 3 4, .lock 3, .unlock 3,
      .waitm 5 3 4] : List Instr), Admitted (A 0x50000) i ∧ Admitted (A 0x10002) i ∧ Admitted (A 0x1FFF8) i) ∧
    (∀ kind ∈ [0, 1, 2], ∀ size ∈ [4, 8], waits (at' (A 0x50000) kind size) = true ∧ traps (at' (A 0x10002) kind size) = true) ∧
    (let s := { A 0x1FFF8 with flights := [reading 0x1FFF8] }
     let l := [(0, 0x1FFF8, Loc.hbm 0x1FFF8)]
     at' s 0 8 = .ok l ∧ stillOpen s s.g.tid 8 l = true ∧ readsDone s 1 = false ∧ storeWaits s .normal 8 l = true ∧ at' s 2 8 = .ok l ∧
       released s 0 = true) :=
  ⟨fun i h => ⟨A_admits _ ((by decide +kernel : ∀ i ∈ _, simple T i = true) i h), A_admits _ ((by decide +kernel : ∀ i ∈ _, simple T i = true) i h),
     A_admits _ ((by decide +kernel : ∀ i ∈ _, simple T i = true) i h)⟩, by decide +kernel, allows_ok (by decide +kernel), by decide +kernel,
   by decide +kernel, by decide +kernel, allows_ok (by decide +kernel), by decide +kernel⟩

theorem met_ScalarLoads_peer_room : rdcMissRoom (A 0x2FFF8) 0 = true ∧ stillOpen (A 0x2FFF8) 1 8 [(0, 0x2FFF8, .peer 5 0x2FFF8)] = false := by decide +kernel

theorem met_StoresWrite_release : let s := { A 0x1FF00 with pending := [{ core := 0, word := 4, atHome := false }] }
    (∀ i ∈ ([.stkRel 3 4, .vstRel 5 3 4] : List Instr), Admitted s i) ∧ released s s.g.core = false ∧ released (A 0x1FF00) 0 = true ∧
    readsDone (A 0x1FF00) 1 = true ∧ storeWaits (A 0x1FF00) .normal 8 [(0, 0x1FF00, .hbm 0x1FF00)] = false ∧
    storeWaits (A 0x1FF00) .normal 8 doubles = false :=
  ⟨admits_all (by decide +kernel), by decide +kernel⟩

/-- Lane n stores one byte at n, in a scratchpad; two lanes at one byte. -/
theorem met_StoresWrite_spad_lanes : let s := A 0x1FFE0
    let l := (List.range 32).map fun n => (n, 0x1FFE0 + n, Loc.spad 1 (0x1FFE0 + n))
    windowOf s s.g.tid = none ∧ storeWaits s .normal 1 l = false ∧
    (l.all fun x => match x.2.2 with
      | .spad b _ => s.blocks.any (fun k => k.id == b)
      | _ => false) = true ∧ (31, 0x1FFFF, Loc.spad 1 0x1FFFF) ∈ l := by decide +kernel

theorem met_StoresWrite_home : let s := A 0x1FF00
    Admitted s (.vstD ⟨5, 3, 0, 0, true, 1, true⟩) ∧ windowOf s s.g.tid = none ∧ badPolicy 1 (laneVas s 8) = false ∧ laneAt s 1 8 = .ok doubles ∧
    doubles ≠ [] ∧ storeWaits s .bypass 8 doubles = false :=
  ⟨A_admits _ (by decide +kernel), by decide +kernel, by decide +kernel, allows_ok (by decide +kernel), by decide +kernel⟩

/-- A page of control space at 0x30000, whose first register is the notify register of queue 4095. -/
def csrPage : State :=
  { A 0x30000 with tlb := [⟨1, 0x30000, 0x10000, true, true, true, false, csrBase + 8 * csrNotify 4095 / 0x10000 * 0x10000, 0, 128⟩]
                   g := { at3 0 (0x30000 + 8 * csrNotify 4095 % 0x10000) with priv := true } }

theorem met_StoresWrite_posted : let s := A 0x2FFF8
    (∀ i ∈ ([.stkD ⟨5, 3, 0⟩, .stkW ⟨5, 3, 0⟩] : List Instr), Admitted s i) ∧ windowOf s s.g.tid = none ∧
    checkAccess s s.g ⟨1, 8, 8, false, false⟩ [(0, (readK s.g 3 + immS s.g 0).toNat)] = .ok [(0, 0x2FFF8, .peer 5 0x2FFF8)] ∧
    checkAccess s s.g ⟨1, 4, 4, false, false⟩ [(0, (readK s.g 3 + immS s.g 0).toNat)] = .ok [(0, 0x2FFF8, .peer 5 0x2FFF8)] ∧
    storeWaits s .normal 8 [(0, 0x2FFF8, .peer 5 0x2FFF8)] = false ∧ unreachable s 5 = 0 ∧ 0x2FFF8 % 8 = 0 ∧
    (∀ i ∈ ([.stkD ⟨5, 3, 0⟩] : List Instr), Admitted csrPage i) ∧
    checkAccess csrPage csrPage.g ⟨1, 8, 8, false, false⟩ [(0, (readK csrPage.g 3 + immS csrPage.g 0).toNat)] =
      .ok [(0, (readK csrPage.g 3).toNat, .csr (csrNotify 4095) 0)] ∧
    storeWaits csrPage .normal 8 [(0, (readK csrPage.g 3).toNat, .csr (csrNotify 4095) 0)] = false :=
  ⟨fun i h => A_admits _ ((by decide +kernel : ∀ i ∈ _, simple T i = true) i h), by decide +kernel, allows_ok (by decide +kernel),
   allows_ok (by decide +kernel), by decide +kernel, by decide +kernel, by decide +kernel, admits_all (by decide +kernel), allows_ok (by decide +kernel),
   by decide +kernel⟩

theorem met_Atomics_waits : let at' (s : State) := checkAccess s s.g ⟨2, 8, 8, false, true⟩ ((lanesOf s.g (activeMask s.g 0)).map fun n => (n, (readV s.g 3 n).toNat))
    (∀ i ∈ ([.vatomAddI64 ⟨5, 3, 4, 0, true, true⟩] : List Instr), Admitted (V 0x50000 8) i ∧ Admitted (V 0x10004 8) i) ∧
    (∃ u, at' (V 0x50000 8) = .wait u) ∧ (∃ r, at' (V 0x10004 8) = .trap r) ∧
    (let s := { V 0x1FF00 8 with flights := [reading 0x10000] }
     at' s = .ok doubles ∧ stillOpen s s.g.tid 8 doubles = false ∧ readsDone s 1 = false) ∧
    (let s := V 0x2FF00 8
     let l := (List.range 32).map fun n => (n, 0x2FF00 + 8 * n, Loc.peer 5 (0x2FF00 + 8 * n))
     at' s = .ok l ∧ stillOpen s 1 8 l = false ∧ readsDone s 1 = true ∧ queueRoom s 0 = true) ∧
    (let s := { V 0x1FF00 8 with g := { (V 0x1FF00 8).g with M := 0 } }
     (∀ i ∈ ([.vatomAddI64 ⟨5, 3, 4, 0, true, true⟩] : List Instr), Admitted s i) ∧ at' s = .ok []) :=
  ⟨fun i h => ⟨V_admits _ _ ((by decide +kernel : ∀ i ∈ _, simple T i = true) i h), V_admits _ _ ((by decide +kernel : ∀ i ∈ _, simple T i = true) i h)⟩,
   waits_is (by decide +kernel), traps_is (by decide +kernel), ⟨allows_ok (by decide +kernel), by decide +kernel⟩,
   ⟨allows_ok (by decide +kernel), by decide +kernel⟩, admits_all (by decide +kernel), allows_ok (by decide +kernel)⟩

theorem met_Atomics_scalar : let s := A 0x1FFF8
    (∀ i ∈ ([.atomkAdd 5 3 4, .atomkXchg 5 3 4, .cask 5 3 4, .atomkFadd 5 3 4] : List Instr), Admitted s i) ∧
    checkAccess s s.g ⟨2, 8, 8, false, false⟩ [(0, (readK s.g 3).toNat)] = .ok [(0, 0x1FFF8, .hbm 0x1FFF8)] ∧
    stillOpen s 1 8 [(0, 0x1FFF8, .hbm 0x1FFF8)] = false ∧ readsDone s 1 = true ∧ queueRoom s 0 = true :=
  ⟨fun i h => A_admits _ ((by decide +kernel : ∀ i ∈ _, simple T i = true) i h), allows_ok (by decide +kernel), by decide +kernel⟩

/-! Held stores and prefetches in a window, cached vector stores, and numbers. -/

/-- A store of the last word of the page, held by a window of thread 1. -/
def heldStore : Recorded :=
  ⟨.stkD ⟨5, 3, 0⟩, [], 0x10040, 0x10040, T.k, 0, 0, false, some ⟨.normal, 8, [(noLane, 0x1FFF8, .hbm 0x1FFF8, 7)]⟩⟩
def overStore : State := { A 0x1FF00 with windows := [{ win 0xFFFFFFFF with buffer := [heldStore] }] }

theorem met_VectorLoads_held : Ready overStore [.vldD ⟨5, 3, 0, 0, true, 0, true⟩] ∧ laneAt overStore 0 8 = .ok doubles ∧ doubles ≠ [] ∧
    overHeld overStore overStore.g.tid 8 doubles = true ∧ overHeld (A 0x1FF00) 1 8 doubles = false ∧
    (let s := { overStore with g := at3 0 0x1FFF8 }
     let l := [(0, 0x1FFF8, Loc.hbm 0x1FFF8)]
     Ready s [.ldkD ⟨5, 3, 0⟩] ∧ checkAccess s s.g ⟨0, 8, 8, false, false⟩ [(0, (readK s.g 3).toNat)] = .ok l ∧ overHeld s s.g.tid 8 l = true ∧
       overHeld s s.g.tid 4 [(0, 0x1FFF4, .hbm 0x1FFF4)] = false) :=
  ⟨ready (by decide +kernel) (by decide +kernel), allows_ok (by decide +kernel), by decide +kernel, by decide +kernel, by decide +kernel,
   ready (by decide +kernel) (by decide +kernel), allows_ok (by decide +kernel), by decide +kernel⟩

theorem met_VectorLoads_prefetch_window : let s := { oneLane 0x1FF80 with windows := [win 0xFFFFFFFF], sections := [⟨0, 0, 0x1FF80, 0x1FFFF, 5, 0, 0, true, false, false, 3, true, 9, 1, 1⟩] }
    Ready s [.pref ⟨3, 0, 1, true, 0, true⟩] ∧ (∃ w, windowOf s s.g.tid = some w ∧ w.resolved = none) ∧
    ((lanesOf s.g (activeMask s.g 1)).map (prefAddr s.g ⟨3, 0, 1, true, 0, true⟩)) = [0x1FF80] ∧ leads s 0x1FF80 ≠ .miss ∧
    (s.sections.any fun e => meets s.g e 0x1FF80 1) = true ∧ missRoom (oneLane 0x1FF80) 0 (0x1FF80 / 128) = true ∧
    remoteLine 0 (0x1FF80 / 128) = false ∧ missRoom remote 0 ((2 ^ 37 + 128) / 128) = true :=
  ⟨ready (by decide +kernel) (by decide +kernel), ⟨win 0xFFFFFFFF, by decide +kernel⟩, by decide +kernel, missing_not (by decide +kernel), by decide +kernel⟩

theorem met_StoresWrite_cached : (∀ x ∈ ([(0, .normal), (2, .stream)] : List (Fin 4 × Policy)),
      Ready (A 0x1FF00) [.vstD ⟨5, 3, 0, 0, true, x.1, true⟩] ∧ x.1 ≠ 1 ∧ badPolicy x.1 (laneVas (A 0x1FF00) 8) = false ∧
      (if x.1 = 2 then Policy.stream else .normal) = x.2 ∧ storeWaits (A 0x1FF00) x.2 8 doubles = false) ∧
    windowOf (A 0x1FF00) (A 0x1FF00).g.tid = none ∧ laneAt (A 0x1FF00) 1 8 = .ok doubles ∧
    (doubles.all fun x => match x.2.2 with
      | .hbm pa => pa % 8 == 0 && decide (pa < 2 ^ 52)
      | _ => false) = true :=
  ⟨fun x h => by
    simp only [List.mem_cons, List.not_mem_nil, or_false] at h
    rcases h with rfl | rfl <;> exact ⟨ready (by decide +kernel) (by decide +kernel), by decide +kernel⟩,
   by decide +kernel, allows_ok (by decide +kernel), by decide +kernel⟩

theorem met_Atomics_folds : (4 = 4 ∨ 4 = 8) ∧ (8 = 4 ∨ 8 = 8) ∧ AtomOp.and ≠ .addF ∧ AtomOp.and ≠ .addD ∧ (AtomOp.addF = .addF ∨ AtomOp.addF = .addD) := by decide

/-- The least and the greatest numbers, NaNs, and the modes. -/
theorem met_FloatRounding : (∀ f ∈ [fmtD, fmtF, fmtH, fmtB, fmtF12], 2 ^ f.ebits - 1 < 2 ^ f.ebits ∧ 2 ^ f.fbits - 1 < 2 ^ f.fbits ∧ 0 < 2 ^ f.ebits - 2) ∧
    (-1 : Int) < 0 ∧ (4 : Nat) ≤ 4 ∧ isNan (.nan true) = true ∧ isNan (.inf false) = false ∧
    (compareReal (.fin true 0 0) (.fin false 0 0) = 0 ∧ signOf (.fin true 0 0) = true ∧ signOf (.fin false 0 0) = false) ∧
    compareReal (.inf true) (.fin true 1 1000) < 0 ∧ 0 < compareReal (.fin false 1 (-1)) (.fin true 1 5) ∧
    (let big := (2 ^ 24 - 1 : Nat)
     let x := (roundAt 0 false (2 * big + 1) 103 104).1 * 2 ^ (104 - fmtQmin fmtF).toNat
     2 ^ (fmtF.fbits + 2 ^ fmtF.ebits - 2) ≤ x) ∧
    (roundAt 0 false 1 (-149) (-149)).1 < 2 ^ (fmtF.fbits + 2 ^ fmtF.ebits - 2) ∧ (-149 : Int) ≤ 127 ∧ 2 ^ 20 - 1 < 2 ^ 20 := by decide +kernel

theorem test_addF_overflow : addReal fmtF 0 (unpack fmtF 0x7F7FFFFF) (unpack fmtF 0x7F7FFFFF) = (0x7F800000, flagOF ||| flagNX) := by decide +kernel
theorem test_mulF_underflow : mulReal fmtF 0 (unpack fmtF 0x00800001) (unpack fmtF 0x3F000000) = (0x00400000, flagUF ||| flagNX) := by decide +kernel
theorem met_LocksRecords_locks : (∀ i ∈ ([.lock 3, .unlock 3, .waitm 5 3 4] : List Instr), Admitted (A 0x1FFF8) i) ∧
    OperandsThere (A 0x1FFF8) { srcs := [.k 3 false] } ∧ OperandsThere (A 0x1FFF8) { srcs := [.k 3 false, .k 4 false], dstK := [5] } ∧
    checkAccess (A 0x1FFF8) (A 0x1FFF8).g ⟨2, 8, 8, false, false⟩ [(0, (readK (A 0x1FFF8).g 3).toNat)] = .ok [(0, 0x1FFF8, .hbm 0x1FFF8)] ∧
    checkAccess (A 0x1FFF8) (A 0x1FFF8).g ⟨0, 8, 8, false, false⟩ [(0, (readK (A 0x1FFF8).g 3).toNat)] = .ok [(0, 0x1FFF8, .hbm 0x1FFF8)] ∧
    queueRoom (A 0x1FFF8) 0 = true ∧ released (A 0x1FFF8) 0 = true ∧ quiet (A 0x1FFF8) 1 = true ∧ notYetHome (A 0x1FFF8) 0 (.hbm 0x1FFF8) 8 = false ∧
    homeRead (A 0x1FFF8) 0x1FFF8 8 = (readK (A 0x1FFF8).g 4).toNat ∧ monitorsOf (A 0x1FFF8) 0 < 64 :=
  ⟨fun i h => A_admits _ ((by decide +kernel : ∀ i ∈ _, simple T i = true) i h), A_operands _ _, A_operands _ _, allows_ok (by decide +kernel), allows_ok (by decide +kernel), by decide +kernel⟩

theorem met_LocksRecords_differs : Admitted (D 0 [(3, 0x1FFF8), (4, 1)]) (.waitm 5 3 4) ∧
    homeRead (D 0 [(3, 0x1FFF8), (4, 1)]) 0x1FFF8 8 ≠ (readK (D 0 [(3, 0x1FFF8), (4, 1)]).g 4).toNat :=
  ⟨D_admits _ (by decide +kernel), by decide +kernel⟩

theorem met_LocksRecords_records : (∀ i ∈ ([.xpect 3 4, .waitc 3 4, .arst 3] : List Instr), Admitted (D 0 [(3, 3), (4, 2 ^ 40 - 1)]) i) ∧
    (let s := D 0 [(3, 3), (4, 2 ^ 40 - 1)]
     (readK s.g 3).toNat < 64 ∧ (readK s.g 4).toNat < 2 ^ 40 ∧ hasRecord s s.g.block 3 = true ∧ s.blocks.any (fun k => k.id == s.g.block) = true ∧
       recBusy s s.g 3 = false ∧ readK s.g 4 ≠ 0 ∧ (recordAt s s.g.block 3).chunks &&& readK s.g 4 ≠ readK s.g 4) ∧
    (let s := A 3
     readK s.g 4 = 0 ∧ (recordAt s s.g.block 3).posted = false) ∧
    (let s := { A 3 with blocks := [{ id := 1, recn := 4, recs := [(3, { posted := true, exp := 5, rcv := 5 })] }] }
     readK s.g 4 = 0 ∧ (recordAt s s.g.block 3).posted = true ∧ (recordAt s s.g.block 3).exp = (recordAt s s.g.block 3).rcv) :=
  ⟨fun i h => D_admits _ ((by decide +kernel : ∀ i ∈ _, simple { T with core := 0 } i = true) i h), by decide +kernel⟩

theorem met_LockMessages : let s := { W with lockMsgs := [.request 7 1, .unlock 7 1 {}, .grant 7 1, .withdraw 8 1, .notice 1 (lockSlice 9)]
                                             locks := [(9, { holder := 2 }), (10, { holder := 2, entry := true })]
                                             g := { T with wait := .lock 7 0x38 } }
    .request 7 1 ∈ s.lockMsgs ∧ entriesOf s (lockSlice 7) < 256 ∧ (lockOf s 7).holder = 0 ∧ .grant 7 1 ∈ s.lockMsgs ∧ s.g.live = true ∧ s.g.tid = 1 ∧
    s.g.wait = .lock 7 0x38 ∧ quiet s 1 = true ∧ .withdraw 8 1 ∈ s.lockMsgs ∧ .request 8 1 ∉ s.lockMsgs ∧ (lockOf s 8).holder ≠ 2 ∧
    .notice 1 (lockSlice 9) ∈ s.lockMsgs := by decide +kernel

theorem met_LockMessages_held : let s := { W with lockMsgs := [.request 9 2, .unlock 9 1 {}, .notice 1 (lockSlice 9)], locks := [(9, { holder := 2, entry := true, waiters := [4] })] }
    .request 9 2 ∈ s.lockMsgs ∧ (lockOf s 9).entry = true ∧ (lockOf s 9).holder ≠ 0 ∧ s.lockMsgs.findSome? (unlockMsg 9 1) = some {} ∧ (lockOf s 9).holder = 2 ∧
    (lockOf s 9).waiters = [4] := by decide +kernel

theorem met_LockMessages_notice : let s := { W with lockMsgs := [.notice 1 (lockSlice 9)], locks := [(9, { holder := 2, entry := true })] }
    heldAt s 1 (lockSlice 9) = [9] ∧ (lockOf s 9).waiters = [] := by decide +kernel

theorem met_LockMessages_monitor : let m : Monitor := ⟨1, 0, .hbm 0x10000, 5, 0, true, true, 0x10000⟩
    let s := { W with monitors := [m] }
    s.monitors.find? (fun x => x.tid == m.tid) = some m ∧ m.loc = .hbm 0x10000 ∧ m.woken = true ∧ s.g.live = true ∧ s.g.tid = m.tid ∧ m.d < 64 := by decide +kernel

/-- A box of 16 words of 4 bytes in k8 to k19, its origin in k20 to k22. -/
def boxed : State := D 0 [(8, 0x10000), (9, 0x101), (10, 16), (17, 0x1000100010010), (18, 1)]

theorem met_EngineIssue_boxes : (∀ i ∈ ([.cpyT 5 8 20, .cpyTs 5 8 20] : List Instr), Admitted boxed i) ∧
    (let box := readRegs boxed.g 8 12 ++ readRegs boxed.g 20 3
     layoutFlaws boxed box = [] ∧ (∀ p ∈ boxPlaces boxed box, p = none) ∧ boxPlaces boxed box ≠ [] ∧ copyRoom boxed 0 = true ∧
       sectionRoom boxed 0 (rangesOf (makeOp boxed.g .cpyT 5 box) 0).length = true ∧ sectionRoom boxed 0 (rangesOf (makeOp boxed.g .cpyTs 5 box) 0).length = true) :=
  ⟨fun i h => D_admits _ ((by decide +kernel : ∀ i ∈ _, simple { T with core := 0 } i = true) i h), by decide +kernel⟩

theorem met_EngineIssue_linear : let s := D 0 [(8, 0x10000), (9, 0x10080), (10, 2 ^ 32 + 128), (11, 2 ^ 16)]
    let t := D 0 [(60, 0x10000), (61, 0x10080), (62, 32)]
    Admitted s (.cpyRed 5 8) ∧ redFlaws s (readRegs s.g 8 4) = [] ∧ sectionRoom s 0 (rangesOf (makeOp s.g .cpyRed 5 (readRegs s.g 8 4)) 0).length = true ∧
    apRange s s.g 0x10080 128 4 = none ∧ Admitted t (.cpyRem 5 60) ∧ remFlaws t (readRegs t.g 60 3) = [] ∧
    sectionRoom t 0 (rangesOf (makeOp t.g .cpyRem 5 (readRegs t.g 60 3)) 0).length = true ∧ apRange t t.g 0x10000 32 16 = none :=
  ⟨D_admits _ (by decide +kernel), by decide +kernel, by decide +kernel, by decide +kernel, D_admits _ (by decide +kernel), by decide +kernel⟩

theorem met_EngineIssue_quantise : let s := D 0 [(8, 0x10000), (9, 0x10100), (11, 64 + 0x04 * 2 ^ 32 + 0x10 * 2 ^ 40)]
    let t := D 0 [(8, 0x10000), (9, 0x10100), (11, 64 + 0x10 * 2 ^ 32 + 0x04 * 2 ^ 40)]
    let u := D 0 [(8, 0x10000), (9, 0x10100), (10, 0x10200), (11, 64 + 2 ^ 8 + 0x04 * 2 ^ 24)]
    Admitted s (.qntEnc 5 8) ∧ Admitted t (.qntDec 5 8) ∧ Admitted u (.gath 5 8) ∧ qntFlaws true (readRegs s.g 8 4) = [] ∧ qntFlaws false (readRegs t.g 8 4) = [] ∧
    gathFlaws (readRegs u.g 8 4) 0 = [] ∧ quantRoom s 0 = true ∧ quantRoom t 0 = true ∧ quantRoom u 0 = true ∧
    (∀ p ∈ (rangesOf (makeOp s.g .qntEnc 5 (readRegs s.g 8 4)) 0).map fun r => apRange s s.g r.2.1 (r.2.2 - r.2.1 + 1) 1, p = none) ∧
    sectionRoom s 0 (rangesOf (makeOp s.g .qntEnc 5 (readRegs s.g 8 4)) 0).length = true :=
  ⟨D_admits _ (by decide +kernel), D_admits _ (by decide +kernel), D_admits _ (by decide +kernel), by decide +kernel⟩

theorem met_EngineIssue_lanes : let s := V 0x1F000 0
    let lanes := (lanesOf s.g (activeMask s.g 0)).map fun i => (i, (readV s.g 3 i).toNat)
    Admitted s (.cpyL ⟨5, 3, 3, 0, true, 2⟩) ∧ bits (readK s.g 3) 31 28 = 0 ∧ bits (readK s.g 3) 63 40 = 0 ∧ recordOk s 1 false 0 = true ∧
    laneCopyFault s s.g 16 (lanes.map fun x => (x.1, x.2, bits (readK s.g 3) 27 0 + 16 * x.1)) = none ∧ copyRoom s 0 = true ∧ sectionRoom s 0 1 = true :=
  ⟨V_admits _ _ (by decide +kernel), by decide +kernel⟩

/-- The thread of the matrix control core of cluster 0, with a panel descriptor in k8 and k9 and a tile store's in k10 and k11. -/
def mcc : State := D 96 [(8, 16 * 2 ^ 32 + 0x04 * 2 ^ 48), (9, 64 + 8 * 2 ^ 8), (10, 0x10000), (11, 2 + 64 * 2 ^ 8 + 256 * 2 ^ 16 + 0x02 * 2 ^ 32)]

theorem met_MatrixIssue : (∀ i ∈ ([.mma 15 1 1, .mmaC 0 15 1, .mmaS 0 1, .mzero 15, .mwait 3 3, .mlda 1 8, .mldb 0 8, .mst 5 15 10, .gcsr 5 3 4, .mfence, .mprog 5 0,
      .mprog 5 1, .mprog 5 2, .mprog 5 3] : List Instr), Admitted mcc i) ∧ matrixRoom mcc (cluOfCore 96) = true ∧ hasRecord mcc 1 3 = true ∧
    (let d := readRegs mcc.g 8 2
     panelFlaws d = [] ∧ (∀ p ∈ panelPlaces mcc mcc.g d, p = none) ∧ sectionRoom mcc 96 (rangesOf (makeOp mcc.g .panel 0 d) 0).length = true) ∧
    (let d := readRegs mcc.g 10 2
     mstFlaws d = [] ∧ sectionRoom mcc 96 (rangesOf { makeOp mcc.g .mst 5 d with tile := 15 } 0).length = true ∧
       ∀ m, m < bits (word d 1) 6 0 → apRange mcc mcc.g (bits (word d 0) 56 0 + m * bits (word d 1) 31 16)
         (bits (word d 1) 14 8 * elemSize (bits (word d 1) 39 32)) (elemSize (bits (word d 1) 39 32)) = none) ∧
    (∀ m ∈ mcc.matrix, ∀ e ∈ m.2.queue, e.tid ≠ mcc.g.tid) :=
  ⟨fun i h => D_admits _ ((by decide +kernel : ∀ i ∈ _, simple { T with core := 96 } i = true) i h), by decide +kernel⟩

theorem met_MatrixIssue_gcsr : let s := D 0 [(3, 8), (4, 1)]
    Admitted s (.gcsr 5 3 4) ∧ (readK s.g 3).toNat = 8 ∧ (readK s.g 4).getLsbD 0 = true ∧ sparseRuns s 0 = false ∧ (readK (A 5).g 3).toNat < 6 :=
  ⟨D_admits _ (by decide +kernel), by decide +kernel⟩

theorem met_MatrixWork_start : let e : MEntry := ⟨9, .mma 2 0 0, 1, false, false, 0⟩
    let x : MEntry := ⟨8, .mzero 1, 1, true, false, 0⟩
    let p : Panel := { rows := 64, k := 1, fmt := 4 }
    let s := { W with matrix := [(0, { queue := [x, e], a0 := p, b0 := p })] }
    let t := { W with matrix := [(0, { queue := [x, e] })] }
    (matrixOf s 0).queue = [x] ++ e :: [] ∧ gangHere s 1 = true ∧ s.bad = [] ∧ conflicts x.cmd e.cmd = false ∧ mismatch (matrixOf s 0) e.cmd = false ∧
    mismatch (matrixOf t 0) e.cmd = true ∧ conflicts (.mzero 2) e.cmd = true ∧ t.ended = [] := by decide +kernel

theorem met_MatrixWork_complete : let e : MEntry := ⟨9, .mma 2 0 0, 1, true, false, 0⟩
    let p : Panel := { rows := 64, k := 1, fmt := 4 }
    let s := { W with matrix := [(0, { queue := [e, ⟨10, .mzero 15, 1, true, false, 0⟩], a0 := p, b0 := p })] }
    (matrixOf s 0).queue.find? (fun x => x.id == e.id && x.running) = some e ∧ gangHere s 1 = true ∧ (thread? s 1).map Group.wait = some .none ∧
    (panelOf (matrixOf s 0) false 0).rows ≤ 64 ∧ (panelOf (matrixOf s 0) true 0).rows ≤ 64 ∧ s.g.live = true ∧ s.g.tid = 1 ∧ s.g.wait = .none ∧
    (matrixOf s 0).queue.find? (fun x => x.id == 10 && x.running) = some ⟨10, .mzero 15, 1, true, false, 0⟩ := by decide +kernel

theorem met_MarketInstructions : (∀ i ∈ ([.bid 3 0, .bid 3 4, .bidr 5 4, .price 5 4, .lease 5 4, .peerp 5 3 4] : List Instr), Admitted (A 5) i) ∧
    (let x := readK (A 5).g 3
     x.toNat % 2 ^ 32 ≠ 0xFFFFFFFF ∧ x.toNat / 2 ^ 32 % 2 ^ 16 ≤ unitsOf (A 5) 4 ∧ x.toNat / 2 ^ 48 % 2 ^ 16 ≤ x.toNat / 2 ^ 32 % 2 ^ 16 ∧ x.toNat < 2 ^ 12) ∧
    (let s := D 0 [(3, unitsOf (A 5) 4 * (2 ^ 32 + 2 ^ 48) + 0xFFFFFFFE)]
     let x := readK s.g 3
     x.toNat % 2 ^ 32 ≠ 0xFFFFFFFF ∧ x.toNat / 2 ^ 32 % 2 ^ 16 = unitsOf s 4 ∧ x.toNat / 2 ^ 48 % 2 ^ 16 = x.toNat / 2 ^ 32 % 2 ^ 16) :=
  ⟨fun i h => A_admits _ ((by decide +kernel : ∀ i ∈ _, simple T i = true) i h), by decide +kernel⟩

/-- An open sequence of the thread's context; k3 holds its SEQID and k4 a position word. -/
def sequence : Seq := { id := 2, seqid := 77, partner := 5, ctx := 1, isOpen := true, headerAcked := true, hwmv := true, hwm := 9, nextSerial := 1
                        records := [⟨0, 4, 1, 0, 5, 0, true, true, true, false, none⟩] }
def journal (w : Nat) : State := { D 0 [(3, 77), (4, w)] with seqs := [sequence] }
theorem journal_admits (w : Nat) {i : Instr} (hi : simple T i = true) : Admitted (journal w) i := by
  have a := D_admits (core := 0) [(3, 77), (4, w)] (i := i) (by rw [simple] at hi ⊢; exact hi)
  exact ⟨a.runs, a.form, a.priv, a.window⟩

theorem met_JournalInstructions : (∀ i ∈ ([.jnlX 5 3 6, .jmark 3 6, .jtrunc 3, .jstat 5 3 5, .emit 5 3 6] : List Instr), Admitted (journal (2 ^ 32 + 9)) i) ∧
    (let s := journal (2 ^ 32 + 9)
     let w := readK s.g (nextK 3)
     w.toNat < 2 ^ 48 ∧ kindOf w ≠ 0 ∧ kindOf w < 4 ∧ openSeq s (readK s.g 3) = some sequence ∧ seqOf s 2 = some sequence ∧ sequence.ctx = s.g.ctx ∧
       sequence.closing = false ∧ sequence.work = []) :=
  ⟨fun i h => journal_admits _ ((by decide +kernel : ∀ i ∈ _, simple T i = true) i h), by decide +kernel⟩

theorem met_JournalInstructions_emit : let q := sequence
    (readK (journal 9).g (nextK 3)).toNat ≤ q.hwm ∧ q.hwm < (readK (journal 10).g (nextK 3)).toNat ∧ (readK (journal (2 ^ 32 - 1)).g (nextK 3)).toNat < 2 ^ 32 ∧
    openSeq (journal 9) (readK (journal 9).g 3) = some q ∧ q.emits = [] ∧ q.fenced = false ∧ q.reassign = false ∧ q.headerAcked = true ∧
    (∀ r ∈ q.records, r.acked = true) ∧ q.hwmv = true := by decide +kernel

theorem met_ResultsLand : let f : Flight := ⟨9, 1, 0, .scalar 5, true, false, [(0, 7)], [], [], 1, 0, false, false⟩
    let g : Flight := ⟨8, 1, 0, .vector 5, false, false, [(0, 7), (32, 8)], [], [], 3, 0, false, false⟩
    let s := { W with flights := [f, g] }
    s.flights.find? (fun x => x.id == f.id) = some f ∧ f.rows.getLsbD 0 = true ∧ f.rows = BitVec.ofNat 16 (2 ^ 0) ∧ s.flights.find? (fun x => x.id == g.id) = some g ∧
    g.rows.getLsbD 1 = true ∧ g.rows ≠ BitVec.ofNat 16 (2 ^ 1) ∧ s.g.live = true ∧ s.g.tid = f.tid ∧ s.g.wait = .none ∧ f.dest = .scalar 5 := by decide +kernel

theorem met_ResultsLand_branch : let w : Window := { win 0xFFFFFFFF with saved := T }
    let s := { W with windows := [w] }
    windowOf s w.saved.tid = some w ∧ w.saved.qBusy.getLsbD 1 = false ∧ s.g.live = true ∧ s.g.tid = w.saved.tid := by decide +kernel

theorem met_Ownership : let s := { W with pending := [⟨0, 2 ^ 50 - 1, false, false⟩, ⟨1, 5, false, false⟩, ⟨2, 6, true, false⟩], owners := [(5, 1), (7, 1)], revoking := [(0, 5)], recalls := [(0, 7)]
                                          l1 := [(cacheKey 0 3, { valid := 0xFF })] }
    s.pending.any (fun p => p.core == 0 && p.word == 2 ^ 50 - 1 && !p.atHome) = true ∧ ownerOf s (2 ^ 50 - 1) = 0 ∧
    s.pending.any (fun p => p.core == 1 && p.word == 5 && !p.atHome) = true ∧ ownerOf s 5 ≠ 0 ∧ ownerOf s 5 ≠ 1 + 1 ∧
    s.pending.any (fun p => p.core == 2 && p.word == 6 && p.atHome) = true ∧ s.flagWrites = [] ∧ s.bad = [] ∧ (0, 5) ∈ s.revoking ∧ ownerOf s 5 = 0 + 1 ∧
    (0, 7) ∈ s.recalls ∧ ownerOf s 7 = 0 + 1 ∧ (l1Line s 0 3).valid ≠ 0 := by decide +kernel

/-- A tree whose leaf for 0x40000 is a 64 KiB page: the root is at 0x1000, and every level points to the next page. -/
def tree5 : State :=
  { W with walks := [⟨1, 0x40000, 0, 0, [1]⟩], csr := [(0, 0x4B321A020B ^^^ 2), (2, 0x1003), (csrRoot 1, 0x1000)]
           mem := writeN (writeN (writeN (writeN (writeN [] 0x1000 8 0x2001) 0x2000 8 0x3001) 0x3000 8 0x4001) 0x4000 8 0x5001) 0x5020 8 0x1001F }

theorem met_WalksAndRings_leaf : (walk tree5 1 0x40000).isSome = true ∧ memoryWf tree5.mem = true ∧
    tree5.walks.any (fun w => w.ctx == 1 && w.va == 0x40000 && w.code == 0) = true := by decide +kernel

def rem (pos : Nat) : EngOp := { id := 9, kind := .cpyRem, tid := 1, ctx := 1, block := 1, gang := 1, token := 5, desc := [0x10000, 0x1FFE0, 32], accepted := true, pos := pos, landed := 16 * pos }

theorem met_EngineTokens : let e := { rem 0 with accepted := false }
    let c := { rem 0 with cq := true }
    let q := { rem 0 with id := 10, kind := .qntEnc, cq := true }
    let s := { W with engines := [e] }
    let t := { W with engines := [c, q] }
    engineOf s 9 = some e ∧ e.accepted = false ∧ e.cq = false ∧ inCopyQueue e.kind = true ∧ (∀ x ∈ s.engines, x.id < e.id → x.accepted = true ∨ x.cq = true) ∧
    engineOf t 9 = some c ∧ c.cq = true ∧ engineOf t 10 = some q ∧ q.cq = true ∧ inQuantQueue q.kind = true := by decide +kernel

theorem met_EngineTokens_fill : let e := rem 2
    let s := { W with engines := [e] }
    engineOf s 9 = some e ∧ opRuns s e = true ∧ elemCount e ≤ e.pos ∧ e.inFlight = 0 ∧ e.token < 64 ∧ e.token ≠ 0 ∧ s.g.live = true ∧ s.g.tid = e.tid ∧ s.g.wait = .none := by
  decide +kernel

theorem met_EngineData : let e := rem 1
    let s := { W with engines := [e] }
    let src := bits (word e.desc 1) 56 0 + 16 * e.pos
    let dst := bits (word e.desc 0) 56 0 + 16 * e.pos
    engineOf s 9 = some e ∧ opRuns s e = true ∧ e.pos < elemCount e ∧ src % 16 = 0 ∧ dst % 16 = 0 ∧ inAperture src = false ∧ inAperture dst = false ∧
    translateNow s e.ctx src 4 = .ok (.hbm 0x1FFF0) ∧ translateNow s e.ctx dst 5 = .ok (.hbm 0x10010) ∧ underWindow s 0x10010 16 = false ∧ s.bad = [] := by decide +kernel

theorem met_EngineData_reduction : let e : EngOp := { id := 9, kind := .cpyRed, tid := 1, ctx := 1, block := 1, gang := 1, desc := [0x10000, 0x1FF80, 2 ^ 32 + 128, 2 * 2 ^ 16 + 1], accepted := true }
    let s := { W with engines := [e] }
    engineOf s 9 = some e ∧ opRuns s e = true ∧ e.pos < elemCount e ∧ translateNow s e.ctx 0x1FF80 4 = .ok (.hbm 0x1FF80) ∧ translateNow s e.ctx 0x10000 5 = .ok (.hbm 0x10000) ∧
    underWindow s 0x10000 128 = false ∧ s.bad = [] ∧ s.reds = [] ∧ bits (word e.desc 3) 15 0 < bits (word e.desc 3) 31 16 ∧
    (let r : Reduction := ⟨0x10000, 0x10000, 128, 1, 2, 0, 0, 0, 0, [], [], [], [], []⟩
     r.next = 0 ∧ r.held = [] ∧ r.n = 2) := by decide +kernel


/-! Waits, traps and ends of the statements about locks, records, engines, matrix commands, market and journal. -/

def laneCheckIs (c : Checked) (l : List (Nat × Nat × Loc)) : Bool := allows c l
def lockAt (s : State) : Checked := checkLanes s s.g ⟨2, 8, 8, false, false⟩ false [(0, (readK s.g 3).toNat)]
def doubleAt (s : State) : Checked := checkAccess s s.g ⟨0, 8, 8, false, false⟩ [(0, (readK s.g 3).toNat)]

theorem met_LocksRecords_lock : let full := { A 0x1FFF8 with flights := List.replicate 128 { reading 0x10000 with tid := 2 } }
    let unreleased := { A 0x1FFF8 with pending := [{ core := 0, word := 4, atHome := false }] }
    lockAt (A 0x1FFF8) = .ok [(0, 0x1FFF8, .hbm 0x1FFF8)] ∧ lockAt (A 0x20008) = .ok [(0, 0x20008, .peer 5 0x20008)] ∧
    (∃ u, lockAt (A 0x50000) = .wait u) ∧ (∃ r, lockAt (A 0x10004) = .trap r) ∧ readsDone (A 0x1FFF8) 1 = true ∧
    (∀ i ∈ ([.lock 3, .unlock 3, .waitm 5 3 4] : List Instr), Admitted (A 0x20008) i ∧ Admitted (A 0x50000) i ∧ Admitted (A 0x10004) i) ∧
    (∀ i ∈ ([.lock 3, .unlock 3, .waitm 5 3 4] : List Instr), Admitted full i) ∧ lockAt full = .ok [(0, 0x1FFF8, .hbm 0x1FFF8)] ∧
    queueRoom full full.g.core = false ∧ quiet full 1 = true ∧ (∀ i ∈ ([.unlock 3] : List Instr), Admitted unreleased i) ∧
    lockAt unreleased = .ok [(0, 0x1FFF8, .hbm 0x1FFF8)] ∧ released unreleased 0 = false :=
  ⟨allows_ok (by decide +kernel), allows_ok (by decide +kernel), waits_is (by decide +kernel), traps_is (by decide +kernel), by decide +kernel,
   fun i h => ⟨A_admits _ ((by decide +kernel : ∀ i ∈ _, simple T i = true) i h), A_admits _ ((by decide +kernel : ∀ i ∈ _, simple T i = true) i h),
     A_admits _ ((by decide +kernel : ∀ i ∈ _, simple T i = true) i h)⟩,
   admits_all (by decide +kernel), allows_ok (by decide +kernel), by decide +kernel, by decide +kernel, admits_all (by decide +kernel),
   allows_ok (by decide +kernel), by decide +kernel⟩

/-- Every monitor of core 0 is in use. -/
def watched : State := { A 0x1FFF8 with monitors := List.replicate 64 ⟨7, 0, .hbm 0x10000, 5, 0, true, false, 0x10000⟩ }

theorem met_LocksRecords_waitm : let spad := A 0x1FFFFFFF0000008
    let noisy := { A 0x1FFF8 with flights := [loading] }
    let peerFull := { A 0x20008 with monitors := watched.monitors }
    doubleAt spad = .ok [(0, 0x1FFFFFFF0000008, .spad 1 8)] ∧ doubleAt noisy = .ok [(0, 0x1FFF8, .hbm 0x1FFF8)] ∧ quiet noisy 1 = false ∧
    doubleAt watched = .ok [(0, 0x1FFF8, .hbm 0x1FFF8)] ∧ 64 ≤ monitorsOf watched 0 ∧ quiet watched 1 = true ∧ queueRoom watched 0 = true ∧
    homeRead watched 0x1FFF8 8 = (readK watched.g 4).toNat ∧ doubleAt (A 0x20008) = .ok [(0, 0x20008, .peer 5 0x20008)] ∧
    quiet (A 0x20008) 1 = true ∧ queueRoom (A 0x20008) 0 = true ∧ monitorsOf (A 0x20008) 0 < 64 ∧ 64 ≤ monitorsOf peerFull 0 ∧
    doubleAt csrPage = .ok [(0, (readK csrPage.g 3).toNat, .csr (csrNotify 4095) 0)] ∧ quiet csrPage 1 = true ∧
    (∀ i ∈ ([.waitm 5 3 4] : List Instr), Admitted spad i) ∧ (∀ i ∈ ([.waitm 5 3 4] : List Instr), Admitted noisy i) ∧
    (∀ i ∈ ([.waitm 5 3 4] : List Instr), Admitted watched i) ∧ (∀ i ∈ ([.waitm 5 3 4] : List Instr), Admitted csrPage i) :=
  ⟨allows_ok (by decide +kernel), allows_ok (by decide +kernel), by decide +kernel, allows_ok (by decide +kernel), by decide +kernel, by decide +kernel,
   by decide +kernel, by decide +kernel, allows_ok (by decide +kernel), by decide +kernel, by decide +kernel, by decide +kernel, by decide +kernel,
   allows_ok (by decide +kernel), by decide +kernel, admits_all (by decide +kernel), admits_all (by decide +kernel), admits_all (by decide +kernel),
   admits_all (by decide +kernel)⟩

theorem met_LocksRecords_illegal : let all : List Instr := [.xpect 3 4, .waitc 3 4, .arst 3]
    let busy := { A 3 with sections := [⟨0, 0, 0, 1, 5, 0, 0, true, false, false, 3, true, 9, 1, 1⟩], engines := [{ id := 9, recBlk := 1 }] }
    (∀ i ∈ all, Admitted (D 0 [(3, 64), (4, 2 ^ 40)]) i) ∧ 64 ≤ (readK (D 0 [(3, 64), (4, 2 ^ 40)]).g 3).toNat ∧
    2 ^ 40 ≤ (readK (D 0 [(3, 63), (4, 2 ^ 40)]).g 4).toNat ∧ (readK (D 0 [(3, 63), (4, 2 ^ 40)]).g 3).toNat < 64 ∧
    hasRecord (A 4) 1 4 = false ∧ hasRecord (A 3) 1 3 = true ∧ (∀ i ∈ all, Admitted (A 4) i) ∧ (∀ i ∈ all, Admitted busy i) ∧
    hasRecord busy 1 3 = true ∧ recBusy busy busy.g 3 = true :=
  ⟨fun i h => D_admits _ ((by decide +kernel : ∀ i ∈ _, simple { T with core := 0 } i = true) i h), by decide +kernel, by decide +kernel,
   by decide +kernel, by decide +kernel, by decide +kernel, fun i h => A_admits _ ((by decide +kernel : ∀ i ∈ _, simple T i = true) i h),
   admits_all (by decide +kernel), by decide +kernel⟩

theorem met_LocksRecords_memory : let fed (fl : List Flight) : State :=
      { D 0 [(3, 3), (4, 2)] with flights := fl, blocks := [{ id := 1, recn := 4, recs := [(3, { chunks := 3 })] }] }
    (∀ i ∈ ([.waitc 3 4] : List Instr), Admitted (fed []) i) ∧ (∀ i ∈ ([.waitc 3 4] : List Instr), Admitted (fed [loading]) i) ∧
    (let s := fed []
     readK s.g 4 ≠ 0 ∧ (recordAt s 1 3).chunks &&& readK s.g 4 = readK s.g 4 ∧ quiet s 1 = true ∧ hasRecord s 1 3 = true) ∧
    quiet (fed [loading]) 1 = false :=
  ⟨admits_all (by decide +kernel), admits_all (by decide +kernel), by decide +kernel⟩

/-- A descriptor that is sound, with a count out of its range, with a scratchpad range out of place, and with no room at its core. -/
def linear (l : List (Nat × Nat)) (fl : List Flight) (es : List EngOp) : State := { D 0 l with flights := fl, engines := es }

theorem met_EngineIssue_faults : let d (l : List (Nat × Nat)) := readRegs (D 0 l).g 60 3
    let flawed := D 0 [(60, 0x10001), (61, 0x10080), (62, 33)]
    let out := D 0 [(60, 0x10000), (61, 0x1FFFFFFF0000000 + 0x20000), (62, 32)]
    (∀ i ∈ ([.cpyRem 5 60] : List Instr), Admitted flawed i) ∧ (firstFlaw (remFlaws flawed (d [(60, 0x10001), (61, 0x10080), (62, 33)]))).isSome = true ∧
    (∀ i ∈ ([.cpyRem 5 60] : List Instr), Admitted out i) ∧ remFlaws out (readRegs out.g 60 3) = [] ∧
    (apRange out out.g 0x1FFFFFFF0020000 32 16).isSome = true ∧ apRange out out.g 0x10000 32 16 = none :=
  ⟨admits_all (by decide +kernel), by decide +kernel, admits_all (by decide +kernel), by decide +kernel⟩

theorem met_EngineIssue_waits : let l := [(60, 0x10000), (61, 0x10080), (62, 32 + 2 ^ 46 + 3 * 2 ^ 40)]
    let sound (s : State) : Bool := remFlaws s (readRegs s.g 60 3) == [] && (apRange s s.g 0x10000 32 16).isNone && (apRange s s.g 0x10080 32 16).isNone
    let a := linear l [] []
    let b := linear l [loading] []
    let c := linear l [] ((List.range 32).map fun n => { id := n + 10, kind := .cpyRem })
    let e := { linear l [] [] with sections := (List.range 63).map fun n => ⟨0, n, 0, 1, 5, 0, 0, true, false, false, 3, false, 9, 1, 1⟩ }
    (∀ s ∈ [a, b, c, e], sound s = true ∧ mayGo s [.cpyRem 5 60] = true) ∧ copyRoom a 0 = true ∧ sectionRoom a 0 2 = true ∧ readsDone a 1 = true ∧
    (word (readRegs a.g 60 3) 2).getLsbD 46 = true ∧ readsDone b 1 = false ∧ copyRoom c 0 = false ∧ sectionRoom e 0 2 = false := by
  decide +kernel

theorem met_EngineIssue_lane_faults : let o : ML := ⟨5, 3, 3, 0, true, 2⟩
    let at' (w va : Nat) : State := { V va 0 with g := { (V va 0).g with k := T.k.set 3 (BitVec.ofNat 64 w) } }
    let lanes (s : State) := (lanesOf s.g (activeMask s.g 0)).map fun i => (i, (readV s.g 3 i).toNat)
    let fault (s : State) := laneCopyFault s s.g 16 ((lanes s).map fun x => (x.1, x.2, bits (readK s.g 3) 27 0 + 16 * x.1))
    mayGo (at' (2 ^ 28) 0x1F000) [.cpyL o] = true ∧ bits (readK (at' (2 ^ 28) 0x1F000).g 3) 31 28 ≠ 0 ∧
    mayGo (at' (2 ^ 38 + 4 * 2 ^ 32) 0x1F000) [.cpyL o] = true ∧ recordOk (at' (2 ^ 38 + 4 * 2 ^ 32) 0x1F000) 1 true 4 = false ∧
    mayGo (at' 0 0x1F008) [.cpyL o] = true ∧ (fault (at' 0 0x1F008)).isSome = true ∧ recordOk (at' 0 0x1F008) 1 false 0 = true ∧
    (let s := { at' (2 ^ 38) 0x1F000 with flights := [loading] }
     mayGo s [.cpyL o] = true ∧ fault s = none ∧ readsDone s 1 = false ∧ recordOk s 1 true 0 = true) ∧
    (let s := at' (2 ^ 39 + 2 ^ 38) 0x1F000
     mayGo s [.cpyL o] = true ∧ fault s = none ∧ readsDone s 1 = true ∧ copyRoom s 0 = true ∧ sectionRoom s 0 1 = true ∧ bits (readK s.g 3) 63 40 = 0) := by
  decide +kernel

theorem met_MatrixIssue_waits : let full : State := { mcc with matrix := [(0, { queue := (List.range 64).map fun n => ⟨n + 10, .mzero 1, 1, false, false, 0⟩ })] }
    (∀ i ∈ ([.mma 15 1 1, .mmaC 0 15 1, .mmaS 0 1, .mzero 15, .mwait 3 3, .mlda 1 8, .mldb 0 8, .mst 5 15 10, .mfence] : List Instr), Admitted full i) ∧
    matrixRoom full 0 = false ∧ (∃ m ∈ full.matrix, ∃ e ∈ m.2.queue, e.tid = full.g.tid) ∧ hasRecord full 1 4 = false ∧ mayGo mcc [.mwait 3 4, .mwait 0 63] = true ∧
    panelFlaws (readRegs full.g 8 2) = [] ∧ mstFlaws (readRegs full.g 10 2) = [] ∧
    (let s := { mcc with flights := [loading] }
     mayGo s [.mlda 1 8, .mst 5 15 10] = true ∧ readsDone s 1 = false ∧ matrixRoom s 0 = true) ∧ readsDone mcc 1 = true :=
  ⟨admits_all (by decide +kernel), by decide +kernel⟩

theorem met_MatrixIssue_faults : let flawed := D 96 [(8, 16 * 2 ^ 32 + 0x05 * 2 ^ 48), (9, 64 + 8 * 2 ^ 8), (10, 0x10001), (11, 2 + 64 * 2 ^ 8 + 256 * 2 ^ 16 + 0x02 * 2 ^ 32)]
    let out := D 96 [(8, 0x20000 + 16 * 2 ^ 32 + 0x04 * 2 ^ 48), (9, 64 + 8 * 2 ^ 8), (10, 0x1FFFFFFF0020000), (11, 2 + 64 * 2 ^ 8 + 256 * 2 ^ 16 + 0x02 * 2 ^ 32)]
    mayGo flawed [.mlda 1 8, .mst 5 15 10] = true ∧ (firstFlaw (panelFlaws (readRegs flawed.g 8 2))).isSome = true ∧
    (firstFlaw (mstFlaws (readRegs flawed.g 10 2))).isSome = true ∧ mayGo out [.mlda 1 8, .mst 5 15 10] = true ∧
    panelFlaws (readRegs out.g 8 2) = [] ∧ mstFlaws (readRegs out.g 10 2) = [] ∧ (panelPlaces out out.g (readRegs out.g 8 2)).any Option.isSome = true ∧
    (apRange out out.g 0x1FFFFFFF0020000 256 4).isSome = true := by decide +kernel

theorem met_MatrixIssue_progress : let p : Panel := { rows := 64, k := 96, fmt := 4 }
    let e : MEntry := ⟨9, .mma 2 0 0, 1, true, false, 1⟩
    let m : MEntry := ⟨11, .mst 5 15 0 0 12, 1, true, false, 0⟩
    let s : State := { mcc with matrix := [(0, { queue := [⟨8, .mzero 4, 1, true, false, 0⟩, e, m], a0 := p, b0 := p })], engines := [{ id := 12, kind := .mst, landed := 64 }] }
    mayGo s [.mprog 5 0, .mprog 5 1, .mprog 5 2, .mprog 5 3] = true ∧ (matrixOf s 0).queue = [⟨8, .mzero 4, 1, true, false, 0⟩] ++ e :: [m] ∧
    (matrixOf s 0).queue = [⟨8, .mzero 4, 1, true, false, 0⟩, e] ++ m :: [] ∧ e.running = true ∧ (∃ k, stepsOf (matrixOf s 0) e.cmd = some k ∧ e.steps ≤ k) ∧
    stepsOf (matrixOf s 0) (.mzero 4) = none ∧ m.running = true ∧ engineOf s 12 = some { id := 12, kind := .mst, landed := 64 } ∧
    (matrixOf mcc 0).queue = [] :=
  ⟨by decide +kernel, by decide +kernel, by decide +kernel, rfl, ⟨_, rfl, by decide +kernel⟩, by decide +kernel, rfl, by decide +kernel, by decide +kernel⟩

theorem met_MatrixIssue_clear : let s : State := { D 0 [(3, 8), (4, 1)] with matrix := [(0, { queue := [⟨9, .mmaS 0 1, 7, true, false, 0⟩], gN := 4 })] }
    mayGo s [.gcsr 5 3 4, .gcsr 5 3 0] = true ∧ (readK s.g 3).toNat = 8 ∧ (readK s.g 4).getLsbD 0 = true ∧ sparseRuns s 0 = true ∧
    mayGo (A 6) [.gcsr 5 3 4] = true ∧ (readK (A 6).g 3).toNat = 6 := by decide +kernel

theorem met_MarketInstructions_traps : let s := D 0 [(3, (unitsOf W 4 + 1) * 2 ^ 32)]
    mayGo s [.bid 3 4, .peerp 5 3 4] = true ∧ unitsOf s 4 < (readK s.g 3).toNat / 2 ^ 32 % 2 ^ 16 ∧ 2 ^ 12 ≤ (readK s.g 3).toNat := by decide +kernel

/-- The journal thread with a sequence of another state, and with none. -/
def journalOf (w : Nat) (qs : List Seq) : State := { journal w with seqs := qs }

theorem met_JournalInstructions_traps : let all : List Instr := [.jnlX 5 3 6, .jmark 3 6, .jtrunc 3, .jstat 5 3 5, .emit 5 3 6]
    (∀ s ∈ [journalOf (2 ^ 48) [], journalOf (2 ^ 32 + 9) [], journalOf 9 [], journalOf 9 [{ sequence with ctx := 2 }], journalOf 9 [{ sequence with closing := true }]],
      mayGo s all = true) ∧
    2 ^ 48 ≤ (readK (journalOf (2 ^ 48) []).g (nextK 3)).toNat ∧ kindOf (readK (journalOf 9 []).g (nextK 3)) = 0 ∧
    2 ^ 32 ≤ (readK (journalOf (2 ^ 48) []).g (nextK 3)).toNat ∧ openSeq (journalOf 9 []) 77 = none ∧ openingSeq (journalOf 9 []) 77 = none ∧
    openSeq (journalOf 9 [{ sequence with ctx := 2 }]) 77 = some { sequence with ctx := 2 } ∧
    openSeq (journalOf 9 [{ sequence with closing := true }]) 77 = some { sequence with closing := true } := by decide +kernel

/-- The JS.CMD write of sequence 77 is waiting to be acted on; its descriptor names tenant slot 4095 of die 3. -/
def opening (ctx : Nat) : State :=
  { journalOf 9 [] with csr := (csrTbase 3, 0x10000) :: (csrTenant 1, 0x40) :: (csrTenant 2, 0x40) :: W.csr, jsCmds := [⟨3, 0x1000 + 4095, false, 0, 0⟩]
                        mem := writeN [] (0x10000 + 64 * 4095) 16 (77 + 5 * 2 ^ 64 + ctx * 2 ^ 80) }

theorem met_JournalInstructions_opening : mayGo (opening 1) [.jstat 5 3 2] = true ∧ mayGo (opening 2) [.jstat 5 3 2] = true ∧
    (openingSeq (opening 1) 77).map Seq.ctx = some 1 ∧ (openingSeq (opening 2) 77).map Seq.ctx = some 2 := by decide +kernel

theorem met_JournalInstructions_held : let fenced := { sequence with fenced := true }
    let behind := { sequence with work := [.record 2 5 3 4 2 0 9] }
    let waiting := { sequence with records := [⟨0, 4, 1, 0, 5, 0, true, false, true, false, none⟩] }
    let coming := { sequence with replay := true, moved := false }
    (∀ q ∈ [fenced, behind, waiting, coming], mayGo (journalOf (2 ^ 32 + 9) [q]) [.jnlX 5 3 6, .jmark 3 6, .jtrunc 3, .jstat 5 3 5, .emit 5 3 6] = true ∧
      openSeq (journalOf (2 ^ 32 + 9) [q]) 77 = some q ∧ seqOf (journalOf (2 ^ 32 + 9) [q]) q.id = some q ∧ q.ctx = 1 ∧ q.closing = false) ∧
    coming.moved = false ∧ behind.work ≠ [] ∧ headFree behind = false ∧ waiting.work = [] ∧ waiting.truncs = [] ∧
    waiting.records.all (fun e => decide (waiting.nextSerial ≤ e.serial) || e.acked) = false ∧
    sequence.records.all (fun e => decide (sequence.nextSerial ≤ e.serial) || e.acked) = true ∧ sequence.truncs = [] := by decide +kernel

theorem met_JournalInstructions_emit_waits : let e : Emit := ⟨2, 5, 3, 8, 0, 1, .send⟩
    let first := { sequence with emits := [e] }
    let early := { sequence with headerAcked := false }
    mayGo (journalOf 9 [first]) [.emit 5 3 6] = true ∧ openSeq (journalOf 9 [first]) 77 = some first ∧ first.emits = e :: [] ∧ e.phase ≠ .wait ∧
    mayGo (journalOf 9 [early]) [.emit 5 3 6] = true ∧ openSeq (journalOf 9 [early]) 77 = some early ∧ early.emits = [] ∧ early.headerAcked = false ∧
    mayGo (journalOf 9 [sequence]) [.emit 5 3 6] = true ∧ mayGo (journalOf 10 [sequence]) [.emit 5 3 6] = true := by decide +kernel

/-! Events of results, branches, caches, home slices, walks, locks and monitors, clause by clause. -/

/-- A result whose one value is there, and one that still has a lane to read. -/
def landing (acq spec : Bool) : Flight := ⟨9, 1, 0, .scalar 5, true, acq, [(0, 7)], [], [], 1, 0, spec, false⟩

theorem met_ResultsLand_states : let half : Flight := ⟨8, 1, 0, .vector 5, false, false, [(0, 7)], [⟨32, .hbm 0x10000, 8, .fill, 0, false, 0x10000⟩], [], 3, 0, false, false⟩
    let a := { W with flights := [half] }
    let b := { W with flights := [landing true false], g := { T with wait := .acquire 9 } }
    let c := { WW with flights := [landing false true] }
    let d := { W with flights := [landing false false], g := { T with wait := .peer 9 } }
    (∀ s ∈ [a], s.flights.find? (fun x => x.id == half.id) = some half ∧ half.rows.getLsbD 2 = false ∧ rowReady half 0 = true ∧ rowReady half 1 = false ∧
      half.rows.getLsbD 0 = true ∧ half.reqs.all Req.done = false ∧ thread? s 1 = some s.g ∧ s.g.wait ≠ .draining) ∧
    b.flights.find? (fun x => x.id == 9) = some (landing true false) ∧ thread? b 1 = some b.g ∧ b.g.wait = .acquire 9 ∧
    (∀ x ∈ b.flights, x.tid = 1 → x.id = 9) ∧ (landing true false).rows = BitVec.ofNat 16 (2 ^ 0) ∧ rowReady (landing true false) 0 = true ∧
    c.flights.find? (fun x => x.id == 9) = some (landing false true) ∧ c.g.wait = .none ∧ (landing false true).spec = true ∧ (landing false true).flags = 0 ∧
    d.g.wait = .peer 9 ∧ rowValues (landing false false) 0 = [(0, 7)] := by decide +kernel

theorem met_ResultsLand_rows : let v : Flight := ⟨8, 1, 0, .vector 5, true, false, [(479, 7), (511, 9)], [], [], 0xC000, 0, false, false⟩
    let p : Flight := ⟨7, 1, 0, .pred 7, false, false, [], [], [], BitVec.ofNat 16 (2 ^ 15), 0, false, false⟩
    v.dest = .vector 5 ∧ ((rowValues v 15).map fun x => x.1).Nodup ∧ (511, 9) ∈ rowValues v 15 ∧ p.dest = .pred 7 ∧ p.rows = BitVec.ofNat 16 (2 ^ 15) := by
  decide +kernel

/-- The window of thread 1, whose predicate has come: q1 selects lanes `q`, `pt` was predicted; `busy` says it has not come. -/
def awaitsBranch (q pt : Mask) (busy : BitVec 8) (r : Option Mask) (wait : Wait) : State :=
  { WW with g := { WW.g with wait := wait }
            windows := [{ win pt with saved := { T with q := T.q.set 1 q, qBusy := busy }, resolved := r }] }

theorem met_ResultsLand_branches : (∀ s ∈ [awaitsBranch 0xFF 0xFF 2 none .none, awaitsBranch 0xFF 0xFF 0 (some 0xFF) .none, awaitsBranch 0xFF 0xFF 0 none (.peer 9),
      awaitsBranch 0 0xFF 0 none .none, awaitsBranch 0xFF 0 0 none .none, awaitsBranch 0xF 0xFF 0 none .none, awaitsBranch 0xFF 0xF 0 none .none,
      awaitsBranch 0 0 0 none .none, awaitsBranch 0xFFFFFFFF 0xFF 0 none .none],
      (windowOf s 1).any (fun w => w.saved.tid == 1 && w.saved.live && windowOf s w.saved.tid == some w) = true ∧ thread? s 1 = some s.g) ∧
    (awaitsBranch 0xFF 0xFF 2 none .none).windows.any (fun w => w.saved.qBusy.getLsbD w.pred.val) = true ∧
    (awaitsBranch 0xFF 0xFF 0 none .none).windows.any (fun w => !w.saved.qBusy.getLsbD w.pred.val && w.resolved == none) = true ∧
    ([(0, 0xFF), (0xFF, 0)] : List (Mask × Mask)).all (fun x => (awaitsBranch x.1 x.2 0 none .none).windows.all fun w =>
      (w.pt != 0 && takenSet w.saved w.pred w.neg == 0) || (w.pt == 0 && takenSet w.saved w.pred w.neg != 0)) = true ∧
    ([(0xF, 0xFF), (0xFF, 0xF), (0, 0)] : List (Mask × Mask)).any (fun x => (awaitsBranch x.1 x.2 0 none .none).windows.any fun w =>
      (w.pt != 0 && takenSet w.saved w.pred w.neg == 0) || (w.pt == 0 && takenSet w.saved w.pred w.neg != 0)) = false := by decide +kernel

theorem met_Ownership_pairs : let s := { W with pending := [⟨0, 4, false, true⟩, ⟨0, 5, false, true⟩, ⟨2, 6, true, false⟩, ⟨3, 8, false, true⟩, ⟨3, 9, false, true⟩], owners := [(9, 1)] }
    let sent (c w : Nat) := s.pending.any (fun p => p.core == c && p.word == w && !p.atHome)
    let whole (c w : Nat) := s.pending.any (fun p => p.core == c && p.word == w && !p.atHome && p.pair)
    sent 0 4 = true ∧ whole 0 4 = true ∧ whole 0 (4 ^^^ 1) = true ∧ ownerOf s 4 = 0 ∧ ownerOf s 5 = 0 ∧ sent 0 6 = false ∧ whole 3 8 = true ∧
    whole 3 9 = true ∧ ownerOf s 9 ≠ 0 ∧ ownerOf s 9 ≠ 3 + 1 ∧ s.pending.any (fun p => p.core == 2 && p.word == 6 && p.atHome) = true ∧
    s.pending.any (fun p => p.core == 0 && p.word == 6 && p.atHome) = false := by decide +kernel

/-- A load of core 0 that waits for a line of this package, and one that waits for a line of package 5. -/
def filling (loc : Loc) : State := { W with flights := [⟨9, 1, 0, .scalar 5, false, false, [], [⟨0, loc, 8, .fill, 0, false, 0x10400⟩], [], 1, 0, false, false⟩] }
def peerLine : Nat := lineKey (.peer 5 0x20080)

theorem met_HomeAccesses_fill : let a := filling (.hbm 0x10400)
    let b := filling (.peer 5 0x20080)
    let held := { b with rdc := [(cacheKey 0 peerLine, { valid := BitVec.allOnes 128 })] }
    let under := { b with kept := [⟨packet 0x01 5 1 0x20080, 0, 1, 0, false, 0, 512⟩] }
    let full := { b with kept := (List.range 64).map fun n => ⟨packet 0x01 5 1 (0x40000 + 128 * n), 0, 1, 0, false, 0, 512⟩ }
    (∀ s ∈ [a], s.flights.find? (fun x => x.core == 0 && x.reqs.any (awaits (0x10400 / 128))) = s.flights.head? ∧ hasEntry s 0 (0x10400 / 128) = true ∧
      l1Room s 0 1 = true) ∧ 0x10400 / 128 < 2 ^ 45 ∧
    (∀ s ∈ [b, held, under, full], s.flights.find? (fun x => x.core == 0 && x.reqs.any (awaits peerLine)) = s.flights.head? ∧ hasEntry s 0 peerLine = true ∧
      l1Room s 0 1 = true) ∧ 2 ^ 58 ≤ peerLine ∧ peerLine < 2 ^ 59 ∧ (rdcLine held 0 peerLine).valid = BitVec.allOnes 128 ∧
    (rdcLine b 0 peerLine).valid ≠ BitVec.allOnes 128 ∧ rdcMissRoom b 0 = true ∧ thread? b 1 = some b.g ∧
    b.kept.any (fun k => lineAsked 0 k && k.packet.dst == linePkg peerLine && k.packet.offset == lineOffset peerLine && !k.flag) = false ∧
    under.kept.any (fun k => lineAsked 0 k && k.packet.dst == linePkg peerLine && k.packet.offset == lineOffset peerLine && !k.flag) = true := by decide +kernel

/-- Requests of one flight: a bypass load and store, accesses through a window, a bank's read, a read of control space. -/
def homeReqs : List Req :=
  [⟨0, .hbm 0x10000, 8, .home, 0, false, 0x10000⟩, ⟨1, .hbm 0x10008, 8, .store, 7, false, 0x10008⟩, ⟨2, .window 3 128, 4, .windowLd, 0, false, 0x10010⟩,
   ⟨3, .window 3 256, 4, .windowSt, 5, false, 0x10020⟩, ⟨4, .spad 1 64, 8, .home, 0, false, 0x40⟩, ⟨5, .csr csrStatus 0, 8, .home, 0, false, 0x30000⟩,
   ⟨6, .hbm 0x10000, 8, .store, 9, false, 0x10000⟩]
def homeFlight : Flight :=
  ⟨9, 1, 0, .vector 5, false, false, [], homeReqs, [⟨.hbm 0x10800, 8, .add, [(0, 1, 0)], [], false⟩, ⟨.spad 1 128, 8, .add, [(0, 1, 0)], [], false⟩], 1, 0, false, false⟩
def homeState : State := { W with flights := [homeFlight] }

theorem met_HomeAccesses : homeState.flights.find? (fun x => x.id == homeFlight.id) = some homeFlight ∧ homeState.flagWrites = [] ∧ homeFlight.rows ≠ 0 ∧
    (∀ n ∈ [0, 1, 2, 3, 4, 5], (homeReqs[n]?).any (fun r => !r.done && !earlierReq homeFlight n r && !notYetHome homeState 0 r.loc r.size && (peerPkg r.loc).isNone) = true) ∧
    (homeReqs[6]?).any (fun r => earlierReq homeFlight 6 r) = true ∧
    (∀ w ∈ placeWords (.hbm 0x10000) 8, ownerDirty homeState w = false ∧ ownerOf homeState w = 0) ∧ (∀ w ∈ placeWords (.hbm 0x10800) 8, ownerOf homeState w = 0) ∧
    notYetHome homeState 0 (.hbm 0x10800) 8 = false ∧ heldBack homeState homeFlight = false ∧ homeState.blocks.any (fun x => x.id == 1) = true := by decide +kernel

theorem met_HomeAccesses_owned : let s := { homeState with owners := [(0x10000 / 4, 3), (0x10008 / 4, 3), (0x10800 / 4, 3)], l1 := [(cacheKey 2 (0x10000 / 128), { valid := 0xFF, dirty := 0xFF })] }
    let u := { homeState with g := { T with wait := .peer 9 }, pending := [{ core := 0, word := 0x10000 / 4, atHome := false }] }
    ownerDirty s (0x10000 / 4) = true ∧ ownerOf s (0x10008 / 4) ≠ 0 ∧ ownerOf s (0x10800 / 4) ≠ 0 ∧ (0x10000 / 4) ∈ placeWords (.hbm 0x10000) 8 ∧
    heldBack u homeFlight = true ∧ notYetHome u 0 (.hbm 0x10000) 8 = true := by decide +kernel

theorem met_WalksAndRings : let s := { W with walks := [⟨1, 0x40000, 0, 0, [1]⟩], trapWait := [{ die := 3 }] }
    (walking s).filter (fun w => w.ctx == 1 && w.va == 0x40000) = [⟨1, 0x40000, 0, 0, [1]⟩] ∧ walk s 1 0x40000 = none ∧ (walking s).filter (fun w => w.ctx == 1 && w.va == 0x50000) = [] ∧
    (walking tree5).filter (fun w => w.ctx == 1 && w.va == 0x40000) ≠ [] ∧ s.trapWait = [] ++ { die := 3 } :: [] ∧ ringRoom s 3 = true ∧ (∀ x ∈ s.trapWait, x.die ≠ 0) ∧
    (∀ x ∈ s.trapWait, x.die = 3 → x.late = false) := by decide +kernel

theorem met_WalksAndRings_late : let r : Record := { die := 0, core := 5, cause := 0x0E, ctx := 1, late := true }
    let s := { W with trapWait := [{ die := 3 }, r] }
    s.trapWait.find? (fun x => x.die == 0 && x.late) = some r ∧ ctxEnded s r.ctx = false ∧ ringRoom ringFull 0 = false := by decide +kernel

theorem met_Barriers_messages_last : let s := { W with gangs := [{ id := 1, launch := 1, blocks := [1], bars := [(3, { members := [1] }), (2, { members := [1, 2] })] }], barMsgs := [(1, 3, 1), (1, 2, 1)] }
    (1, 3, 1) ∈ s.barMsgs ∧ (1, 2, 1) ∈ s.barMsgs ∧ (1, 0, 1) ∉ s.barMsgs ∧ (getT {} (gangOf s 1).bars 3).count + 1 = (getT {} (gangOf s 1).bars 3).members.length ∧
    (getT {} (gangOf s 1).bars 2).count + 1 ≠ (getT {} (gangOf s 1).bars 2).members.length ∧ thread? s 1 = some s.g := by decide +kernel

theorem met_LockMessages_order : let s := { W with lockMsgs := [.request 32 1, .request 0 1, .unlock 64 1 {}, .waiting 96 1, .waiting 128 3], locks := [(128, { holder := 2, entry := true })] }
    .request 32 1 ∈ s.lockMsgs ∧ sentBefore s (.request 32 1) = false ∧
    .request 7 9 ∉ s.lockMsgs ∧ .waiting 7 9 ∉ s.lockMsgs ∧ .waiting 128 3 ∈ s.lockMsgs ∧ .request 128 3 ∉ s.lockMsgs ∧ mayEnter s 128 3 = true := by decide +kernel

theorem met_LockMessages_second : let s := { W with lockMsgs := [.request 7 1, .unlock 7 1 {}] }
    let t := { W with lockMsgs := [.unlock 7 1 {}, .request 7 1], locks := [(7, { holder := 3, entry := true })] }
    .request 7 1 ∈ s.lockMsgs ∧ sentBefore s (.request 7 1) = false ∧ s.lockMsgs.findSome? (unlockMsg 7 1) = some {} ∧ sentBefore s (.unlock 7 1 {}) = true ∧
    sentBefore t (.request 7 1) = true ∧ sentBefore t (.unlock 7 1 {}) = false ∧ (lockOf t 7).holder ≠ 1 + 1 := by decide +kernel

/-- All 256 entries of the slice of lock 7 are taken. -/
def lockFull : State := { W with lockMsgs := [.request 7 1, .waiting (7 + 2 ^ 14) 4], locks := (List.range 256).map fun n => (7 + 2 ^ 14 * (n + 2), { holder := 2, entry := true }) }

theorem met_LockMessages_waits : .request 7 1 ∈ lockFull.lockMsgs ∧ sentBefore lockFull (.request 7 1) = false ∧ (lockOf lockFull 7).entry = false ∧ waitingAt lockFull (lockSlice 7) ≠ [] ∧ 256 ≤ entriesOf lockFull (lockSlice 7) ∧
    mayEnter lockFull (7 + 2 ^ 14) 4 = false ∧
    .waiting (7 + 2 ^ 14) 4 ∈ lockFull.lockMsgs ∧ .request (7 + 2 ^ 14) 4 ∉ lockFull.lockMsgs := by decide +kernel

theorem met_LockMessages_grant : let s := { W with lockMsgs := [.grant 7 1], g := { T with wait := .lock 7 0x38 }, flights := [loading] }
    let t := { W with lockMsgs := [.grant 7 1] }
    .grant 7 1 ∈ s.lockMsgs ∧ thread? s 1 = some s.g ∧ quiet s 1 = false ∧ thread? t 1 = some t.g ∧ t.g.wait = .none := by decide +kernel

theorem met_LockMessages_withdraw : let s := { W with lockMsgs := [.withdraw 7 1, .waiting 7 1], locks := [(7, { holder := 2, waiters := [1] })] }
    let t := { W with lockMsgs := [.withdraw 7 1, .grant 7 1], locks := [(7, { holder := 2 })] }
    .withdraw 7 1 ∈ s.lockMsgs ∧ .request 7 1 ∉ s.lockMsgs ∧ (lockOf s 7).holder = 1 + 1 ∧ .withdraw 7 1 ∈ t.lockMsgs ∧ thread? s 1 = some s.g ∧
    (lockOf { s with locks := [(7, { holder := 5, waiters := [1] })] } 7).holder ≠ 1 + 1 := by decide +kernel

theorem met_LockMessages_monitors : let far : Monitor := ⟨1, 0, .peer 5 0x20008, 5, 0, true, false, 0x20008⟩
    let near : Monitor := ⟨1, 0, .hbm 0x10000, 5, 0, true, false, 0x10000⟩
    let s := { W with monitors := [far] }
    let t := { W with monitors := [{ far with woken := true }] }
    let u := { W with monitors := [near] }
    s.monitors.find? (fun x => x.tid == far.tid) = some far ∧ far.armed = true ∧ far.woken = false ∧ unreachable s 5 = 0 ∧
    t.monitors.find? (fun x => x.tid == far.tid) = some { far with woken := true } ∧ u.monitors.find? (fun x => x.tid == near.tid) = some near ∧
    peerPkg near.loc = none ∧ near.woken = false ∧ near.d % 64 ≠ 0 ∧ thread? u 1 = some u.g := by decide +kernel

/-! Clauses about locks, matrix progress, room at the home, elements of the engine operations, gather and the last sub-packet. -/

theorem met_LockMessages_late : let s := { W with lockMsgs := [.withdraw 7 1], locks := [(7, { holder := 3, entry := true, waiters := [1] })] }
    let w := { s with g := { T with wait := .lock 7 0x38 } }
    let b := { s with g := { T with wait := .barrier false 0 0 } }
    (∀ x ∈ [w, b], .withdraw 7 1 ∈ x.lockMsgs ∧ .request 7 1 ∉ x.lockMsgs ∧ (lockOf x 7).holder ≠ 1 + 1 ∧ thread? x 1 = some x.g) ∧
    waitsFor w 1 7 = true ∧ waitsFor b 1 7 = false := by decide +kernel

theorem met_LockMessages_under_way : let s := { W with lockMsgs := [.notice 1 (lockSlice 9), .unlock 9 1 {}], locks := [(9, { holder := 2, entry := true })] }
    .notice 1 (lockSlice 9) ∈ s.lockMsgs ∧ unlockUnderWay s 1 (lockSlice 9) = true ∧
    (let t := { s with lockMsgs := [.notice 1 (lockSlice 9)] }
     unlockUnderWay t 1 (lockSlice 9) = false ∧ heldAt t 1 (lockSlice 9) = [9]) := by decide +kernel

theorem met_MatrixIssue_stored : let m : MEntry := ⟨11, .mst 5 15 0 0 12, 1, true, false, 64⟩
    let s : State := { mcc with matrix := [(0, { queue := [⟨8, .mzero 4, 1, true, false, 0⟩, m] })] }
    mayGo s [.mprog 5 3] = true ∧ (matrixOf s 0).queue = [⟨8, .mzero 4, 1, true, false, 0⟩] ++ m :: [] ∧ m.running = true ∧ engineOf s 12 = none ∧
    (∀ x ∈ [(⟨8, .mzero 4, 1, true, false, 0⟩ : MEntry)], x.running = true) := by decide +kernel

/-- 256 loads of other lines wait at the slice of the line at 0x10000. -/
def crowded (s : State) : State := { s with flights := s.flights ++ (List.range 256).map fun n => { reading (0x10000 + 2 ^ 17 * (n + 1)) with id := 100 + n, tid := 2 } }

theorem met_HomeAccesses_room : (∀ r ∈ homeReqs, homeRoom homeState r.loc = true) ∧ (∀ a ∈ homeFlight.atoms, homeRoom homeState a.loc = true) ∧
    (crowded homeState).flights.find? (fun x => x.id == homeFlight.id) = some homeFlight ∧ homeRoom (crowded homeState) (.hbm 0x10000) = false := by decide +kernel

/-- An operation of a box, of lanes, of a tile, of a quantise request. -/
def opOf (kind : EngKind) (desc : List (BitVec 64)) : EngOp := { makeOp T kind 5 desc with id := 9, accepted := true }
def boxDesc (origin : Nat) : List (BitVec 64) := readRegs boxed.g 8 12 ++ [BitVec.ofNat 64 origin, 0, 0]

/-- Where an operation's bytes at an address go. -/
def putPlace (s : State) (e : EngOp) (va n : Nat) : Option Loc :=
  if inAperture va then (match spadPlace s (opGroup e) (va % 2 ^ 28) 0 n with | .ok l => some l | .error _ => none)
  else match translateNow s e.ctx va 5 with | .ok (.hbm pa) => some (.hbm pa) | _ => none
def reads (c : EngGot) (x : Nat) : Bool := match c with
  | .ok y => y == x
  | _ => false
theorem reads_ok {c : EngGot} {x : Nat} (h : reads c x = true) : c = .ok x := by cases c <;> simp_all [reads]
def lands (s : State) (e : EngOp) (a n : Nat) : Bool :=
  (piecesOf a n).all fun p => (inAperture p.1 || (tlbFind s e.ctx p.1).any fun l => !l.fab) && (piecesOf a n == [p]) && (putPlace s e p.1 p.2).any fun m => match m with
    | .hbm pa => decide (pa + p.2 ≤ 2 ^ 52) && !underWindow s pa p.2
    | _ => true
def working (e : EngOp) : State := { W with engines := [e] }
def mayLand (e : EngOp) (i : Nat) : Bool :=
  let e := { e with pos := i }
  let s := working e
  engineOf s 9 == some e && opRuns s e && decide (i < elemCount e) && writeRoom s e && s.bad.isEmpty && lands s e (elemAt e i).dst (elemAt e i).size
def given (e : EngOp) (a n : Nat) : Bool := reads (engRead (working e) e a n) 0 && rangeRoom (working e) e a n 4

theorem met_EngineData_elements :
    (let e := opOf .cpyT (boxDesc 8)
     mayLand e 0 = true ∧ (elemAt e 0).src = some 0x10040 ∧ given e 0x10040 8 = true ∧ mayLand e 12 = true ∧ (elemAt e 12).src = none) ∧
    (let e := opOf .cpyTs (boxDesc 8)
     mayLand e 7 = true ∧ (elemAt e 7).live = true ∧ ((elemAt e 7).src.any fun a => given e a 8) = true ∧ (elemAt { e with pos := 12 } 12).live = false ∧
       writeRoom (working e) { e with pos := 12 } = true) ∧
    (let e := { opOf .cpyL [0, 16] with lanes := [(0, 0x1F000), (31, 0x1FFF0)] }
     mayLand e 1 = true ∧ (elemAt e 1).src = some 0x1FFF0 ∧ given e 0x1FFF0 16 = true) ∧
    (let e := { opOf .mst [0x10000, BitVec.ofNat 64 (2 + 64 * 2 ^ 8 + 256 * 2 ^ 16 + 0x02 * 2 ^ 32)] with core := 96, tile := 15 }
     mayLand e 127 = true ∧ (elemAt e 127).dst = 0x10000 + 256 + 4 * 63) := by decide +kernel

theorem met_EngineData_quantise : let d (s t : Nat) : List (BitVec 64) := [0x10000, 0x10100, 0x10201, BitVec.ofNat 64 (64 + s * 2 ^ 32 + t * 2 ^ 40)]
    (let e := opOf .qntEnc (d 0x04 0x10)
     isScaled (qntTaper e) = false ∧ opRuns (working e) e = true ∧ e.pos < elemCount e ∧ writeRoom (working e) e = true ∧ given e 0x10000 (qntBin e) = true ∧
       lands (working e) e 0x10100 (qntPay e) = true) ∧
    (let e := opOf .qntEnc (d 0x04 0x12)
     isScaled (qntTaper e) = true ∧ opRuns (working e) e = true ∧ e.pos < elemCount e ∧ writeRoom (working e) e = true ∧ given e 0x10000 (qntBin e) = true ∧
       lands (working e) e 0x10100 (qntPay e) = true ∧ lands (working e) e 0x10201 1 = true ∧
       ((piecesOf 0x10100 (qntPay e)).all fun p => (putPlace (working e) e p.1 p.2).all fun m => (putPlace (working e) e 0x10201 1).all fun c => !overlap m p.2 c 1) = true) ∧
    (let e := opOf .qntDec (d 0x12 0x04)
     isScaled (qntTaper e) = true ∧ opRuns (working e) e = true ∧ e.pos < elemCount e ∧ writeRoom (working e) e = true ∧ given e 0x10000 (qntPay e) = true ∧
       given e 0x10201 1 = true ∧ lands (working e) e 0x10100 (qntBin e) = true) := by decide +kernel

theorem met_EngineData_faults : let e := { rem 0 with desc := [0x10000, 0x50000, 32] }
    let s := working e
    engineOf s 9 = some e ∧ opRuns s e = true ∧ e.pos < elemCount e ∧ writeRoom s e = true ∧
    (match engRead s e 0x50000 16 with | .fault _ _ _ => true | _ => false) = true ∧ ctxEnded s e.ctx = false ∧ (threadEver s e.tid).map Group.ctx = some e.ctx ∧
    (let t := crowded { W with engines := [{ rem 0 with desc := [0x10000, 0x1FFE0, 32] }] }
     writeRoom t { rem 0 with desc := [0x10000, 0x1FFE0, 32] } = false) := by decide +kernel

/-- A gather of one column of two 8-bit values, of which column offsets, indices and values lie at 0x10000, 0x10100 and 0x10200. -/
def gather (off1 idx1 : Nat) : State :=
  { W with engines := [opOf .gath [0x10000, 0x10100, 0x10200, BitVec.ofNat 64 (1 + 64 * 2 ^ 8 + 0x10 * 2 ^ 24)]]
           mem := writeN (writeN (writeN [] 0x10004 4 off1) 0x10102 2 idx1) 0x10200 2 0x1234 }

theorem met_EngineTokens_gather : (∀ x ∈ ([(2, 5), (2, 64), (4097, 5)] : List (Nat × Nat)), let s := gather x.1 x.2
      (engineOf s 9).any (fun e => e.kind == .gath && opRuns s e && !sparseRuns s 0 && e.token == 5 && !e.cq && reads (engRead s e 0x10000 8) (x.1 * 2 ^ 32)
        && rangeRoom s e 0x10000 8 4) = true ∧ thread? s 1 = some s.g ∧ s.g.wait ≠ .draining ∧ s.g.ctx = 1 ∧ (blockOf s 1).threads ≠ [] ∧
      (wordsFrom (x.1 * 2 ^ 32) 4 2).getLastD 0 = x.1) ∧
    (∀ x ∈ [5, 64], let s := gather 2 x
      (engineOf s 9).any (fun e => let t := recallFor s e 0x10000 8
        let u := recallFor t e 0x10100 4
        reads (engRead t e 0x10100 4) (x * 2 ^ 16) && rangeRoom t e 0x10100 4 4 && reads (engRead u e 0x10200 2) 0x1234 && rangeRoom u e 0x10200 2 4) = true ∧
      gathOk [0, 2] (wordsFrom (x * 2 ^ 16) 2 2) 64 = decide (x < 64)) ∧
    (let s := { gather 2 5 with matrix := [(0, { queue := [⟨10, .mmaS 0 1, 7, true, false, 0⟩] })] }
     sparseRuns s 0 = true) := by decide +kernel

theorem met_EngineTokens_last : let e := { rem 2 with cq := true, bundle := 4 }
    let s (n sig : Nat) : State := { W with engines := [e], bundles := [{ id := 4, ctx := 1, left := n, sig := sig }] }
    (∀ x ∈ ([(2, 0), (1, 0), (1, 0x10008)] : List (Nat × Nat)), let t := s x.1 x.2
      engineOf t 9 = some e ∧ opRuns t e = true ∧ elemCount e ≤ e.pos ∧ e.inFlight = 0 ∧ e.cq = true ∧ e.bundle ≠ 0 ∧ (bundleOf t 4).id = 4 ∧
      (bundleOf t 4).retired = false ∧ (bundleOf t 4).left = x.1) ∧
    translateNow (s 1 0x10008) 1 0x10008 1 = .ok (.hbm 0x10008) := by decide +kernel
/-- `W` with a fabric MMU that maps the first 2 MiB of this package for tag 1 to 0x200000. -/
def fabric : State :=
  { W with csr := [(0, 0x4B321A020B ^^^ 2), (2, 0x1003), (csrFmRoot, 0x1000)]
           mem := writeN (writeN (writeN [] 0x1000 8 0x2001) 0x2000 8 0x3001) 0x3000 8 (2 ^ 52 + 0x20000F) }

/-- A packet of package 5 for this package, 3. -/
def from5 (kind : Nat) : Packet := { packet kind 3 1 0x80 with src := 5, len := 2, mask := 1 }

theorem inTurn {s : State} {p : Packet} (hf : fabricUp s = true) (hp : p.dst = pkgNum s ∨ p.kind = 0x0A) (hq : p.seq = getT 0 s.recvSeq (streamKey p))
    (hk : getT 0 s.recvSeq (performedKey p) = 0) : InTurn s p := ⟨hf, hp, fun _ => hq, fun _ => hk⟩

theorem met_StreamOrder : let p : Packet := { from5 0x03 with seq := 2 ^ 31 - 1 }
    let q : Packet := { from5 0x0E with seq := 2 ^ 31 }
    fabricUp W = true ∧ p.dst = pkgNum W ∧ streamed p.kind = true ∧ (deadPlanes W p.src).getLsbD p.plane = false ∧
    (0 < (p.seq + 2 ^ 32 - getT 0 W.recvSeq (streamKey p)) % 2 ^ 32 ∧ (p.seq + 2 ^ 32 - getT 0 W.recvSeq (streamKey p)) % 2 ^ 32 < 2 ^ 31) ∧
    q.dst = pkgNum W ∧ 2 ^ 31 ≤ (q.seq + 2 ^ 32 - getT 0 W.recvSeq (streamKey q)) % 2 ^ 32 := by decide +kernel

theorem met_LinePackets_requests (kind : Nat) : InTurn fabric (from5 kind) ∧ (from5 kind).kind = kind :=
  ⟨inTurn (by decide +kernel) (Or.inl (by rw [show (from5 kind).dst = 3 from rfl]; decide +kernel)) (show 0 = _ from rfl) rfl, rfl⟩

theorem met_LinePackets_place : fabricPlace fabric 1 0x80 true true = some 0x200080 ∧ fabricPlace fabric 1 0x200000 true false = none ∧
    fabricPlace fabric 2 0x80 true false = none := by decide +kernel

/-- The request for a line that a packet of package 5 answers, kept for thread 1 of core 0. -/
def asked (kind : Nat) (op : Nat) : Kept := ⟨{ packet kind 5 1 0x20080 with src := 3, mask := 0xFF00 }, 0, 1, 0x20088, false, op, 512⟩
def answer (kind : Nat) : Packet := { from5 kind with mask := 0, data := 77 }

theorem met_LinePackets_reply : let r : Req := ⟨0, .peer 5 0x20088, 8, .fill, 0, false, 0x20088⟩
    let f : Flight := ⟨9, 1, 0, .scalar 5, false, false, [], [r], [], 1, 0, false, false⟩
    let s := { W with g := { T with wait := .peer 9 }, flights := [f], kept := [asked 0x01 0] }
    fabricUp s = true ∧ (answer 0x02).dst = pkgNum s ∧ (answer 0x02).seq = getT 0 s.recvSeq (streamKey (answer 0x02)) ∧ unreachable s 5 = 0 ∧ s.vetting = [] ∧
    requestOf s (answer 0x02) 0x01 = some (asked 0x01 0) ∧ s.monitors = [] ∧ s.g.live = true ∧ s.g.wait = .peer f.id ∧ s.flights = [f] ∧ f.acq = false ∧
    f.atoms = [] ∧ r.size ≤ 8 ∧ lineKey (.peer 5 0x20088) = lineKey (.peer 5 (asked 0x01 0).packet.offset) ∧ isRefused (answer 0x02) = false ∧
    isRefused { answer 0x02 with mask := BitVec.ofNat 128 (2 ^ 100) } = true ∧ requestOf s { answer 0x02 with mask := BitVec.ofNat 128 (2 ^ 100) } 0x01 = some (asked 0x01 0) ∧
    windowOf s 1 = none ∧ (asked 0x01 0).core ≠ noCore := by decide +kernel

theorem met_LinePackets_engine : let s := { W with engines := [rem 0], kept := [asked 0x01 9] }
    requestOf s (answer 0x02) 0x01 = some (asked 0x01 9) ∧ engineOf s 9 = some (rem 0) ∧ isRefused (answer 0x02) = false := by decide +kernel

theorem met_WritePackets : (∀ kind, InTurn fabric (from5 kind)) ∧ (from5 0x0F).len = 2 ∧ fabricPlace fabric 1 0x80 false true = some 0x200080 ∧
    underWindow fabric 0x200080 128 = false ∧ fabric.reds = [] ∧
    fabricPlace W 1 0x80 false true = none ∧
    (let p : Packet := { from5 0x0B with mask := BitVec.ofNat 128 (2 ^ 25), operand := 0 }
     p.mask.toNat / 2 ^ 25 % 2 ^ 13 = 1 ∧ p.operand.toNat / 2 ^ 16 % 2 ^ 16 = p.operand.toNat % 2 ^ 16) ∧
    (let p : Packet := { from5 0x0B with mask := BitVec.ofNat 128 (2 * 2 ^ 25), operand := 0x10001 }
     1 < p.mask.toNat / 2 ^ 25 % 2 ^ 13 ∧ p.operand.toNat / 2 ^ 16 % 2 ^ 16 = p.operand.toNat % 2 ^ 16 ∧
       p.operand.toNat % 2 ^ 16 < p.mask.toNat / 2 ^ 25 % 2 ^ 13) :=
  ⟨fun k => (met_LinePackets_requests k).1, by decide +kernel⟩

theorem met_WritePackets_landed : let s := { W with engines := [{ rem 0 with inFlight := 1 }], kept := [asked 0x0F 9] }
    fabricUp s = true ∧ (answer 0x10).dst = pkgNum s ∧ unreachable s 5 = 0 ∧ s.vetting = [] ∧ (answer 0x10).operand = 0 ∧ isRefused (answer 0x10) = false ∧
    requestOf s (answer 0x10) 0x0F = some (asked 0x0F 9) ∧ engineOf s 9 = some { rem 0 with inFlight := 1 } ∧ (rem 0).useRec = false ∧ s.flagWrites = [] := by decide +kernel

theorem met_AtomPackets : InTurn fabric (from5 0x06) ∧ fabricPlace fabric 1 (0x80 + firstByte (from5 0x06).mask) true true = some 0x200080 ∧
    (let p : Packet := { from5 0x06 with mask := 0xFF00, data := decrementCode }
     fabricPlace fabric 1 (0x80 + firstByte p.mask) true true = some 0x200088 ∧ byteCount p.mask = 8 ∧ p.data % 256 = decrementCode) ∧ (from5 0x06).data % 256 < 9 :=
  ⟨(met_LinePackets_requests _).1, by decide +kernel⟩

theorem met_AtomPackets_replies : let a : AtomReq := ⟨.peer 5 0x20088, 8, .add, [(0, 1, 0)], [], false⟩
    let f : Flight := ⟨9, 1, 0, .scalar 5, false, false, [], [], [a], 1, 0, false, false⟩
    let s := { W with g := { T with wait := .peer 9 }, flights := [f], kept := [asked 0x06 0] }
    let t := { W with g := { T with wait := .flush 5 }, kept := [asked 0x08 0] }
    requestOf s (answer 0x07) 0x06 = some (asked 0x06 0) ∧ isRefused (answer 0x07) = false ∧ s.flagWrites = [] ∧ s.g.live = true ∧ s.g.wait = .peer f.id ∧ f.rows ≠ 0 ∧
    (∀ x ∈ a.lanes, x.1 < 512) ∧ a.loc = .peer (asked 0x06 0).packet.dst ((asked 0x06 0).packet.offset + firstByte (asked 0x06 0).packet.mask) ∧ unreachable s 5 = 0 ∧
    requestOf t (answer 0x09) 0x08 = some (asked 0x08 0) ∧ t.g.wait = .flush (answer 0x09).src ∧ fabricUp t = true ∧ (answer 0x09).dst = pkgNum t := by decide +kernel

theorem met_LinkEvents : let s := { W with links := [(16, { training := true, fails := 2 }), (17, { errors := 15 })] }
    s.powered = true ∧ (linkOf s 0).up = true ∧ (linkOf s 0).training = false ∧ (linkOf s 0).errors < 15 ∧ 15 ≤ (linkOf s 17).errors ∧ (linkOf s 17).up = true ∧
    (linkOf s 17).training = false ∧ (linkOf s 16).training = true ∧ 2 ≤ (linkOf s 16).fails ∧ s.kept = [] ∧
    (let t := { W with links := [(17, { training := true, fails := 1 })] }
     (linkOf t 17).training = true ∧ (linkOf t 17).fails < 2) := by decide +kernel

theorem met_PlaneEvents : let s := { W with kept := [asked 0x03 0] }
    (∃ k ∈ s.kept, k.packet.kind ≠ 0x0A ∧ k.packet.dst = 5 ∧ k.packet.via = 0) ∧ unreachable s 5 = 0 ∧ (deadPlanes s 5).getLsbD 17 = false ∧
    s.kept.find? (fun k => k.packet.kind == 0x03 && k.packet.dst == 5 && k.packet.plane == 0 && k.packet.seq == 0) = some (asked 0x03 0) ∧ s.flagWrites = [] ∧
    (let t := { W with peers := [(5, { dead := 0x20000 })], sent := [(asked 0x03 0).packet] }
     (peerOf t 5).dead.getLsbD 17 = true ∧ (linkOf t 17).up = true ∧ fabricUp t = true ∧ (∃ p ∈ t.sent, p.dst = 5 ∧ p.kind ≠ 0x00 ∧ p.kind ≠ 0x0A) ∧
       (∀ k ∈ t.kept, k.packet.dst ≠ 5)) := by decide +kernel

theorem met_PlaneEvents_probes : let h : PartnerHdr := ⟨0, 77, 5, 0, [], false, [], false⟩
    let q := { sequence with records := [⟨0, 4, 1, 0, 5, 0, true, false, true, false, none⟩] }
    let s := { W with partners := [h], seqs := [q] }
    let t := { W with csr := (csrRegion, 0x100000001) :: W.csr, partners := [h], peers := [(5, { probing := true, probes := 2, plane := 17 })] }
    let u := { W with peers := [(5, { probing := true, probes := 1, plane := 17 })] }
    s.partners.any (fun h => h.src == 5 && !h.stopped) = true ∧ seqOf s q.id = some q ∧ seqDest q = 5 ∧ q.records.any (fun r => r.sent && !r.acked) = true ∧
    (peerOf s 5).probing = false ∧ (peerOf s 5).failed = false ∧ fabricUp s = true ∧ (peerOf t 5).probing = true ∧ 2 ≤ (peerOf t 5).probes ∧ t.vetting = [] ∧
    t.flagWrites = [] ∧ (∀ k ∈ t.kept, k.packet.dst ≠ 5) ∧ regionBase t ≠ none ∧ h.src = 5 ∧ h.stopped = false ∧ (peerOf u 5).probes < 2 := by decide +kernel

theorem met_PlaneEvents_answers : InTurn W (from5 0x11) ∧ InTurn W (from5 0x12) ∧ (from5 0x12).operand ≠ 1 ∧
    InTurn W { from5 0x12 with operand := 1 } ∧ ({ from5 0x12 with operand := 1 } : Packet).operand = 1 :=
  ⟨inTurn (by decide +kernel) (Or.inl (by decide +kernel)) (by decide +kernel) (by decide +kernel),
   inTurn (by decide +kernel) (Or.inl (by decide +kernel)) (by decide +kernel) (by decide +kernel), by decide +kernel,
   inTurn (by decide +kernel) (Or.inl (by decide +kernel)) (by decide +kernel) (by decide +kernel), by decide +kernel⟩

theorem met_JournalRecords_accept : let q := { sequence with work := [.record 1 5 3 4 2 0 9] }
    let s := { W with g := { T with wait := .journal 2 }, seqs := [q] }
    seqOf s q.id = some q ∧ q.work = [.record s.g.tid 5 3 4 2 0 9] ∧ q.replay = false ∧ q.fenced = false ∧ q.closing = false ∧ q.emits = [] ∧ q.truncs = [] ∧
    q.records.any (fun r => r.pos == 4 && r.kind == 2 && r.index == 0) = false ∧ buffered s q.die < 16384 ∧ s.g.live = true ∧ s.g.wait = .journal q.id := by decide +kernel

theorem met_JournalRecords_ack : let q := { sequence with records := [⟨0, 4, 1, 0, 5, 0, true, false, true, false, none⟩, ⟨1, 5, 1, 0, 5, 0, true, false, true, false, none⟩] }
    let s := { W with seqs := [q] }
    let p : Packet := { from5 0x0E with mask := 77, operand := 32 }
    fabricUp s = true ∧ p.dst = pkgNum s ∧ p.seq = getT 0 s.recvSeq (streamKey p) ∧ unreachable s 5 = 0 ∧ s.vetting = [] ∧ p.operand.toNat % 32 = 0 ∧ s.partners = [] ∧
    s.seqs.find? (fun q => q.isOpen && q.seqid.toNat == p.mask.toNat % 2 ^ 64 && seqDest q == p.src) = some q ∧ seqOf s q.id = some q ∧ q.fenced = false ∧
    q.reassign = false ∧ q.closing = false := by decide +kernel

theorem met_JournalRecords_partner : let s := { W with csr := (csrRegion, 0x100000001) :: W.csr }
    let h : PartnerHdr := ⟨0, 77, 5, 4, [(3, 0)], false, [], false⟩
    let t := { s with partners := [h] }
    let p : Packet := { from5 0x0D with mask := 77, operand := 1, data := 5 }
    let r : Packet := { from5 0x0D with mask := 77, operand := 64, data := 5 }
    fabricUp s = true ∧ p.dst = pkgNum s ∧ partnerHdr s p.src 77 = none ∧ regionBase s = some (2 ^ 32) ∧ lowestFree (s.partners.map PartnerHdr.index) 65536 = some 0 ∧
    regionBase W = none ∧ r.operand.toNat % 16 = 0 ∧ partnerHdr t r.src 77 = some h ∧ h.stopped = false ∧ r.operand.toNat / 16 = h.next ∧
    lowestFree (t.partners.flatMap fun x => x.recs.map fun r => r.2) regionRecords = some 1 ∧ r.data / 2 ^ 96 % 2 ^ 8 ≠ 4 := by decide +kernel

theorem met_EmitDelivery : let e : Emit := ⟨1, 5, 3, 10, 0, 1, .send⟩
    let q := { sequence with emits := [e] }
    let s := { W with seqs := [q] }
    seqOf s q.id = some q ∧ q.emits = [e] ∧ e.phase = .send ∧ q.reassign = false ∧ q.fenced = false ∧ q.closing = false ∧ q.truncs = [] ∧ s.g.live = true ∧ s.g.tid = e.tid ∧
    e.d ≠ 0 ∧ e.d < 64 := by decide +kernel

theorem met_EmitDelivery_reassign : let q := { sequence with reassign := true, headerAcked := false }
    let s := { W with seqs := [sequence] }
    let t := { W with seqs := [q], g := { T with wait := .emit 2 } }
    seqOf s 2 = some sequence ∧ sequence.isOpen = true ∧ sequence.headerAcked = true ∧ (6 : Nat) ≠ pkgNum s ∧ 6 ≠ sequence.partner ∧ unreachable s 6 = 0 ∧ fabricUp s = true ∧
    seqOf t 2 = some q ∧ q.reassign = true ∧ q.target = none ∧ q.headerAcked = false ∧ t.ended = [] ∧ t.g.live = true ∧ t.g.wait = .emit q.id := by decide +kernel

theorem met_SequenceCommands : let c : JsCmd := ⟨3, 0x1000 + 4095, false, 0, 0⟩
    let s := { W with csr := (csrTbase 3, 0x10000) :: (csrTenant 1, 0x40) :: W.csr, jsCmds := [c]
                      mem := writeN [] (0x10000 + 64 * 4095) 16 (77 + 5 * 2 ^ 64 + 2 ^ 80) }
    s.jsCmds = [c] ∧ c.begun = false ∧ c.die < 4 ∧ c.value / 2 ^ 12 % 4 = 1 ∧ fabricUp s = true ∧
    (let d := homeRead s (csrRaw s (csrTbase c.die) + 64 * (c.value % 2 ^ 12)) 64
     openResult s c.die (c.value % 2 ^ 12) d = 0 ∧ unreachable s (d / 2 ^ 64 % 2 ^ 12) = 0) := by decide +kernel

theorem met_SequenceCommands_close : let c : JsCmd := ⟨0, 0x2000, false, 0, 0⟩
    let s := { W with jsCmds := [c], seqs := [sequence] }
    c.value / 2 ^ 12 % 4 = 2 ∧ s.seqs.find? (fun q => q.isOpen && q.die == c.die && q.slot == c.value % 2 ^ 12) = some sequence ∧ seqOf s sequence.id = some sequence ∧
    sequence.work = [] ∧ sequence.emits = [] ∧ (∀ r ∈ sequence.records, r.acked = true) ∧ sequence.reassign = false ∧ c.tid = 0 := by decide +kernel

theorem met_MarketIntervals : isReady W = true ∧ W.nextLeases = none ∧ W.intvNext < 2 ^ 64 ∧ ({ W with nextLeases := some [] } : State).nextLeases = some [] := by decide +kernel

theorem met_MarketEvents : let s := { W with csr := (csrTenant 1, 0x47) :: W.csr, policies := [(7, [BitVec.ofNat 32 (0x04400000 + (2 ^ 13 - 1)), BitVec.ofNat 32 (0x38040000 + 4), 0])] }
    isReady s = true ∧ (contexts s).find? (fun x => tenantOf s x == 7) = some 1 ∧ 2 ^ 13 - 1 < 2 ^ 13 ∧ 4 < 5 := by decide +kernel

theorem met_MarketEvents_price : let s := { W with csr := (csrNbr 63, 0x1005) :: W.csr }
    fabricUp s = true ∧ (from5 0x0C).dst = pkgNum s ∧ (from5 0x0C).seq = getT 0 s.recvSeq (streamKey (from5 0x0C)) ∧ (neighbours s).contains (from5 0x0C).src = true := by decide +kernel

/-- A part whose queue 0 of context 1 has its ring of 16 units at 0x10000 and one packet of `n` units in it. -/
def ring (n : Nat) (mem : Cells) : State :=
  { W with csr := [(0, 0x4B321A020B ^^^ 2), (2, 0x1003), (csrQbase 0, 0x10000), (csrQridx 0, 0x18000), (csrQcfg 0, 4 + 2 ^ 5 + 2 ^ 21), (csrTenant 1, 0x40)]
           queues := [(0, { widx := n, look := true })], mem := mem }

theorem met_QueueNotifies : let s := { ring 1 [] with notifies := [(0, 16, noCore)] }
    s.policies = [] ∧ (queueOf s 0).moved = none ∧ queueOn s 0 = true ∧ (queueOf s 0).halted = false ∧ 2 ^ queueBits s 0 = 16 ∧
    ((16 : Nat) % 2 ^ 32 + 2 ^ 32 - (queueOf s 0).ridx % 2 ^ 32) % 2 ^ 32 = 16 ∧ queuePending (queueOf s 0) < 16 ∧ (1 : Nat) ≤ queuePending (queueOf s 0) ∧
    2 ^ queueBits s 0 < ((17 : Nat) % 2 ^ 32 + 2 ^ 32 - (queueOf s 0).ridx % 2 ^ 32) % 2 ^ 32 ∧
    (let t := { ring 1 [] with queues := [(0, { widx := 1 })] }
     queueLive t 0 = true ∧ (queueOf t 0).look = false ∧ (queueOf t 0).waitSig = none ∧ queuePending (queueOf t 0) ≠ 0) := by decide +kernel

theorem met_QueueNotifies_wait : let s := { ring 1 (writeN [] 0x16000 8 5) with queues := [(0, { widx := 1, waitSig := some (0x16000, 5) })] }
    (queueOf s 0).waitSig = some (0x16000, 5) ∧ queueLive s 0 = true ∧ 0x16000 % 8 = 0 ∧ translateNow s (queueCtx s 0) 0x16000 0 = .ok (.hbm 0x16000) ∧
    homeRead s 0x16000 8 ≤ 5 ∧ 4 < homeRead s 0x16000 8 := by decide +kernel

theorem met_QueuePackets_skip : let s := ring 1 (writeN [] 0x10000 8 0x10401)
    mayTake s 0 = true ∧ readHead s 0 = .ok 4 1 [0x10401, 0, 0, 0] := by decide +kernel

theorem met_QueuePackets_wait : let s := ring 1 (writeN (writeN [] 0x10000 16 (0x10301 + 0x16000 * 2 ^ 64)) 0x16000 8 1)
    mayTake s 0 = true ∧ readHead s 0 = .ok 3 1 [0x10301, 0x16000, 0, 0] ∧ translateNow s (queueCtx s 0) 0x16000 0 = .ok (.hbm 0x16000) ∧ 0 < homeRead s 0x16000 8 ∧
    (let t := ring 1 (writeN [] 0x10000 16 (0x10301 + 0x16000 * 2 ^ 64))
     mayTake t 0 = true ∧ readHead t 0 = .ok 3 1 [0x10301, 0x16000, 0, 0] ∧ homeRead t 0x16000 8 ≤ 0) := by decide +kernel

/-- A launch packet of one block by the kernel object at 0x12000. -/
def launchRing : State :=
  ring 3 (writeN (writeN (writeN (writeN [] 0x10000 24 (0x30101 + 0x12000 * 2 ^ 64 + (1 + 2 ^ 32) * 2 ^ 128)) 0x12000 16 (1 + 0x14000 * 2 ^ 64)) 0x12040 16 (0xFFFFFFFF * 2 ^ 96))
    0x12050 24 (0xFFFFFFFF * 2 ^ 32 + 0xFFFFFFFF * 2 ^ 96 + 0xFFFFFFFF * 2 ^ 160))

theorem met_QueuePackets_launch : mayTake launchRing 0 = true ∧
    readHead launchRing 0 = .ok 1 3 [0x30101, 0x12000, 1 + 2 ^ 32, 0, 0, 0, 0, 0, 0, 0, 0, 0] ∧ (readKobj launchRing (queueCtx launchRing 0) 0x12000).isSome = true := by decide +kernel

theorem met_QueuePackets_bundle : let s := ring 2 (writeN (writeN [] 0x10000 16 (0x20201 + 2 ^ 64)) 0x10020 32 (0x10501 + 0x11000 * 2 ^ 64 + 0x12000 * 2 ^ 128 + 16 * 2 ^ 192))
    mayTake s 0 = true ∧ readHead s 0 = .ok 2 2 [0x20201, 1, 0, 0, 0x10501, 0x11000, 0x12000, 16] := by decide +kernel

theorem met_Launches_start : let s := { W with launches := [{ id := 3, ctx := 1, nblk := 1, deps := [2] }, { id := 4, ctx := 1, queue := 1, nblk := 1, split := true }], held := [(unitKey 0 0, 2)] }
    (launchOf s 3).id = 3 ∧ mayStart s (launchOf s 3) = true ∧ (launchOf s 3).split = false ∧ mayStart s (launchOf s 4) = true ∧ splitRanges s (launchOf s 4) ≠ [] := by decide +kernel

/-- A started launch of one block, whose context leases cluster 0. -/
def started : State := { W with launches := [{ id := 3, ctx := 1, nblk := 1, rows := 16, allot := 8, gpb := 1, started := true }], held := [(unitKey 0 0, 2)], blocks := [], gangs := [] }

theorem met_Launches_dispatch : (launchOf started 3).id = 3 ∧ (launchOf started 3).started = true ∧ (launchOf started 3).retired = false ∧ (launchOf started 3).mcc = false ∧
    (launchOf started 3).pair = 0 ∧ ctxEnded started (launchOf started 3).ctx = false ∧ (gangTurn started (launchOf started 3) 0).isSome = true := by decide +kernel

/-- The gang finds its place, whichever cluster the dispatcher looks at first. -/
theorem met_Launches_place : (putGang started (launchOf started 3) 0).isSome = true := by
  have site : ∀ (s : State) (n : Need) (f : Nat), findSite s n f = findSite s n (f % 32) := fun s n f => by
    simp only [findSite, Nat.mod_add_mod]
  have all : ∀ f, f < 32 → (putBlocks (launchOf started 3) 5 f [0]
      { started with free := 1, nextId := 6, gangs := [{ id := 5, launch := 3, num := 0 }] }).isSome = true := by decide +kernel
  have h := all (Config.freePlace 0 % 32) (Nat.mod_lt _ (by decide))
  have e : putBlocks (launchOf started 3) 5 (Config.freePlace 0 % 32) [0] { started with free := 1, nextId := 6, gangs := [{ id := 5, launch := 3, num := 0 }] } =
      putBlocks (launchOf started 3) 5 (Config.freePlace 0) [0] { started with free := 1, nextId := 6, gangs := [{ id := 5, launch := 3, num := 0 }] } := by
    simp only [putBlocks]
    rw [← site]
  rw [e] at h
  obtain ⟨u, hu⟩ := Option.isSome_iff_exists.mp h
  have : putGang started (launchOf started 3) 0 = some (updGang u 5 fun g => { g with bars := newBars 4 fun _ => (gangGroups u 5).map Group.tid }) := by
    show (match putBlocks (launchOf started 3) 5 (Config.freePlace 0) [0] { started with free := 1, nextId := 6, gangs := [{ id := 5, launch := 3, num := 0 }] } with
      | none => none
      | some s => some (updGang s 5 fun g => { g with bars := newBars 4 fun _ => (gangGroups s 5).map Group.tid })) = _
    rw [hu]
  rw [this]
  rfl

theorem met_Launches_retire : let s := { W with launches := [{ id := 3, ctx := 1, nblk := 1, ended := 1, started := true, sig := 0x10008 }] }
    (launchOf s 3).id = 3 ∧ (launchOf s 3).started = true ∧ (launchOf s 3).nblk ≤ (launchOf s 3).ended ∧ (launchOf s 3).bundle = 0 ∧
    (∀ h ∈ (launchOf s 3).handles, handleNo h = 0) ∧ s.policies = [] ∧ (launchOf s 3).sig ≠ 0 ∧ translateNow s 1 0x10008 1 = .ok (.hbm 0x10008) := by decide +kernel

theorem met_Launches_signal : (2 ^ 63 : Nat) < 2 ^ 64 ∧ 2 ^ 63 ≤ (2 ^ 63 : Nat) ∧ (0 < 2 ^ 63 - 1 ∧ 2 ^ 63 - 1 < (2 ^ 63 : Nat)) ∧ 255 < 256 := by decide

theorem met_GangMoves : let s := { W with g := { T with resident := false }, gangs := [{ id := 1, launch := 1, blocks := [1], place := .halted }], held := [(unitKey 0 0, 2), (unitKey 1 0, 2)] }
    (gangOf s 1).id = 1 ∧ (gangOf s 1).place = .halted ∧ (gangCores s 1).contains 0 = true ∧ getT 0 s.sidings 0 = 0 ∧ coreHalted s 0 1 = true ∧
    canStay s 1 (launchOf s (gangOf s 1).launch).ctx = true ∧ ctxEnded s (launchOf s (gangOf s 1).launch).ctx = false ∧ s.bad = [] := by decide +kernel

theorem met_GangMoves_save : let s := { W with g := { T with resident := false }, gangs := [{ id := 1, launch := 1, blocks := [1], place := .siding }], sidings := [(0, 1)]
                                               launches := [{ id := 1, ctx := 1, save := 0x10000, savesz := 64 }] }
    (gangOf s 1).id = 1 ∧ (gangOf s 1).place = .siding ∧ saveAreaBad s (launchOf s (gangOf s 1).launch) = none := by decide +kernel

theorem met_ContextEnds : let l : Launch := { id := 3, ctx := 1, sig := 0x10008, started := true }
    let s := { W with launches := [l] }
    firmwareRuns s = true ∧ ctxEnded s 1 = false ∧ s.launches = [l] ∧ s.bundles = [] ∧ l.retired = false ∧ l.bundle = 0 ∧ l.sig ≠ 0 ∧
    translateNow s 1 l.sig 1 = .ok (.hbm 0x10008) ∧ homeRead s 0x10008 8 < 2 ^ 63 := by decide +kernel

theorem met_ContextEnds_migration : let s := { ring 1 [] with csr := (csrMig, 0x100) :: (ring 1 []).csr, migrate := [(4096 + 5, 1)] }
    isReady s = true ∧ ctxExists s 1 = true ∧ ctxEnded s 1 = false ∧ migrationDue s 1 5 = true ∧ partnersApart s 1 5 = true ∧ queueOn s 0 = true ∧ queueCtx s 0 = 1 := by
  decide +kernel

theorem met_Semaphore : let s := { W with csr := (csrSema, 2) :: W.csr }
    W.powered = true ∧ W.reports = [] ∧ ownerPort W = 0 ∧ ownerPort W ≠ 1 ∧ s.powered = true ∧ s.reports = [] ∧ ownerPort s = 2 ∧ ownerPort s ≠ 0 ∧ ownerPort s ≠ 1 := by decide +kernel

theorem met_RegisterWrites_agents : MayWrite W 0 ∧ MayWrite { W with csr := (csrSema, 2) :: W.csr } 2 :=
  ⟨Or.inl (by decide +kernel), Or.inr (by decide +kernel)⟩

theorem met_RegisterWrites : (∀ n ∈ [csrMig, csrRes 4, csrNbr 63, csrRate 0, csrCap 63, csrTbase 3, csrTail 0, csrTailsz 3, csrRegion, csrAw 0, csrAwFmt 15, csrFmRoot, csrQbase 4095, csrRoot 65535],
      csrValueOk n 0 = true ∧ csrAccess n = .rw ∧ n ≠ csrSema ∧ n ≠ csrPkgid ∧ n ≠ csrIntv ∧ isFloor n = false ∧ isCmd n = false ∧ isQcfg n = false ∧ isTenant n = false) ∧
    csrValueOk csrPkgid 0x1FFF = true ∧ csrValueOk csrIntv 18 = true ∧ csrValueOk csrIntv 24 = true ∧ isFloor (csrFloor 63 4) = true ∧
    csrValueOk (csrFloor 63 4) 73 = true ∧ csrValueOk (csrTenant 65535) 0x7F = true ∧ csrValueOk (csrQcfg 4095) (20 + 2 ^ 21) = true ∧
    csrValueOk (csrQcfg 0) 1 = true := by decide +kernel

theorem met_RegisterWrites_floors : let s := { W with curSeq := 1 }
    s.curSeq ≠ 0 ∧ floorSum s (csrFloor 63 4 % 16) - csrRaw s (csrFloor 63 4) % 2 ^ 16 + 72 ≤ unitsOf s (csrFloor 63 4 % 16) ∧
    unitsOf s (csrFloor 63 4 % 16) < floorSum s (csrFloor 63 4 % 16) - csrRaw s (csrFloor 63 4) % 2 ^ 16 + 73 ∧ ctxExists s 65535 = false ∧
    queueOn s 4095 = false ∧ (queueOf s 4095).halted = false ∧
    (let t := { s with queues := [(4095, { halted := true, cause := 0x20 })] }
     queueOn t 4095 = false ∧ (queueOf t 4095).halted = true) := by decide +kernel

def host (port key off size : Nat) : Rma := ⟨port, true, key, off, size, 0⟩

theorem met_HostAccesses : let s := { W with csr := (csrSema, 1) :: W.csr, memKeys := [(7, { ctx := 1, base := 0x10000, len := 0x100 })] }
    s.powered = true ∧ rmaReg (host 0 0 (8 * csrMig) 8) = some (1, csrMig) ∧ portMayRead s csrMig = true ∧ portMayRead s 3 = false ∧ rmaReg (host 0 0 24 8) = some (1, 3) ∧
    portMayWrite s 2 csrMig = false ∧ rmaReg (host 1 0 (8 * csrMig) 8) = some (2, csrMig) ∧ ownerPort s = 1 ∧ isReady s = true ∧ csrValueOk csrMig 0 = true ∧
    rmaReg (host 1 7 0xF8 8) = none ∧ rmaPlace s (host 1 7 0xF8 8) = some (1, 0x100F8) ∧ 0x100F8 % 128 + 8 ≤ 128 ∧ translateNow s 1 0x100F8 0 = .ok (.hbm 0x100F8) ∧
    translateNow s 1 0x100F8 1 = .ok (.hbm 0x100F8) ∧ rmaReg (host 1 7 0xFC 8) = none ∧ rmaPlace s (host 1 7 0xFC 8) = none := by decide +kernel

theorem met_BringUp : State.reset.powered = false ∧
    (∀ k ∈ [1, 2, 3, 4], let s := { State.reset with powered := true, csr := [(0, BitVec.ofNat 64 (2 * k) ^^^ 2)] }
      s.powered = true ∧ isReady s = false ∧ stageOf s = k) ∧ ({ W with reporting := [(1, 5), (2, 5)] } : State).reporting = (1, 5) :: [(2, 5)] ∧ W.reporting = [] := by decide +kernel

theorem met_StepKeepsMemory : fabric.Ok ∧ State.reset.Ok := by
  unfold State.Ok
  decide +kernel

theorem met_EncodingRoundTrip : (Instr.vldD ⟨63, 63, 63, 7, true, 2, true⟩).wf = true ∧
    (Instr.vldD ⟨63, 63, 63, 7, true, 2, true⟩).word = some (0x40 * 2 ^ 25 + (2 ^ 25 - 1) - 2 * 1) ∧ 2 ^ 32 - 1 < 2 ^ 32 ∧
    decodeWord (0x17 * 2 ^ 25 + 5) = .ok .nop := by decide +kernel

/-- R390: of two writes to a word, none, the newer or both go unseen. -/
theorem test_old_code : let es : List OldBytes := [⟨1, 0x10002, 2, 0x1211⟩, ⟨1, 0x10000, 4, 0x04030201⟩]
    wordUnwritten (es.take 0) 0x10000 0x22211211 = 0x22211211 ∧ wordUnwritten (es.take 1) 0x10000 0x22211211 = 0x12111211 ∧
    wordUnwritten (es.take 2) 0x10000 0x22211211 = 0x04030201 := by decide

/-- The word of `NOP` at the program counter, outside a window and inside one. -/
def atNop (w : List Window) (g : Group) : State := { W with g := g, windows := w, tape := [.issue], mem := writeN [] 0x10000 4 (0x17 * 2 ^ 25 + 5) }
def started' (s : State) : State :=
  let s0 := { s with tick := s.tick + 1, tape := [] }
  if windowOf s s.g.tid = none then spillStack s0 s.g else s0
noncomputable def nopMayRun (s : State) : Bool :=
  mayIssue s s.g && s.tape == [.issue] &&
    allows (checkAccess (started' s) s.g ⟨3, 4, 4, false, false⟩ [(0, s.g.pc)]) [(0, 0x10000, .hbm 0x10000)] &&
    homeRoom (started' s) (.hbm 0x10000) && writesTo (started' s) s.g.launch (0x10000 / 128) == [] && (match decodeWord (homeRead (started' s) 0x10000 4) with | .ok i => i == .nop | _ => false) &&
    !isHint (homeRead (started' s) 0x10000 4)

theorem met_StepRunsDecoded : (let s := atNop [] T
     nopMayRun s = true ∧ windowOf s s.g.tid = none ∧ atJoin s.g = false ∧ hasEnded s.g = false) ∧
    nopMayRun (atNop [] { T with landed := true }) = true ∧
    (let s := atNop [{ win 0xFF with target := 0x20000, join := 0x20080 }] T
     nopMayRun s = true ∧ windowOf s s.g.tid = some { win 0xFF with target := 0x20000, join := 0x20080 } ∧
       windowEnded s { win 0xFF with target := 0x20000, join := 0x20080 } = false) := by decide +kernel

/-! Clauses of the statements about engines, matrix commands and packets. -/

theorem met_EngineTokens_queues : let a := { rem 0 with accepted := false }
    let b := { rem 0 with id := 10, accepted := false }
    let m := { rem 0 with id := 11, kind := .mst, accepted := false }
    let q := { rem 0 with id := 12, kind := .qntEnc, accepted := false }
    let s := { W with engines := [a, b, m, q] }
    engineOf s 10 = some b ∧ (∃ x ∈ s.engines, inCopyQueue x.kind = true ∧ x.core = b.core ∧ x.cq = false ∧ x.id < b.id ∧ x.accepted = false) ∧
    engineOf s 11 = some m ∧ inCopyQueue m.kind = false ∧ inQuantQueue m.kind = false ∧ engineOf s 12 = some q ∧ inQuantQueue q.kind = true ∧
    (∀ x ∈ s.engines, inQuantQueue x.kind = true → x.id < 12 → x.accepted = true) ∧ a.cq = false := by decide +kernel

theorem met_EngineTokens_ends : let bundle : Bundle := { id := 7, ctx := 1, left := 2 }
    let e := { rem 2 with cq := true, bundle := 7 }
    let s := { W with engines := [e], bundles := [bundle] }
    let red := { rem 2 with kind := .cpyRed, desc := [0x10000, 0x1FF80, 2 ^ 32 + 128, 2 ^ 16], pos := 1, landed := 0 }
    engineOf s 9 = some e ∧ opRuns s e = true ∧ elemCount e ≤ e.pos ∧ e.inFlight = 0 ∧ e.bundle ≠ 0 ∧ (bundleOf s 7).id = 7 ∧ (bundleOf s 7).retired = false ∧
    1 < (bundleOf s 7).left ∧ elemCount red ≤ red.pos ∧ red.landed ≠ opBytes red ∧ rem 1 ≠ rem 2 ∧ ¬ elemCount (rem 1) ≤ (rem 1).pos := by decide +kernel

theorem met_EngineData_places : let spad := { rem 0 with desc := [0x1FFFFFFF0000040, 0x10000, 32], useRec := true, recBlk := 1, recIdx := 2 }
    let lost := { rem 0 with desc := [0x10000, 0x50000, 32] }
    let held := { rem 0 with accepted := false }
    let s := { W with engines := [spad, { lost with id := 10 }, { held with id := 11 }] }
    engineOf s 9 = some spad ∧ opRuns s spad = true ∧ inAperture 0x1FFFFFFF0000040 = true ∧
    (match spadPlace s (opGroup spad) (0x1FFFFFFF0000040 % 2 ^ 28) 0 16 with
      | .ok l => l == .spad 1 64
      | .error _ => false) = true ∧ s.blocks.any (fun b => b.id == 1) = true ∧
    engineOf s 10 = some { lost with id := 10 } ∧ (match engRead s { lost with id := 10 } 0x50000 16 with
      | .fault _ _ _ => true
      | _ => false) = true ∧ ctxEnded s 1 = false ∧ threadEver s 1 = some s.g ∧ s.g.ctx = lost.ctx ∧
    engineOf s 11 = some { held with id := 11 } ∧ opRuns s { held with id := 11 } = false := by decide +kernel

theorem met_EngineData_alone : let e : EngOp := { id := 9, kind := .cpyRed, tid := 1, ctx := 1, block := 1, gang := 1, desc := [0x10000, 0x1FF80, 2 ^ 32 + 128, 2 ^ 16], accepted := true }
    let s := { W with engines := [e] }
    engineOf s 9 = some e ∧ opRuns s e = true ∧ e.pos < elemCount e ∧ bits (word e.desc 3) 31 16 = 1 ∧ bits (word e.desc 3) 15 0 < 1 := by decide +kernel

/-- A matrix unit of cluster 0 with panels and a queue. -/
def unit0 (q : List MEntry) : State :=
  { W with matrix := [(0, { queue := q, a0 := { rows := 64, k := 1, fmt := 4 }, b0 := { rows := 64, k := 1, fmt := 4 } })] }

theorem met_MatrixWork_stops : let x : MEntry := ⟨8, .mma 2 0 0, 1, true, false, 0⟩
    let e : MEntry := ⟨9, .mst 5 2 0 0 9, 1, false, false, 0⟩
    let b : MEntry := ⟨9, .mma 3 0 1, 1, false, false, 0⟩
    let s := unit0 [x, e]
    let t := unit0 [x, b]
    let u := unit0 [x]
    let v := { unit0 [e] with engines := [{ id := 9, kind := .mst }] }
    let w := { unit0 [e] with bad := [(6, 2)] }
    (matrixOf s 0).queue = [x] ++ e :: [] ∧ conflicts x.cmd e.cmd = true ∧ (matrixOf t 0).queue = [x] ++ b :: [] ∧ conflicts x.cmd b.cmd = false ∧
    mismatch (matrixOf t 0) b.cmd = true ∧ thread? t 1 = some t.g ∧ ctxEnded t t.g.ctx = false ∧ (∀ y ∈ (matrixOf u 0).queue, y.running = true) ∧
    (matrixOf v 0).queue = [] ++ e :: [] ∧ engineOf v 9 = some { id := 9, kind := .mst } ∧ mismatch (matrixOf v 0) e.cmd = false ∧ lostTile v 0 e.cmd = false ∧
    (matrixOf w 0).queue = [] ++ e :: [] ∧ lostTile w 0 e.cmd = true ∧ gangHere w 1 = true := by decide +kernel

theorem met_MatrixWork_completes : let run (c : MCmd) : MEntry := ⟨9, c, 1, true, false, 0⟩
    let d0 : BitVec 64 := BitVec.ofNat 64 (16 * 2 ^ 32 + 0x04 * 2 ^ 48)
    let d1 : BitVec 64 := BitVec.ofNat 64 (2 + 8 * 2 ^ 8)
    let load : EngOp := { id := 9, kind := .panel, tid := 1, core := 96, ctx := 1, block := 1, gang := 1, accepted := true }
    let s (c : MCmd) (es : List EngOp) (r : Arrival) : State :=
      { unit0 [run c] with engines := es, blocks := [{ id := 1, gang := 1, nbanks := 1, recn := 4, recs := [(3, r)], threads := [1] }] }
    let fed : Arrival := { chunks := 3 }
    (∀ c ∈ [.mmaC 1 2 0, .mmaS 1 0, .mst 5 2 0 0 12, .mwait 3 1, .load false 1 d0 d1],
      (matrixOf (s c [load] {}) 0).queue.find? (fun x => x.id == 9 && x.running) = some (run c) ∧ gangHere (s c [load] {}) 1 = true ∧
      thread? (s c [load] {}) 1 = some (s c [load] {}).g ∧ (s c [load] {}).g.wait ≠ .draining) ∧
    (engineOf (s (.mst 5 2 0 0 12) [{ load with id := 12 }] {}) 12).isSome = true ∧ engineOf (s (.mst 5 2 0 0 12) [] {}) 12 = none ∧
    waitMet (recordAt (s (.mwait 3 1) [] {}) 1 3) 1 = false ∧ waitMet (recordAt (s (.mwait 3 1) [] fed) 1 3) 1 = true ∧
    (let t := s (.load false 1 d0 d1) [load] {}
     engineOf t 9 = some load ∧ load.fault = none ∧ isScaled (bits d0 55 48) = false ∧ bits d1 17 8 ≤ 512 ∧ (blockOf t 1).threads ≠ [] ∧
       ∀ r, r < 2 → (bits d0 27 0 + r * bits d0 47 32) % 2 ^ 28 + panelRow 4 8 ≤ 2 ^ 28 ∧
         (match engRead t load (apBase + (bits d0 27 0 + r * bits d0 47 32) % 2 ^ 28) (panelRow 4 8) with
           | .ok x => x == 0
           | _ => false) = true) ∧
    ({ load with fault := some {} } : EngOp).fault.isSome = true := by decide +kernel

/-- `fabric` where a multicast store or a contribution has been performed already. -/
def once (p : Packet) : State := { fabric with recvSeq := [(performedKey p, 1)] }

theorem met_StreamOrder_once : (∀ p ∈ [from5 0x0A, from5 0x0B], streamed p.kind = false ∧ getT 0 (once p).recvSeq (performedKey p) ≠ 0 ∧ fabricUp (once p) = true) ∧
    (from5 0x0B).dst = pkgNum fabric := by decide +kernel

theorem met_LinePackets_monitor : let m (armed woken : Bool) : Monitor := ⟨1, 0, .peer 5 0x20088, 5, 77, armed, woken, 0x20088⟩
    let k : Kept := ⟨{ packet 0x01 5 1 0x20080 with src := 3 }, 0, 1, 0x20088, false, 0, 512⟩
    let p : Packet := { answer 0x02 with mask := 0, data := 77 * 2 ^ 64 }
    let s (a w : Bool) : State := { W with g := { T with wait := .monitor }, monitors := [m a w], kept := [k] }
    (∀ x ∈ [(true, false), (false, true), (false, false)], requestOf (s x.1 x.2) p 0x01 = some k ∧ isRefused p = false ∧ k.op = 0 ∧ k.core ≠ noCore ∧
      (s x.1 x.2).monitors.find? (fun y => y.tid == k.tid && lineKey y.loc == lineKey (.peer p.src k.packet.offset)) = some (m x.1 x.2) ∧
      thread? (s x.1 x.2) k.tid = some (s x.1 x.2).g ∧ unreachable (s x.1 x.2) 5 = 0 ∧ (s x.1 x.2).vetting = []) ∧
    BitVec.ofNat 64 (p.data % 2 ^ 1024 / 2 ^ (8 * lineOff (m false false).loc) % 2 ^ 64) = (m false false).old ∧ (m true false).d % 64 ≠ 0 := by decide +kernel

theorem met_WritePackets_masks : let whole := { from5 0x0F with mask := span 126 2 }
    let part := { from5 0x0F with mask := span 125 3, operand := BitVec.ofNat 64 (2 ^ 63 + 0x3F) }
    let aliased : State := { fabric with csr := (csrAw 0, BitVec.ofNat 64 (2 ^ 63 + 0x200000)) :: fabric.csr }
    whole.operand.getLsbD 63 = false ∧ whole.len = 2 ∧ part.operand.getLsbD 63 = true ∧ part.mask = span (firstByte part.mask) (byteCount part.mask) ∧
    0 < byteCount part.mask ∧ byteCount part.mask ≤ 3 ∧ firstByte part.mask + byteCount part.mask ≤ 128 ∧ underWindow fabric 0x200080 128 = false ∧
    fabricPlace aliased 1 0x80 false true = fabricPlace fabric 1 0x80 false true := by decide +kernel

theorem met_AtomPackets_parts : let p : Packet := { from5 0x06 with mask := 0xFF00 }
    hasMore { p with data := 2 ^ 10 } = true ∧ hasMore p = false ∧ fabricPlace W 1 (p.offset + firstByte p.mask) true true = none ∧ p.data % 256 < 9 ∧
    ({ p with data := 10 + 3 * 2 ^ 8 + 2 ^ 16 } : Packet).data % 256 = 10 ∧ byteCount p.mask = 8 := by decide +kernel

theorem met_AtomPackets_refused : let refused : Packet := { answer 0x09 with mask := BitVec.ofNat 128 (2 ^ 100) }
    let t := { W with g := { T with wait := .flush 5 }, kept := [asked 0x08 0] }
    requestOf t refused 0x08 = some (asked 0x08 0) ∧ isRefused refused = true ∧ windowOf t 1 = none ∧ thread? t 1 = some t.g ∧ t.g.wait = .flush refused.src ∧
    unreachable t 5 = 0 ∧ t.vetting = [] ∧ hasMore (asked 0x06 0).packet = false ∧ (asked 0x06 0).core ≠ noCore := by decide +kernel

theorem met_WritePackets_prefix : let p : Packet := { from5 0x0B with mask := BitVec.ofNat 128 (4 * 2 ^ 25), operand := 0x20000 }
    p.operand.toNat % 2 ^ 16 = 0 ∧ 0 < p.operand.toNat / 2 ^ 16 % 2 ^ 16 ∧ p.operand.toNat / 2 ^ 16 % 2 ^ 16 + 1 < p.mask.toNat / 2 ^ 25 % 2 ^ 13 ∧ p.len = 2 ∧
    (rem 0).dead = false := by decide +kernel

/-- The packet is in its turn. -/
def turn (s : State) (p : Packet) : Bool :=
  fabricUp s && (p.dst == pkgNum s || p.kind == 0x0A) && p.seq == getT 0 s.recvSeq (streamKey p) && getT 0 s.recvSeq (performedKey p) == 0

theorem turn_is {s : State} {p : Packet} (h : turn s p = true) : InTurn s p := by
  simp only [turn, Bool.and_eq_true, Bool.or_eq_true, beq_iff_eq] at h
  exact inTurn h.1.1.1 h.1.1.2 h.1.2 h.2

theorem met_LinkEvents_more : let s := { W with links := [(16, { training := true, fails := 2 }), (15, { up := false })] }
    busyPeers s = [] ∧ (linkOf s 16).training = true ∧ 2 ≤ (linkOf s 16).fails ∧ (linkOf s 15).up = false ∧ (linkOf s 15).training = false ∧
    State.reset.powered = false ∧ busyPeers W = [] ∧ (linkOf W 17).up = true ∧ (linkOf W 17).training = false ∧ (17 : Nat) < 18 := by decide +kernel

theorem met_PlaneEvents_more : let s := { W with kept := [asked 0x03 0] }
    (∃ k ∈ s.kept, k.packet.kind ≠ 0x0A ∧ k.packet.dst = 5 ∧ k.packet.via = 0 ∧ k.packet ∉ s.outbox) ∧ (deadPlanes s 5).getLsbD 1 = false ∧
    (¬ ∃ k ∈ W.kept, k.packet.kind ≠ 0x0A ∧ k.packet.dst = 5 ∧ k.packet.via = 0 ∧ k.packet ∉ W.outbox) ∧ (deadPlanes W 5).getLsbD 0 = false ∧ W.sent = [] ∧
    (let t := { W with sent := [(asked 0x03 0).packet] }
     (∃ p ∈ t.sent, p.dst = 5 ∧ p.kind ≠ 0x00 ∧ p.kind ≠ 0x0A) ∧ (∀ k ∈ t.kept, k.packet.dst ≠ 5) ∧ t.flagWrites = [] ∧ waitersAt t 5 = [] ∧ t.jsCmds = []) := by decide +kernel

theorem met_PlaneEvents_open : let q := { sequence with headerAcked := false }
    let c : JsCmd := ⟨q.die, 0x1000, true, q.id, 0⟩
    let s := { W with seqs := [q], jsCmds := [c], sent := [(asked 0x0D 0).packet], kept := [asked 0x0D 0] }
    (∃ p ∈ s.sent, p.dst = 5 ∧ p.kind ≠ 0x00 ∧ p.kind ≠ 0x0A) ∧ (∀ k ∈ s.kept, k.packet.dst = 5 → k.packet.kind = 0x0D) ∧ s.flagWrites = [] ∧ waitersAt s 5 = [] ∧
    c.begun = true ∧ c.seq = q.id ∧ c.die = q.die ∧ c.value / 2 ^ 12 % 4 = 1 ∧ c.tid = 0 ∧ q.isOpen = true ∧ q.headerAcked = false ∧ q.target = none ∧
    q.reassign = false ∧ q.partner = 5 := by decide +kernel

theorem met_PlaneEvents_acknowledged : (∀ x ∈ [(0x03, 0), (0x0A, 2 ^ 33), (0x0B, 2 ^ 34)], let s := { W with kept := [asked x.1 0] }
      s.flagWrites = [] ∧ s.ended = [] ∧ (asked x.1 0).core ≠ noCore ∧
      s.kept.find? (fun k => k.packet.kind == x.1 && k.packet.dst == 5 && k.packet.plane == 0 && k.packet.seq == 0 && (x.1 == 0x03 || !k.flag)) = some (asked x.1 0)) := by
  decide +kernel

theorem met_ProbeEvents : let h : PartnerHdr := ⟨0, 77, 5, 0, [], false, [], false⟩
    let q := { sequence with records := [⟨0, 4, 1, 0, 5, 0, false, false, true, false, none⟩] }
    let s := { W with partners := [h], seqs := [q] }
    (∃ h ∈ s.partners, h.src = 5 ∧ h.stopped = false) ∧ seqOf s q.id = some q ∧ seqDest q = 5 ∧ (∃ r ∈ q.records, r.acked = false) ∧
    ¬ (q.reassign = true ∧ q.target = none) ∧ (peerOf s 5).probing = false ∧ (peerOf s 5).failed = false ∧ fabricUp s = true ∧
    (let t := { s with peers := [(5, { failed := true })] }
     (peerOf t 5).failed = true ∧ (peerOf t 5).probing = false ∧ seqOf t q.id = some q) ∧
    (let t := { W with peers := [(5, { probing := true, probes := 1, plane := 17 })] }
     (peerOf t 5).plane < 18 ∧ (peerOf t 5).probes < 2) ∧
    (let t := { s with csr := (csrRegion, 0x100000001) :: W.csr, peers := [(5, { probing := true, probes := 2, plane := 0 })] }
     2 ≤ (peerOf t 5).probes ∧ t.vetting = [] ∧ t.flagWrites = [] ∧ t.jsCmds = [] ∧ (∀ k ∈ t.kept, k.packet.dst ≠ 5) ∧ waitersAt t 5 = [] ∧
     (t.seqs.map Seq.id).Nodup ∧ t.partners = [h] ∧ h.src = 5 ∧ h.stopped = false ∧ regionBase t ≠ none) ∧
    (peerOf W 5).probing = false ∧ (from5 0x12).operand ≠ 1 ∧ W.reorder.contains (from5 0x12) = false ∧ ({ from5 0x12 with operand := 1 } : Packet).operand = 1 ∧
    (let v := { from5 0x0D with src := 6, mask := 77, operand := 1 + 16 * 6 }
     v ∈ ({ W with vetting := [v] } : State).vetting ∧ oldPartner v = 5 ∧ v.src + 1 = ({ from5 0x12 with operand := 15 } : Packet).operand.toNat / 2) := by
  decide +kernel

/-- A header that source 6 offers on the failure of partner 5. -/
def offered : Packet := { from5 0x0D with src := 6, mask := 77, operand := 1 + 16 * 6, data := 5 }

/-- R410: the old partner is probed about the source, and its answer that it has taken the sequence over fences the source. -/
theorem test_vetting : after (.jrec offered) W (fun t => (t.vetting, t.sent.map fun q => (q.kind, q.dst, q.operand))) =
      some ([offered], [(0x11, 5, 7)]) ∧
    after (.prsp { from5 0x12 with operand := 15 }) { W with vetting := [offered] } (fun t => (t.vetting, t.sent.map fun q => (q.kind, q.dst, q.operand))) =
      some ([], [(0x0E, 6, BitVec.ofNat 64 (1 + 2 * 15 + 32 * 6))]) := by decide +kernel

/-- R410: a JACK that says so, and nothing further is accepted. -/
theorem test_fenced : after (.jack { from5 0x0E with mask := 77, operand := 31 }) { W with seqs := [sequence] } (fun t => t.seqs.map Seq.fenced) = some [true] ∧
    after (.partnerReassign 2 6 true) { W with seqs := [sequence] } (fun t => (t.seqs.map Seq.hold, t.sent.map fun q => (q.dst, q.operand.toNat % 16))) =
      some ([true], [(5, 7), (6, 1)]) := by decide +kernel

/-- The sequence with a record at position 3 of kind 2 that a thread has just asked for, in replay mode with the records given. -/
def replaying (l : List JRecord) (h : Option Nat) : Seq :=
  { sequence with work := [.record 1 5 3 3 2 0 9], replay := true, records := l, horizon := h }
def keptRecord (x : Nat) : JRecord := ⟨0, 3, 2, 0, 9, x, true, true, false, false, none⟩

theorem met_RecordAccepted_replay : let r := keptRecord (recordImage 77 3 2 0 9)
    let bad := keptRecord 1
    let key (r : JRecord) : Bool := r.pos == 3 && r.kind == 2 && r.index == 0
    let s (q : Seq) : State := { W with g := { T with wait := .journal 2 }, seqs := [q] }
    (∀ q ∈ [replaying [r] none, replaying [bad] none, replaying [] (some 3), replaying [] (some 2), replaying [] none],
      seqOf (s q) q.id = some q ∧ q.work = [.record T.tid 5 3 3 2 0 9] ∧ q.fenced = false ∧ q.closing = false ∧ q.emits = [] ∧ q.truncs = [] ∧
      thread? (s q) T.tid = some (s q).g ∧ q.replay = true ∧ q.moved = true ∧ ctxEnded (s q) T.ctx = false ∧ buffered (s q) q.die < 16384) ∧
    (replaying [r] none).records.find? key = some r ∧ soundImage r.image = true ∧ (replaying [bad] none).records.find? key = some bad ∧ soundImage bad.image = false ∧
    belowHorizon (replaying [] (some 3)) 3 = true ∧ belowHorizon (replaying [] (some 2)) 3 = false ∧ belowHorizon (replaying [] none) 3 = false ∧
    (let q := { replaying [r] none with replay := false }
     q.records.any key = true ∧ q.replay = false ∧ seqOf (s q) q.id = some q) := by decide +kernel

theorem met_PartnerTakes : (let p : Packet := { from5 0x0D with len := 1, operand := 64, data := 7 + 2 ^ 256 * 8 }
      p.len = 1 ∧ p.operand.toNat / 16 = 4 ∧ p.data % 2 ^ 256 = 7 ∧ p.data / 2 ^ 256 % 2 ^ 256 = 8) ∧
    (let s := { W with csr := (csrRegion, 0x100000001) :: W.csr, partners := [⟨65535, 77, 5, 4, [(3, 0)], false, [], false⟩] }
     let h : PartnerHdr := ⟨65535, 77, 5, 4, [(3, 0)], false, [], false⟩
     let r (n need : Nat) : Packet := { from5 0x0D with len := 1, mask := BitVec.ofNat 128 (77 + need * 2 ^ 64), operand := BitVec.ofNat 64 (16 * n), data := 7 + 4 * 2 ^ 96 }
     partnerHdr s 5 77 = some h ∧ hdrAt s 65535 = some h ∧ h.index < 65536 ∧ h.stopped = false ∧ regionBase s = some (2 ^ 32) ∧ h.early = [] ∧
     turn s (r 4 4) = true ∧ (r 4 4).operand.toNat % 16 = 0 ∧ neededBy (r 4 4) ≤ h.next ∧ recordsIn (r 4 4) = [(h.next, 7 + 4 * 2 ^ 96)] ∧
     lowestFree (s.partners.flatMap fun x => x.recs.map fun r => r.2) regionRecords = some 1 ∧ (7 + 4 * 2 ^ 96 : Nat) / 2 ^ 96 % 2 ^ 8 = 4 ∧
     turn s (r 5 5) = true ∧ h.next < neededBy (r 5 5) ∧
     (∀ sort ∈ [2, 3], let p : Packet := { from5 0x0D with mask := 77, operand := BitVec.ofNat 64 (sort + 16 * 9), data := 9 * 2 ^ 128 + 9 * 2 ^ 96 }
       turn s p = true ∧ p.operand.toNat % 16 = sort ∧ partnerHdr s p.src (BitVec.ofNat 64 (p.mask.toNat % 2 ^ 64)) = some h) ∧
     (let p : Packet := { from5 0x0D with mask := 77, operand := 1, data := 5 }
      turn W p = true ∧ partnerHdr W 5 77 = none ∧ regionBase W = none)) := by decide +kernel

theorem met_EmitDelivery_jacks : let e (ph : EmitPhase) : Emit := ⟨1, 5, 3, 10, 0, 1, ph⟩
    let q (ph : EmitPhase) : Seq := { sequence with emits := [e ph] }
    let s (ph : EmitPhase) : State := { W with seqs := [q ph], g := { T with kEmpty := 2 ^ 5, wait := if ph = .intent then .emit 2 else .none } }
    let p (n : Nat) : Packet := { from5 0x0E with mask := 77, operand := BitVec.ofNat 64 (2 * n + 32 * 10) }
    (∀ ph ∈ [EmitPhase.intent, .settle], turn (s ph) (p 2) = true ∧ turn (s ph) (p 3) = true ∧ (s ph).partners = [] ∧ seqOf (s ph) 2 = some (q ph) ∧
      (s ph).seqs.find? (fun q => q.isOpen && q.seqid.toNat == (p 2).mask.toNat % 2 ^ 64 && seqDest q == (p 2).src) = some (q ph) ∧
      (q ph).fenced = false ∧ (q ph).reassign = false ∧ (q ph).closing = false ∧ (q ph).truncs = [] ∧ thread? (s ph) 1 = some (s ph).g ∧
      kIsEmpty (s ph).g (kAt 5) = true) ∧
    (p 2).operand.toNat = 2 * 2 + 32 * 10 ∧ (p 3).operand.toNat = 2 * 3 + 32 * 10 ∧
    (let r := { q .send with reassign := true }
     let f := { q .send with fenced := true }
     seqOf { W with seqs := [r] } 2 = some r ∧ seqOf { W with seqs := [f] } 2 = some f ∧ f.fenced = true ∧ (e .intent).phase ≠ .send) := by decide +kernel

theorem met_Steady_jack : Steady { W with seqs := [sequence] } (from5 0x0E) := by
  unfold Steady
  decide +kernel

theorem met_Reassignment_more : let q := { sequence with reassign := true, headerAcked := false, target := some 6 }
    let s := { W with seqs := [sequence] }
    let n := { sequence with fenced := true }
    seqOf { W with seqs := [q] } 2 = some q ∧ q.reassign = true ∧ q.headerAcked = false ∧ ¬ (sequence.reassign = true ∧ sequence.headerAcked = false) ∧ sequence.reassign = false ∧
    (peerOf s sequence.partner).failed = false ∧ q.isOpen = true ∧ q.fenced = false ∧ (q.headerAcked = true ∨ q.reassign = true) ∧
    pkgNum s = 3 ∧ sequence.partner = 5 ∧ seqOf { W with seqs := [n] } 2 = some n ∧ n.fenced = true ∧ fabricUp s = true ∧ unreachable s 4095 = 0 := by decide +kernel

theorem met_SequenceCommands_more : let c (op slot : Nat) : JsCmd := ⟨3, 2 ^ 12 * op + slot, false, 0, 0⟩
    let d (n : Nat) : State := { W with csr := (csrTbase 3, 0x10000) :: (csrTenant 1, 0x40) :: W.csr, mem := writeN [] (0x10000 + 64 * 4095) 16 (77 + n * 2 ^ 64 + 2 ^ 80) }
    let s (op : Nat) (n : Nat) : State := { d n with jsCmds := [c op 4095] }
    let desc (t : State) : Nat := homeRead t (csrRaw t (csrTbase 3) + 64 * 4095) 64
    (∀ op ∈ [0, 1, 2, 3], (c op 4095).value / 2 ^ 12 % 4 = op ∧ (c op 4095).value % 2 ^ 12 = 4095 ∧ (s op 5).jsCmds = [c op 4095]) ∧
    openResult (s 1 3) 3 4095 (desc (s 1 3)) = 4 ∧ openResult (s 1 5) 3 4095 (desc (s 1 5)) = 0 ∧ desc (s 1 5) / 2 ^ 64 % 2 ^ 12 = 5 ∧
    (let t := { s 1 5 with peers := [(5, { failed := true })] }
     openResult t 3 4095 (desc t) = 0 ∧ unreachable t (desc t / 2 ^ 64 % 2 ^ 12) ≠ 0) ∧
    (s 2 5).seqs.find? (fun q => q.isOpen && q.die == 3 && q.slot == 4095) = none ∧
    (let q := { sequence with reassign := true }
     let t := { W with jsCmds := [⟨0, 0x2000, false, 0, 0⟩], seqs := [q] }
     t.seqs.find? (fun q => q.isOpen && q.die == 0 && q.slot == 0) = some q ∧ seqOf t 2 = some q ∧
       ¬ (q.work = [] ∧ q.emits = [] ∧ (∀ r ∈ q.records, r.acked = true) ∧ q.reassign = false)) := by decide +kernel

theorem met_SequenceCommands_answers : let q := { sequence with headerAcked := false }
    let c : JsCmd := ⟨0, 0x1000, true, 2, 0⟩
    let s := { W with seqs := [q], jsCmds := [c] }
    (∀ b ∈ [true, false], let p : Packet := { from5 0x0E with mask := 77, operand := BitVec.ofNat 64 (2 + b.toNat) }
      turn s p = true ∧ p.operand.toNat = 2 + b.toNat ∧
      s.seqs.find? (fun q => q.isOpen && q.seqid.toNat == p.mask.toNat % 2 ^ 64 && seqDest q == p.src) = some q) ∧
    seqOf s q.id = some q ∧ s.partners = [] ∧ q.fenced = false ∧ q.reassign = false ∧ q.closing = false ∧ q.truncs = [] ∧ q.emits = [] ∧ c.begun = true ∧ c.seq = q.id ∧
    c.die = q.die ∧ c.value / 2 ^ 12 % 4 = 1 ∧ c.tid = 0 := by decide +kernel

theorem met_MarketIntervals_changes : let s (held : Table Nat) : State := { W with csr := (csrNbr 63, 0x1005) :: W.csr, nextLeases := some [], curSeq := 1, held := held, gangs := [{ id := 1, launch := 1, blocks := [1] }] }
    (s []).nextLeases = some [] ∧ (s []).policies = [] ∧ (s []).gangs = [{ id := 1, launch := 1, blocks := [1] }] ∧ neighbours (s []) = [5] ∧ unreachable (s []) 5 = 0 ∧
    (5 : Nat) ≠ pkgNum (s []) ∧ fabricUp (s []) = true ∧ isReady State.reset = false ∧ (s []).nextLeases.isSome = true ∧ W.curSeq = 0 ∧ (s []).curSeq ≠ 0 ∧ W.nextLeases = none ∧
    (∀ g ∈ threads W, g.wait ≠ .command csrIntv) := by decide +kernel

theorem met_MarketEvents_more : ({ W with sliced := true } : State).sliced = true ∧ W.sliced = false ∧ isReady State.reset = false ∧
    turn { W with csr := (csrNbr 63, 0x1005) :: W.csr } (from5 0x0C) = true ∧ turn W (from5 0x0C) = true ∧ (neighbours W).contains 5 = false := by decide +kernel

theorem met_Notifies_order : let s := { W with notifies := [(4095, 7, noCore + 1), (0, 9, noCore + 1)] }
    let t := { W with notifies := [(4095, 7, 3), (4095, 9, 3)] }
    s.notifies = [(4095, 7, noCore + 1), (0, 9, noCore + 1)] ∧ ((4095 : Nat), (7 : Nat)) ≠ (0, 9) ∧ noCore ≤ noCore + 1 ∧ ((4095 : Nat), (7 : Nat)) ≠ (4095, 9) ∧
    t.notifies = [(4095, 7, 3), (4095, 9, 3)] ∧ (queueOf W 4095).moved = none ∧ queueOn W 4095 = false ∧
    (let u := { W with notifies := [(4095, 7, noCore)] }
     u.policies = [] ∧ queueOn u 4095 = false) := by decide +kernel

theorem met_QueuePackets_heads : mayTake W 0 = false ∧ readHead W 0 = .none ∧
    (let s := ring 1 []
     mayTake s 0 = true ∧ readHead s 0 = .notYet) ∧
    (let s := ring 1 (writeN [] 0x10000 8 0x10901)
     mayTake s 0 = true ∧ (match readHead s 0 with | .bad _ => true | _ => false) = true) ∧
    (let s := ring 1 (writeN [] 0x10000 8 0x10401)
     readHead s 0 = .ok 4 1 [0x10401, 0, 0, 0] ∧ (4 : Nat) ≠ 1) := by decide +kernel

theorem met_WaitPolls_fault : let s := { ring 1 [] with csr := (csrRoot 1, 0x1000) :: (ring 1 []).csr, queues := [(0, { widx := 1, waitSig := some (0x50000, 5) })] }
    (queueOf s 0).waitSig = some (0x50000, 5) ∧ queueLive s 0 = true ∧ (match translateNow s (queueCtx s 0) 0x50000 0 with | .fault _ => true | _ => false) = true ∧
    (queueOf W 0).waitSig = none := by decide +kernel

theorem met_Launches_more : let s := { W with launches := [{ id := 3, ctx := 1, nblk := 1, deps := [2] }, { id := 2, ctx := 1, nblk := 1 }] }
    (launchOf s 3).id = 3 ∧ mayStart s (launchOf s 3) = false ∧
    (let t := { started with launches := [{ id := 3, ctx := 1, nblk := 1, started := true, next := 1 }] }
     (launchOf t 3).id = 3 ∧ gangTurn t (launchOf t 3) 0 = none ∧ getT 0 t.leaving 1 = 0) ∧
    (let t := { W with launches := [{ id := 3, ctx := 1, nblk := 1, ended := 1, started := true, bundle := 4 }], bundles := [{ id := 4, ctx := 1, left := 2 }] }
     (launchOf t 3).bundle ≠ 0 ∧ (bundleOf t (launchOf t 3).bundle).id = 4 ∧ (bundleOf t 4).retired = false ∧ 1 < (bundleOf t 4).left ∧
       (launchOf t 3).nblk ≤ (launchOf t 3).ended ∧ (launchOf t 3).pair = 0 ∧ (∀ h ∈ (launchOf t 3).handles, handleNo h = 0)) ∧
    (let t := { W with launches := [{ id := 3, ctx := 1, nblk := 1, ended := 1, started := true }] }
     (launchOf t 3).bundle = 0 ∧ (launchOf t 3).sig = 0 ∧ (launchOf t 3).nblk ≤ (launchOf t 3).ended ∧ t.policies = []) ∧ ¬ (launchOf W 1).nblk ≤ (launchOf W 1).ended := by
  decide +kernel

/-- A gang of blocks on two cores, halted. -/
def twoCores (g : Gang) : State :=
  { W with g := { T with resident := false }, others := [{ T with tid := 2, core := 1, resident := false }], gangs := [g], held := [(unitKey 0 0, 2), (unitKey 1 0, 2)] }
def halted : Gang := { id := 1, launch := 1, blocks := [1], place := .halted }

theorem met_GangMoves_siding : gangCores (twoCores halted) 1 = [0, 1] ∧ (∃ c ∈ gangCores (twoCores halted) 1, c ≠ 0 ∧ imageOut (twoCores halted) 1 c = false) ∧
    coreHalted (twoCores halted) 0 1 = true ∧
    (let s := { twoCores halted with sidings := [(1, 1)] }
     coreHalted s 0 1 = true ∧ getT 0 s.sidings 0 = 0 ∧ (∀ c ∈ gangCores s 1, c = 0 ∨ imageOut s 1 c = true)) ∧
    (let s := { twoCores halted with sidings := [(0, 7)] }
     getT 0 s.sidings 0 ≠ 0) := by decide +kernel

theorem met_GangMoves_depot : let s (g : Gang) (save : Nat) : State := { twoCores g with sidings := [(0, 1)], launches := [{ id := 1, ctx := 1, save := save, savesz := 64 }] }
    let bad := s halted 0x50000
    let partly := s halted 0x10000
    (gangOf partly 1).id = 1 ∧ (gangOf partly 1).tried = false ∧ (∃ e ∈ partly.sidings, e.2 = 1) ∧ saveAreaBad partly (launchOf partly 1) = none ∧
    (gangOf partly 1).place ≠ .siding ∧
    (gangOf bad 1).tried = false ∧ saveAreaBad bad (launchOf bad 1) ≠ none ∧ bad.ended = [] ∧
    (gangOf (s { halted with tried := true } 0x50000) 1).tried = true := by decide +kernel

theorem met_GangMoves_resume : let saved : Gang := { halted with place := .saved }
    let s (g : Gang) : State := { twoCores g with launches := [{ id := 1, ctx := 1, save := 0x10000, savesz := 64 }] }
    let bad := { s saved with bad := [(7, 1)] }
    (∀ g ∈ [saved, halted], (gangOf (s g) 1).id = 1 ∧ (gangOf (s g) 1).place ≠ .resident ∧ (gangOf (s g) 1).place ≠ .ended ∧ ctxEnded (s g) 1 = false ∧
      getT 0 (s g).leaving 1 = 0 ∧ saveAreaBad (s g) (launchOf (s g) 1) = none) ∧
    canStay (s halted) 1 1 = true ∧ resumeGang (s halted) 1 1 = some (wakeGang (s halted) 1) ∧ (s halted).bad.contains (7, 1) = false ∧ bad.bad.contains (7, 1) = true ∧
    resumeGang (s { saved with lost := [3] }) 1 1 = none ∧ (gangOf W 1).place = .resident ∧
    (let t := { twoCores { saved with tried := true } with launches := [{ id := 1, ctx := 1, save := 0x50000, savesz := 64 }] }
     (gangOf t 1).tried = true ∧ (gangOf t 1).place = .saved ∧ saveAreaBad t (launchOf t 1) ≠ none) := by decide +kernel

theorem met_ContextEnds_causes : let l : Launch := { id := 3, ctx := 1, sig := 0x10008, started := true }
    let s := { W with launches := [l], causes := [⟨1, 0x09, 2, 0, 3⟩] }
    firmwareRuns s = true ∧ ctxEnded s 1 = false ∧ (∃ r ∈ s.causes, r.ctx = 1 ∧ r.cause = 0x09 ∧ r.launch = 3) ∧ translateNow s 1 l.sig 1 = .ok (.hbm 0x10008) ∧ homeRead s 0x10008 8 < 2 ^ 63 ∧
    ¬ (∃ r ∈ W.causes, r.ctx = 1 ∧ r.cause = 0x09) := by decide +kernel

theorem met_ContextEnds_leaving : let base := { ring 1 [] with csr := (csrMig, 0x100) :: (ring 1 []).csr, gangs := [{ halted with place := .saved }] }
    let s := { base with leaving := [(1, 6)] }
    let b := { s with gangs := [halted] }
    (∀ t ∈ [s, b], isReady t = true ∧ ctxExists t 1 = true ∧ (5 : Nat) ≠ pkgNum t ∧ ctxEnded t 1 = false ∧ partnersApart t 1 5 = true ∧ getT 0 t.leaving 1 = 5 + 1) ∧
    readyToLeave s 1 = true ∧ readyToLeave b 1 = false ∧ migrationDue base 1 5 = false ∧ getT 0 base.leaving 1 = 0 ∧
    (let t := { base with migrate := [(4096 + 5, 1)], gangs := [{ id := 1, launch := 1, blocks := [1] }] }
     migrationDue t 1 5 = true ∧ (gangOf t 1).place = .resident ∧ (launchOf t 1).ctx = 1) ∧
    (let im : Image := ⟨1, 5, 3, 9, [], [], [T], [], [], [], [], [], [], [], [], [], [], [], [3, 4, 5, 6, 7], [], []⟩
     let t := { base with inbound := [im] }
     t.inbound.find? (fun im => im.ctx == 1) = some im ∧ pkgNum t = 3) := by decide +kernel

theorem met_Semaphore_more : let s := { W with reports := [9] }
    let t := { W with notifies := [(0, 1, noCore + 1)] }
    s.reports = 9 :: [] ∧ s.reporting = [] ∧ ownerPort s = 0 ∧ (∀ n ∈ s.notifies, n.2.2 ≠ noCore + 1) ∧ ¬ (∀ n ∈ t.notifies, n.2.2 ≠ noCore + 1) ∧ t.powered = true := by
  decide +kernel

theorem met_HostAccesses_more : let s := { W with notifies := [(0, 1, noCore + 1)] }
    let r := host 0 0 (8 * csrNotify 4095) 8
    rmaReg r = some (1, csrNotify 4095) ∧ r.off % 8 = 0 ∧ r.size = 8 ∧ isReady s = true ∧ csrValueOk (csrNotify 4095) (r.data % 2 ^ 64) = true ∧
    ¬ (∀ y ∈ s.notifies, y.2.2 ≠ noCore + 1) ∧ isNotify csrMig = false ∧ rmaReg (host 0 0 (8 * csrMig) 8) = some (1, csrMig) ∧ isReady State.reset = false := by decide +kernel
/-! Clauses of the statements about packets, journals, launches and gangs, continued. -/

theorem met_StreamOrder_kinds : (∀ k ∈ [0x01, 0x02, 0x03, 0x04, 0x05, 0x06, 0x07, 0x08, 0x09, 0x0C, 0x0D, 0x0E, 0x0F, 0x10, 0x11, 0x12],
    ∀ n ∈ [1, 2 ^ 31 - 1, 2 ^ 31, 2 ^ 32 - 1], let p : Packet := { from5 k with seq := n }
      p.kind = k ∧ p.dst = pkgNum W ∧ fabricUp W = true ∧ (p.seq + 2 ^ 32 - getT 0 W.recvSeq (streamKey p)) % 2 ^ 32 = n) := by decide +kernel

/-- `fabric` whose line at 0x200080 is lost. -/
def lostLine : State := { fabric with bad := [(3, 0x200080 / 128)] }
/-- A reply that tells of lost data, by the model's mark. -/
def lostAnswer (kind : Nat) : Packet := { answer kind with mask := BitVec.ofNat 128 (2 ^ 101 + 3 * 2 ^ 102) }

theorem met_LinePackets_lost : (∀ k ∈ [0x01, 0x03, 0x04, 0x05, 0x06, 0x08, 0x0B, 0x0F], turn lostLine (from5 k) = true) ∧
    fabricPlace lostLine 1 0x80 true false = some 0x200080 ∧ fabricPlace lostLine 1 0x80 false true = some 0x200080 ∧
    fabricPlace lostLine 1 0x80 true true = some 0x200080 ∧ lostHome lostLine (0x200080 / 128) = some 3 ∧ lostHome fabric (0x200080 / 128) = none ∧
    underWindow lostLine 0x200080 128 = false ∧ fabricPlace fabric 1 0x200000 true false = none ∧ turn fabric { from5 0x01 with offset := 0x200000 } = true := by
  decide +kernel

theorem met_LinePackets_denied : let r : Req := ⟨0, .peer 5 0x20088, 8, .fill, 0, false, 0x20088⟩
    let f : Flight := ⟨9, 1, 0, .scalar 5, false, false, [], [r], [], 1, 0, false, false⟩
    let s := { W with g := { T with wait := .peer 9 }, flights := [f], kept := [asked 0x01 0] }
    turn s (lostAnswer 0x02) = true ∧ deniedBy (lostAnswer 0x02) = some 3 ∧ requestOf s (lostAnswer 0x02) 0x01 = some (asked 0x01 0) ∧ windowOf s 1 = none ∧
    deniedBy (answer 0x02) = none ∧ s.flights.find? (fun x => x.id == f.id) = some f ∧ f.tid = 1 ∧ r.done = false ∧ (peerPkg r.loc).isSome = true ∧
    reqRefused r = false ∧ lineKey r.loc = lineKey (.peer 5 (asked 0x01 0).packet.offset) ∧ s.outbox = [] ∧ thread? s 1 = some s.g := by decide +kernel

theorem met_WritePackets_lines : fabric.covered = [] ∧ fabric.reds = [] ∧ deniedBy (answer 0x10) = none ∧ (asked 0x0F 9).op = 9 ∧
    (let p : Packet := { from5 0x0B with mask := BitVec.ofNat 128 (3 * 2 ^ 25), operand := 0x20000 }
     turn fabric p = true ∧ p.operand.toNat % 2 ^ 16 = 0 ∧ 0 < p.operand.toNat / 2 ^ 16 % 2 ^ 16 ∧ p.operand.toNat / 2 ^ 16 % 2 ^ 16 + 1 = p.mask.toNat / 2 ^ 25 % 2 ^ 13) ∧
    (let p : Packet := { from5 0x0B with mask := BitVec.ofNat 128 (2 ^ 25) }
     p.mask.toNat / 2 ^ 25 % 2 ^ 13 = 1 ∧ p.operand.toNat % 2 ^ 16 = 0 ∧ p.operand.toNat / 2 ^ 16 % 2 ^ 16 = 0) := by decide +kernel

theorem met_Steady : Steady W (answer 0x02) ∧ Steady W (answer 0x09) ∧ Steady W (answer 0x07) ∧ Steady W (answer 0x10) := by
  unfold Steady
  decide +kernel

theorem met_LinkEvents_number : let p : Packet := { packet 0x0F 5 1 0 with len := 2 }
    let s := { W with outbox := [p], kept := [⟨p, 0, 1, 0, false, 9, 512⟩] }
    p.src = 0 ∧ mayLeave s p = true ∧ pkgNum s = 3 ∧ s.outbox.contains p = true ∧ busyPeers W = [] ∧ ¬ (p.kind = 0x0D ∧ p.operand.toNat % 16 = 1) ∧
    ({ from5 0x0D with operand := 1 } : Packet).operand.toNat % 16 = 1 := by decide +kernel

/-- An engine's write that its target has refused, and one that waits. -/
def refusedAt (via : Nat) : Kept := { asked 0x0F 9 with packet := { packet 0x0F 5 1 0x20080 with src := 3, via := via }, flag := true }

theorem met_PlaneEvents_refused : let s := { W with kept := [refusedAt 0] }
    refusedWrite (refusedAt 0) = true ∧ ¬ (∃ k ∈ s.kept, k.packet.kind ≠ 0x0A ∧ k.packet.dst = 5 ∧ k.packet.via = 0 ∧ refusedWrite k = false ∧ k.packet ∉ s.outbox) ∧
    (let t := { W with kept := [refusedAt 0, asked 0x0F 9] }
     refusedWrite (asked 0x0F 9) = false ∧ (asked 0x0F 9).packet ∉ t.outbox ∧ (asked 0x0F 9).packet.via = 0 ∧ unreachable t 5 = 0 ∧ (deadPlanes t 5).getLsbD 17 = false) := by
  decide +kernel

theorem met_ProbeEvents_hold : let q := { sequence with hold := true, target := some 6 }
    let s := { W with seqs := [q] }
    seqOf s q.id = some q ∧ q.partner = 5 ∧ q.hold = true ∧ (∀ r ∈ q.records, r.acked = true) ∧ (peerOf s 5).probing = false ∧ (peerOf s 5).failed = false ∧ fabricUp s = true ∧
    (let r := { q with reassign := true, target := none, records := [⟨0, 4, 1, 0, 5, 0, true, false, true, false, none⟩] }
     r.reassign = true ∧ r.target = none) ∧
    (let t := { W with peers := [(5, { probing := true, probes := 2, plane := 17, void := true })] }
     (peerOf t 5).probing = true ∧ (peerOf t 5).plane < 18 ∧ (peerOf t 5).void = true ∧ unreachable t 5 = 0 ∧ t.vetting = [] ∧ (deadPlanes t 5).getLsbD 0 = false) ∧
    (let t := { W with peers := [(5, { probing := true, probes := 2, plane := 0 })] }
     (peerOf t 5).void = false ∧ 3 ≤ (peerOf t 5).probes + 1) ∧
    (let h : PartnerHdr := { index := 0, seqid := 77, src := 5, next := 0, recs := [], stopped := false, early := [], closed := true }
     let t := { W with csr := (csrRegion, 0x100000001) :: W.csr, partners := [h], peers := [(5, { probing := true, probes := 2, plane := 0 })] }
     t.partners = [h] ∧ h.closed = true ∧ h.stopped = false ∧ h.src = 5 ∧ regionBase t ≠ none ∧ waitersAt t 5 = [] ∧ t.flagWrites = [] ∧ t.jsCmds = []) ∧
    (let p : Packet := { from5 0x11 with operand := 7 }
     turn W p = true ∧ p.operand ≠ 0 ∧ (from5 0x11).operand = 0) := by decide +kernel

theorem met_PartnerTakes_sorts : let h : PartnerHdr := ⟨65535, 77, 5, 4, [(3, 0)], false, [], false⟩
    let s := { W with csr := (csrRegion, 0x100000001) :: W.csr, partners := [h] }
    let p (sort n : Nat) : Packet := { from5 0x0D with mask := 77, operand := BitVec.ofNat 64 (sort + 16 * n) }
    hdrAt s h.index = some h ∧ regionBase s = some (2 ^ 32) ∧ isHbm (headerAt (2 ^ 32) 65535) = true ∧ isHbm (headerAt (2 ^ 32) 65535 + 511) = true ∧
    isHbm (headerAt (2 ^ 32) 0) = true ∧ isHbm (recordSlotAt (2 ^ 32) 1) = true ∧
    (∀ x ∈ [5, 6, 7], turn s (p x 3) = true ∧ (p x 3).operand.toNat % 16 = x ∧ partnerHdr s 5 77 = some h) ∧
    (let t := { s with partners := [{ h with stopped := true }] }
     partnerHdr t 5 77 = some { h with stopped := true } ∧ (p 0 4).operand.toNat % 16 ≠ 1) := by decide +kernel

/-- The header's place is checked byte by byte. -/
theorem met_PartnerTakes_bytes (b : Nat) (hb : b < 512) : isHbm (headerAt (2 ^ 32) 65535 + b) = true := by
  have h1 : headerAt (2 ^ 32) 65535 + b < 2 ^ 39 := by unfold headerAt; omega
  have h2 : (headerAt (2 ^ 32) 65535 + b) % 2 ^ 36 < 0xC00000000 := by unfold headerAt; omega
  exact Bool.and_eq_true_iff.mpr ⟨decide_eq_true h1, decide_eq_true h2⟩

theorem met_EmitDelivery_named : let e : Emit := ⟨1, 5, 3, 10, 0, 1, .intent⟩
    let k : Kept := { asked 0x0D 0 with packet := { packet 0x0D 5 1 0 with src := 3, mask := 77, plane := 5, via := 5, seq := 9 } }
    let q := { sequence with emits := [e] }
    let s := { W with seqs := [q], kept := [k], g := { T with kEmpty := 2 ^ 5, wait := .emit 2 } }
    let p (n : Nat) : Packet := { from5 0x0E with mask := BitVec.ofNat 128 (77 + (5 * 2 ^ 32 + 9) * 2 ^ 64), operand := BitVec.ofNat 64 (2 * n + 32 * 10) }
    q.moved = true ∧ s.partners = [] ∧ (∀ n ∈ [2, 3], turn s (p n) = true ∧ s.kept.any (namedBy (p n)) = true ∧ (p n).operand.toNat = 2 * n + 32 * 10 ∧
      s.seqs.find? (fun q => q.isOpen && q.seqid.toNat == (p n).mask.toNat % 2 ^ 64 && seqDest q == (p n).src) = some q) ∧
    (∀ b ∈ [true, false], let r : Packet := { p 1 with operand := BitVec.ofNat 64 (2 + b.toNat) }
      turn s r = true ∧ s.kept.any (namedBy r) = true ∧ r.operand.toNat = 2 + b.toNat) ∧ s.outbox = [] := by decide +kernel

theorem met_Reassignment_asks : let s := { W with seqs := [sequence] }
    let t := { s with peers := [(5, { failed := true })] }
    (sequence.reassign = false ∧ (peerOf s sequence.partner).failed = false) ∧ ¬ (peerOf t sequence.partner).failed = false ∧ (6 : Nat) ≠ pkgNum t ∧
    unreachable t 6 = 0 ∧ seqOf t 2 = some sequence ∧ sequence.partner = 5 ∧ ¬ ((5 : Nat) ≠ sequence.partner) := by decide +kernel

theorem met_SequenceCommands_agents : let c : JsCmd := ⟨3, 2 ^ 12 + 4095, false, 0, 0⟩
    let s := { W with csr := (csrTbase 3, 0x10000) :: (csrTenant 1, 0x40) :: W.csr, jsCmds := [c], mem := writeN [] (0x10000 + 64 * 4095) 16 (77 + 5 * 2 ^ 64 + 2 ^ 80) }
    firmwareRuns W = true ∧ (∀ c ∈ W.jsCmds, c.die ≠ 3) ∧ 2 ^ 14 - 1 < 2 ^ 14 ∧
    (let t := { W with jsCmds := [⟨3, 0x1000, true, 2, 0⟩] }
     firmwareRuns t = true ∧ ∃ c ∈ t.jsCmds, c.die = 3 ∧ c.begun = true) ∧
    2 < 3 ∧ openResult s 3 4095 (descriptorOf s 3 4095) = 0 ∧ unreachable s (descriptorOf s 3 4095 / 2 ^ 64 % 2 ^ 12) = 0 ∧
    (let t := { s with csr := (csrTbase 3, 0x10000) :: W.csr }
     openResult t 3 4095 (descriptorOf t 3 4095) = 4) := by decide +kernel

theorem met_MarketIntervals_grants : (∃ n, csrRaw W (csrCap n) = 0 ∧ n < 64) ∧ ({ W with curSeq := 0 } : State).curSeq = 0 := ⟨⟨63, by decide +kernel⟩, by decide +kernel⟩

theorem met_Notifies_ports : let s := { W with notifies := [(4095, 7, noCore + 1), (4095, 9, noCore + 2)] }
    let t := { W with notifies := [(4095, 7, noCore + 1), (0, 9, noCore + 1)] }
    s.notifies = [(4095, 7, noCore + 1), (4095, 9, noCore + 2)] ∧ noCore ≤ noCore + 1 ∧ noCore ≤ noCore + 2 ∧ ((4095 : Nat), (7 : Nat)) ≠ (4095, 9) ∧
    t.notifies = [(4095, 7, noCore + 1), (0, 9, noCore + 1)] ∧ ((4095 : Nat), (7 : Nat)) ≠ (0, 9) := by decide +kernel

/-- `ring` whose units lie in a page of package 5. -/
def farRing : State := { ring 1 [] with csr := (csrQbase 0, 0x20000) :: (ring 1 []).csr }
def asks (h : Head) : Bool := match h with
  | .ask _ => true
  | _ => false
theorem asks_is {h : Head} (x : asks h = true) : ∃ l, h = .ask l := by cases h <;> simp_all [asks]

theorem met_QueuePackets_ask : mayTake farRing 0 = true ∧ asks (readHead farRing 0) = true := by decide +kernel

/-- A launch of the context whose last block has ended. -/
def done (l : Launch) : State := { W with launches := [{ l with id := 3, ctx := 1, nblk := 1, ended := 1, started := true }] }
def mayRetire (s : State) : Bool :=
  let l := launchOf s 3
  l.id == 3 && l.started && !l.retired && !l.mcc && decide (l.nblk ≤ l.ended) && !ctxEnded s l.ctx

theorem met_Launches_retires : (∀ l ∈ ([{ sig := 0x20008 }, { sig := 0x50008 }, { handles := [2 ^ 15 + 1] }, { sig := 0x10008 }] : List Launch), mayRetire (done l) = true ∧
      (launchOf (done l) 3).pair = 0 ∧ (launchOf (done l) 3).bundle = 0 ∧ (done l).policies = []) ∧
    translateNow (done { sig := 0x20008 }) 1 0x20008 1 = .ok (.peer 5 0x20008) ∧ (match translateNow (done { sig := 0x50008 }) 1 0x50008 1 with | .fault _ => true | _ => false) = true ∧
    translateNow (done { sig := 0x10008 }) 1 0x10008 1 = .ok (.hbm 0x10008) ∧
    (let s := { done { handles := [2 ^ 15 + 1] } with handles := [(handleKey 1 1, { lo := 0x10080, hi := 0x10100 })] }
     mayRetire s = true ∧ handleWrites (2 ^ 15 + 1) = true ∧ handleRange s 1 (2 ^ 15 + 1) = some (0x10080, 0x100FF) ∧ 0x10080 % 128 = 0 ∧
     anyPlace s 1 0x10080 = some (.hbm 0x10080)) ∧
    (let s := { W with launches := [{ id := 3, ctx := 1, nblk := 1, ended := 1, started := true, pair := 4 }, { id := 4, ctx := 1, nblk := 1, ended := 1, started := true, mcc := true, pair := 3 }] }
     mayRetire s = true ∧ (launchOf s 3).pair ≠ 0 ∧ (launchOf s (launchOf s 3).pair).id = (launchOf s 3).pair) := by decide +kernel

theorem met_GangMoves_withdrawing : let saved : Gang := { halted with place := .saved }
    let s (g : Gang) (save : Nat) : State := { twoCores g with launches := [{ id := 1, ctx := 1, save := save, savesz := 64 }] }
    withdrawing { s saved 0x10000 with lockMsgs := [.withdraw 7 1] } (fun g => g.gang == 1) = true ∧
    withdrawing (s saved 0x10000) (fun g => g.gang == 1) = false ∧ (gangOf (s saved 0x50000) 1).tried = false ∧ saveAreaBad (s saved 0x50000) (launchOf (s saved 0x50000) 1) ≠ none ∧
    (gangOf (s { saved with tried := true } 0x10000) 1).tried = true ∧ saveAreaBad (s saved 0x10000) (launchOf (s saved 0x10000) 1) = none ∧
    (s saved 0x50000).ended = [] ∧ (s saved 0x10000).bad.contains (7, 1) = false ∧ ({ s saved 0x10000 with bad := [(7, 1)] } : State).bad.contains (7, 1) = true ∧
    (let m := s { halted with moved := [1] } 0x10000
     (gangOf m 1).moved ≠ [] ∧ (gangOf m 1).place = .halted) := by decide +kernel

theorem met_ContextEnds_core : let s := { W with cores := [(0, { stopped := true })], causes := [⟨2, 0x09, 2, 0, 3⟩], launches := [{ id := 3, ctx := 1, sig := 0x10008, started := true }] }
    let fw := { s with g := { T with core := 2 }, others := [{ T with tid := 2, priv := false }] }
    firmwareRuns fw = true ∧ ctxEnded fw 1 = false ∧ (∃ r ∈ fw.causes, r.cause = 0x09 ∧ r.launch = 3 ∧ coreStopped fw r.core = true ∧
      ∃ g ∈ threads fw, g.core = r.core ∧ g.ctx = 1 ∧ g.priv = false) ∧ (∃ r ∈ fw.causes, r.launch = 3 ∧ r.ctx ≠ 1) ∧
    ¬ (∃ r ∈ fw.causes, r.cause = 0x09 ∧ r.launch = 4) := by decide +kernel

theorem met_Semaphore_reports : let s := { W with reports := [9, 10], reporting := [(2, 9)] }
    s.reports ≠ [] ∧ s.reporting = (2, 9) :: [] ∧ ownerPort s = 0 ∧ (∀ n ∈ s.notifies, n.2.2 ≠ noCore + 1) := by decide +kernel

theorem met_HostAccesses_turn : let s := { W with notifies := [(0, 1, noCore + 2)], memKeys := [(7, { ctx := 1, base := 0x10000, len := 0x100 })] }
    let w := host 1 7 0xF8 8
    rmaReg w = none ∧ w.command = true ∧ ¬ (∀ y ∈ s.notifies, y.2.2 ≠ noCore + (w.port + 1)) ∧ rmaPlace s w = some (1, 0x100F8) ∧
    (∀ y ∈ s.notifies, y.2.2 ≠ noCore + ((host 0 7 0xF8 8).port + 1)) ∧ isReady s = true := by decide +kernel

theorem met_BringUp_failed : let s := { State.reset with powered := true, csr := [(0, BitVec.ofNat 64 (2 * 4) ^^^ 2)] }
    s.powered = true ∧ isReady s = false ∧ stageOf s = 4 ∧ (∀ d, d < 4 → ∃ c, c < 32 ∧ 8 * d ≤ c ∧ c < 8 * d + 8 ∧ c ∉ ([0] : List Nat)) ∧
    (∃ d, d < 4 ∧ ∀ c, c < 32 → 8 * d ≤ c → c < 8 * d + 8 → c ∈ List.range 8) := by decide +kernel

/-- R404: firmware's core is that of the first good cluster of its die, and a die without one ends bring-up. -/
theorem test_bringup_failed : let s := { State.reset with powered := true, csr := [(0, BitVec.ofNat 64 (2 * 4) ^^^ 2)] }
    after (.bringupStageDone [0, 1]) s (fun t => (stageOf t, fwCore t 0, fwCore t 1)) = some (5, 8, 26) ∧
    after (.bringupStageDone (List.range 8)) s (fun t => (stageOf t, isReady t)) = some (7, false) := by decide +kernel
end Sys2Proof.Tests
end

section
/-! The registers hardwired by R6, and the step of a thread whose fetched word decodes. -/
namespace Sys2Proof.Machine

/-! What a fetch of this package's memory leaves as it was: L2 says where a line lies, not what it holds. -/

/-- Fetching a lost line again touches only errors of L2 slices (unit 11). -/
theorem mem_bad_healL2 (s : State) (line n key : Nat) (h : n ≠ 11) : (n, key) ∈ (healL2 s line).bad ↔ (n, key) ∈ s.bad := by
  unfold healL2
  split
  · simp [h]
  · rfl

theorem dirtyLost_healL2 (s : State) (line core l : Nat) : dirtyLost (healL2 s line) core l = dirtyLost s core l := by
  simp [dirtyLost, mem_bad_healL2]

/-- A fetched-again line changes what is known of errors, and nothing else. -/
theorem healL2_is (s : State) (line : Nat) : ∃ bad ecc, healL2 s line = { s with bad := bad, ecc := ecc } := by
  unfold healL2
  split
  · exact ⟨_, _, rfl⟩
  · exact ⟨s.bad, s.ecc, rfl⟩

/-- Past the fetch of a lost line, a line that enters L2 changes the table of L2 and the counter of free values. -/
theorem fillL2_is (s : State) (ctx : Option Nat) (line : Nat) :
    ∃ l2 free, fillL2 s ctx line = { healL2 s line with l2 := l2, free := free } := by
  unfold fillL2
  dsimp only
  split
  · exact ⟨_, _, rfl⟩
  · split
    · exact ⟨_, _, rfl⟩
    · split <;> exact ⟨_, _, rfl⟩

/-- The state without what a line that enters L2 may change. -/
def pastL2 (s : State) : State := { s with l2 := [], free := 0, bad := [], ecc := [] }

theorem pastL2_fillL2 (s : State) (ctx : Option Nat) (line : Nat) : pastL2 (fillL2 s ctx line) = pastL2 s := by
  obtain ⟨l2, free, hfill⟩ := fillL2_is s ctx line
  obtain ⟨bad, ecc, hheal⟩ := healL2_is s line
  rw [hfill, hheal]
  rfl

@[simp] theorem fillL2_g (s : State) (ctx : Option Nat) (line : Nat) : (fillL2 s ctx line).g = s.g :=
  (congrArg State.g (pastL2_fillL2 s ctx line) :)

theorem fillL2_oldCode (s : State) (ctx : Option Nat) (line : Nat) : (fillL2 s ctx line).oldCode = s.oldCode :=
  (congrArg State.oldCode (pastL2_fillL2 s ctx line) :)

@[simp] theorem writesTo_fillL2 (s : State) (ctx : Option Nat) (line launch l : Nat) :
    writesTo (fillL2 s ctx line) launch l = writesTo s launch l := by
  rw [writesTo, fillL2_oldCode, writesTo]

theorem coherentByte_fillL2 (s : State) (ctx : Option Nat) (line pa : Nat) :
    coherentByte (fillL2 s ctx line) pa = coherentByte s pa := by
  have hlost (core l : Nat) : dirtyLost (fillL2 s ctx line) core l = dirtyLost s core l := by
    obtain ⟨l2, free, hfill⟩ := fillL2_is s ctx line
    rw [hfill, ← dirtyLost_healL2 s line]
    rfl
  have howner (w : Nat) : ownerOf (fillL2 s ctx line) w = ownerOf s w :=
    (congrArg (ownerOf · w) (pastL2_fillL2 s ctx line) :)
  have hline (core l : Nat) : l1Line (fillL2 s ctx line) core l = l1Line s core l :=
    (congrArg (l1Line · core l) (pastL2_fillL2 s ctx line) :)
  simp only [coherentByte, hlost, howner, hline, fillL2_mem]

@[simp] theorem homeRead_fillL2 (s : State) (ctx : Option Nat) (line pa n : Nat) :
    homeRead (fillL2 s ctx line) pa n = homeRead s pa n := by
  unfold homeRead
  induction n generalizing pa with
  | zero => rfl
  | succ n ih => rw [coherentN, coherentN, coherentByte_fillL2, ih]

/-! What spilling a stack leaves as it was (R53). -/

theorem pastMemory_spillPiece (ctx va x : Nat) (s : State) : pastMemory (spillPiece ctx va x s) = pastMemory s := by
  unfold spillPiece
  split
  · split
    · rfl
    · exact pastMemory_homeWrite _ _ _ _
  · rfl

theorem pastMemory_spillStack (s : State) (g : Group) : pastMemory (spillStack s g) = pastMemory s := by
  refine foldl_same pastMemory _ (fun t x => ?_) _ _
  simp only [spillEntry, pastMemory_spillPiece]

@[simp] theorem spillStack_g (s : State) (g : Group) : (spillStack s g).g = s.g :=
  (congrArg State.g (pastMemory_spillStack s g) :)

/-! The turn of a thread that may issue. -/

theorem mayIssue_iff (s : State) (g : Group) : mayIssue s g = true ↔
    g.live = true ∧ g.resident = true ∧ g.wait = .none ∧ coreStopped s g.core = false ∧ coreAsleep s g.core = false := by
  simp [mayIssue, and_assoc]

/-- A thread that may issue is on a core that runs, so it has not been stopped by another group's fault (R371). -/
theorem sameClock_of_mayIssue {s : State} (h : mayIssue s s.g = true) : sameClock s = false := by
  obtain ⟨-, -, -, hruns, -⟩ := (mayIssue_iff s s.g).mp h
  unfold sameClock
  split
  next core _ _ _ =>
    by_cases hc : s.g.core = core
    · subst hc; simp [hruns]
    · simp [hc]
  next => rfl

/-- A thread that may issue waits for nothing. -/
theorem resumeWait_of_mayIssue {s : State} (h : mayIssue s s.g = true) : resumeWait s = s := by
  obtain ⟨-, -, hwait, -, -⟩ := (mayIssue_iff s s.g).mp h
  simp [resumeWait, hwait]

/-- No path ends where the thread stands at no join, or inside a run of hints (R56). -/
theorem endPaths_of_not_atJoin {s : State} (h : s.g.run = [] → atJoin s.g = false) : endPaths s = s := by
  unfold endPaths
  split
  · rfl
  next hout =>
    have hrun : s.g.run = [] := Classical.not_not.mp fun hne => hout (.inl hne)
    simp [pathEnds, h hrun]

/-- A fetch from a line of this package that nothing has written since the launch started gives the word that the home holds, and the
line enters L2 (R244, R390). -/
theorem fetchWord_home {s : State} {g : Group} {va pa : Nat}
    (haccess : checkAccess s g ⟨3, 4, 4, false, false⟩ [(0, g.pc)] = .ok [(0, va, .hbm pa)])
    (hroom : homeRoom s (.hbm pa) = true) (hcode : writesTo s g.launch (pa / 128) = []) :
    fetchWord s g = .word (fillL2 s (some g.ctx) (pa / 128)) (homeRead s pa 4) := by
  simp [fetchWord, haccess, hroom, codeWord, hcode]

/-- A word that decodes is executed, where control has not landed on a hint word (R375). -/
theorem turnWord_decoded {s : State} {w : Nat} {i : Instr} (hdec : decodeWord w = .ok i)
    (hland : s.g.landed = true → s.g.run = [] → isHint w = false) : turnWord s w = .run s i := by
  have hnot : ¬ ((s.g.landed = true ∧ s.g.run = []) ∧ isHint w = true) := by
    rintro ⟨⟨hlanded, hrun⟩, hhint⟩
    exact absurd hhint (by simp [hland hlanded hrun])
  simp [turnWord, insideRun, hnot, hdec]

/-- A fetch as in `fetchWord_home` of a word as in `turnWord_decoded`. -/
theorem fetchTurn_decoded {s : State} {va pa : Nat} {i : Instr}
    (haccess : checkAccess s s.g ⟨3, 4, 4, false, false⟩ [(0, s.g.pc)] = .ok [(0, va, .hbm pa)])
    (hroom : homeRoom s (.hbm pa) = true) (hcode : writesTo s s.g.launch (pa / 128) = [])
    (hdec : decodeWord (homeRead s pa 4) = .ok i)
    (hland : s.g.landed = true → s.g.run = [] → isHint (homeRead s pa 4) = false) :
    fetchTurn s = .run (fillL2 s (some s.g.ctx) (pa / 128)) i := by
  rw [fetchTurn, fetchWord_home haccess hroom hcode]
  exact turnWord_decoded hdec (by simpa using hland)

/-- Outside a speculation window the turn is the fetch, once the deep entries of the stack are in the save area. -/
theorem turn_outside {s : State} (hmay : mayIssue s s.g = true) (hwin : windowOf s s.g.tid = none)
    (hjoin : s.g.run = [] → atJoin s.g = false) (hend : hasEnded s.g = false) : turn s = fetchTurn (spillStack s s.g) := by
  have hpaths : endPaths (spillStack s s.g) = spillStack s s.g := endPaths_of_not_atJoin (by simpa using hjoin)
  simp [turn, resumeWait_of_mayIssue hmay, hmay, hwin, plainTurn, hpaths, hend]

/-- In a speculation window that has neither resolved nor reached its join the turn is the fetch. -/
theorem turn_inside {s : State} {w : Window} (hmay : mayIssue s s.g = true) (hwin : windowOf s s.g.tid = some w)
    (hopen : w.resolved = none) (hpath : windowEnded s w = false) : turn s = fetchTurn s := by
  simp [turn, resumeWait_of_mayIssue hmay, hmay, hwin, hopen, hpath]

theorem takeTurn_of_run {s t : State} {i : Instr} (hmay : mayIssue s s.g = true) (hturn : turn s = .run t i) :
    takeTurn s = exec i t := by
  simp [takeTurn, sameClock_of_mayIssue hmay, runTurn, hturn]

/-- Settles O59: the step is the turn of the current thread, and in either case of its speculation window that turn is the fetch. -/
theorem stepRunsDecoded : Obligations.StepRunsDecoded := by
  unfold Obligations.StepRunsDecoded
  intro s rest va pa i htape s0 s1 hmay hout hin haccess hroom hcode hdec hland
  have hmay0 : mayIssue s0 s0.g = true := hmay
  have hstep : step s = takeTurn s0 := by simp only [step, htape, takeAct, s0]
  have hg : s1.g = s.g := by
    dsimp only [s1]
    split
    · exact spillStack_g s0 s.g
    · rfl
  have hfetch : fetchTurn s1 = .run (fillL2 s1 (some s.g.ctx) (pa / 128)) i := by
    rw [← hg] at haccess hcode hland ⊢
    exact fetchTurn_decoded haccess hroom hcode hdec hland
  have hturn : turn s0 = fetchTurn s1 := by
    cases hwin : windowOf s s.g.tid with
    | none =>
      obtain ⟨hjoin, hend⟩ := hout hwin
      have hs1 : s1 = spillStack s0 s0.g := if_pos hwin
      rw [hs1]
      exact turn_outside hmay0 hwin hjoin hend
    | some w =>
      obtain ⟨hopen, hpath⟩ := hin w hwin
      have hs1 : s1 = s0 := if_neg (by simp [hwin])
      rw [hs1]
      exact turn_inside hmay0 hwin hopen hpath
  rw [hstep, takeTurn_of_run hmay0 (hturn.trans hfetch)]

/-! Registers that are hardwired (R6). -/

@[simp] theorem readK_zero (g : Group) : readK g 0 = 0 := if_pos rfl
@[simp] theorem writeK_zero (g : Group) (x : BitVec 64) : writeK g 0 x = g := if_pos rfl
@[simp] theorem readQ_zero (g : Group) : readQ g 0 = BitVec.allOnes 512 := if_pos rfl
@[simp] theorem writeQ_zero (g : Group) (x : Mask) : writeQ g 0 x = g := if_pos rfl

/-- Settles O4, from what a read of a scalar or predicate gives after a write (`readK_writeK`, `readQ_writeQ`). -/
theorem hardwiredRegisters : Obligations.HardwiredRegisters := by
  unfold Obligations.HardwiredRegisters
  intro g
  exact ⟨readK_zero g, writeK_zero g, readK_writeK g, readQ_zero g, writeQ_zero g, readQ_writeQ g⟩

end Sys2Proof.Machine
end

section
/-! The fields of a binary format and the value of a pattern (R70 to R72, Table 05.1). -/
namespace Sys2Proof.Machine

/-- The bits of a format with these fields (Table 05.1). -/
def packBits (f : FloatFmt) (sg : Bool) (ex fr : Nat) : Nat := zeroBits f sg + ex * 2 ^ f.fbits + fr

theorem infBits_eq_packBits (f : FloatFmt) (sg : Bool) : infBits f sg = packBits f sg (2 ^ f.ebits - 1) 0 := rfl

theorem zeroBits_eq_packBits (f : FloatFmt) (sg : Bool) : zeroBits f sg = packBits f sg 0 0 := by simp [packBits]

theorem maxBits_eq_packBits {f : FloatFmt} (hE : 2 ≤ f.ebits) (sg : Bool) :
    maxBits f sg = packBits f sg (2 ^ f.ebits - 2) (2 ^ f.fbits - 1) := by
  have hexp : 2 ^ 2 ≤ 2 ^ f.ebits := Nat.pow_le_pow_right (by omega) hE
  have hunit : 0 < 2 ^ f.fbits := Nat.two_pow_pos _
  have hsucc : 2 ^ f.ebits - 1 = (2 ^ f.ebits - 2) + 1 := by omega
  rw [maxBits, infBits_eq_packBits, packBits, packBits, hsucc, Nat.succ_mul]
  omega

/-- The pattern is its three fields, each above the ones below it. -/
theorem packBits_eq (f : FloatFmt) (sg : Bool) (ex fr : Nat) :
    packBits f sg ex fr = fr + 2 ^ f.fbits * (ex + 2 ^ f.ebits * sg.toNat) := by
  have hsign : zeroBits f sg = 2 ^ f.fbits * (2 ^ f.ebits * sg.toNat) := by
    cases sg <;> simp [zeroBits, Nat.pow_add, Nat.mul_comm]
  rw [packBits, hsign, Nat.mul_add, Nat.mul_comm ex]
  omega

section Fields
variable {f : FloatFmt} {sg : Bool} {ex fr : Nat} (hex : ex < 2 ^ f.ebits) (hfr : fr < 2 ^ f.fbits)

include hfr in
theorem packBits_mod : packBits f sg ex fr % 2 ^ f.fbits = fr := by
  rw [packBits_eq, Nat.add_mul_mod_self_left, Nat.mod_eq_of_lt hfr]

include hfr in
theorem packBits_div : packBits f sg ex fr / 2 ^ f.fbits = ex + 2 ^ f.ebits * sg.toNat := by
  rw [packBits_eq, Nat.add_mul_div_left _ _ (Nat.two_pow_pos _), Nat.div_eq_of_lt hfr, Nat.zero_add]

include hex hfr in
theorem packBits_exponent : packBits f sg ex fr / 2 ^ f.fbits % 2 ^ f.ebits = ex := by
  rw [packBits_div hfr, Nat.add_mul_mod_self_left, Nat.mod_eq_of_lt hex]

include hex hfr in
theorem packBits_sign : (packBits f sg ex fr / 2 ^ (f.fbits + f.ebits) % 2 == 1) = sg := by
  rw [Nat.pow_add, ← Nat.div_div_eq_div_mul, packBits_div hfr, Nat.add_mul_div_left _ _ (Nat.two_pow_pos _),
    Nat.div_eq_of_lt hex]
  cases sg <;> rfl

include hex hfr in
/-- The value of a pattern, by its exponent field. -/
theorem unpack_packBits : unpack f (packBits f sg ex fr) =
    if ex = 2 ^ f.ebits - 1 then
      if fr = 0 then .inf sg else .nan (decide (fr < 2 ^ (f.fbits - 1)))
    else if ex = 0 then .fin sg fr (fmtQmin f)
    else .fin sg (2 ^ f.fbits + fr) (fmtQmin f + ex - 1) := by
  unfold unpack
  simp only [packBits_mod hfr, packBits_exponent hex hfr, packBits_sign hex hfr]

end Fields

theorem classOf_fin {f : FloatFmt} {x : Nat} {sg : Bool} {m : Nat} {e : Int} (h : unpack f x = .fin sg m e) :
    classOf f x = if m = 0 then (if sg then 32 else 64) else if m < 2 ^ f.fbits then (if sg then 16 else 128)
      else (if sg then 8 else 256) := by
  simp only [classOf, h, Nat.reducePow]

/-- The value and the class of a pattern with given fields (R70, Tables 05.1 and 08.6). -/
theorem fields_of_packBits {f : FloatFmt} (hE : 2 ≤ f.ebits) {sg : Bool} {ex fr : Nat} (hex : ex < 2 ^ f.ebits)
    (hfr : fr < 2 ^ f.fbits) :
    let x := packBits f sg ex fr
    (ex = 2 ^ f.ebits - 1 → fr = 0 → x = infBits f sg ∧ unpack f x = .inf sg ∧ classOf f x = if sg then 4 else 512) ∧
    (ex = 2 ^ f.ebits - 1 → fr ≠ 0 → unpack f x = .nan (decide (fr < 2 ^ (f.fbits - 1))) ∧
      classOf f x = if fr < 2 ^ (f.fbits - 1) then 1 else 2) ∧
    (ex = 0 → unpack f x = .fin sg fr (fmtQmin f) ∧
      classOf f x = if fr = 0 then (if sg then 32 else 64) else if sg then 16 else 128) ∧
    (ex = 0 → fr = 0 → x = zeroBits f sg) ∧
    (0 < ex → ex < 2 ^ f.ebits - 1 → unpack f x = .fin sg (2 ^ f.fbits + fr) (fmtQmin f + ex - 1) ∧
      classOf f x = if sg then 8 else 256) ∧
    (ex = 2 ^ f.ebits - 2 → fr = 2 ^ f.fbits - 1 → x = maxBits f sg) := by
  have hexp : 2 ^ 2 ≤ 2 ^ f.ebits := Nat.pow_le_pow_right (by omega) hE
  have hval := unpack_packBits (sg := sg) hex hfr
  dsimp only
  refine ⟨fun htop hzero => ?inf, fun htop hpay => ?nan, fun hsub => ?subnormal, fun hsub hzero => ?zero,
    fun hpos hlt => ?normal, fun hlast hones => ?max⟩
  case inf =>
    rw [if_pos htop, if_pos hzero] at hval
    exact ⟨by rw [htop, hzero, infBits_eq_packBits], hval, by simp [classOf, hval]⟩
  case nan =>
    rw [if_pos htop, if_neg hpay] at hval
    refine ⟨hval, ?_⟩
    by_cases hquiet : fr < 2 ^ (f.fbits - 1) <;> simp [classOf, hval, hquiet]
  case subnormal =>
    rw [if_neg (by omega), if_pos hsub] at hval
    exact ⟨hval, by rw [classOf_fin hval, if_pos hfr]⟩
  case zero => rw [hsub, hzero, zeroBits_eq_packBits]
  case normal =>
    rw [if_neg (by omega), if_neg (by omega)] at hval
    exact ⟨hval, by rw [classOf_fin hval, if_neg (by omega), if_neg (by omega)]⟩
  case max => rw [hlast, hones, maxBits_eq_packBits hE]

/-- The formats of the statements have at least two exponent bits. -/
theorem two_le_ebits {f : FloatFmt} (h : f ∈ [fmtD, fmtF, fmtH, fmtB, fmtF12]) : 2 ≤ f.ebits :=
  (by decide : ∀ f ∈ [fmtD, fmtF, fmtH, fmtB, fmtF12], 2 ≤ f.ebits) f h

end Sys2Proof.Machine
end

section
/-! Rounding at a unit (R82, Table 05.6). -/
namespace Sys2Proof.Machine

theorem roundAt_of_le {e q : Int} (h : q ≤ e) (mode : Nat) (s : Bool) (m : Nat) :
    roundAt mode s m e q = (m * 2 ^ (e - q).toNat, false) := if_pos h

/-- Truncated to whole units, and one unit more where the mode says so. -/
theorem roundAt_of_lt {e q : Int} (h : e < q) (mode : Nat) (s : Bool) (m : Nat) :
    roundAt mode s m e q =
      let u := 2 ^ (q - e).toNat
      (if roundsUp mode s (m / u % 2 == 1) (m % u) u then m / u + 1 else m / u, decide (m % u ≠ 0)) :=
  if_neg (by omega)

/-- The exact value `m` lies `r` above the truncated one, `t`; by the mode the result is `t` or the next multiple of the unit `u`. -/
theorem roundsUp_modes (mode : Nat) (s : Bool) {m u t r : Nat} (hm : t * u + r = m) (hr : r < u) :
    let k := if roundsUp mode s (t % 2 == 1) r u then t + 1 else t
    (mode = 0 → 2 * (k * u) ≤ 2 * m + u ∧ 2 * m ≤ 2 * (k * u) + u ∧ (2 * (k * u) = 2 * m + u ∨ 2 * m = 2 * (k * u) + u → k % 2 = 0)) ∧
    (mode = 1 ∨ (mode = 2 ∧ s = true) ∨ (mode = 3 ∧ s = false) → k * u ≤ m ∧ m < k * u + u) ∧
    ((mode = 2 ∧ s = false) ∨ (mode = 3 ∧ s = true) → m ≤ k * u ∧ k * u < m + u) ∧
    (mode = 4 → 2 * (k * u) ≤ 2 * m + u ∧ 2 * m < 2 * (k * u) + u) := by
  intro k
  have hk : roundsUp mode s (t % 2 == 1) r u = true ∧ k = t + 1 ∧ k * u = t * u + u ∨
      roundsUp mode s (t % 2 == 1) r u = false ∧ k = t ∧ k * u = t * u := by
    cases hup : roundsUp mode s (t % 2 == 1) r u
    · exact .inr ⟨rfl, by simp [k, hup]⟩
    · exact .inl ⟨rfl, by simp [k, hup, Nat.succ_mul]⟩
  refine ⟨?nearest_even, ?truncated, ?away, ?nearest_away⟩
  case nearest_even =>
    rintro rfl
    simp only [roundsUp, Bool.or_eq_true, Bool.and_eq_true, decide_eq_true_eq, beq_iff_eq, Bool.or_eq_false_iff,
      Bool.and_eq_false_iff, decide_eq_false_iff_not, beq_eq_false_iff_ne] at hk
    omega
  case truncated =>
    have hdown : mode = 1 ∨ (mode = 2 ∧ s = true) ∨ (mode = 3 ∧ s = false) → roundsUp mode s (t % 2 == 1) r u = false := by
      rintro (rfl | ⟨rfl, rfl⟩ | ⟨rfl, rfl⟩) <;> simp [roundsUp]
    intro h
    simp only [hdown h, Bool.false_eq_true, false_and, true_and, false_or] at hk
    omega
  case away =>
    have hup : (mode = 2 ∧ s = false) ∨ (mode = 3 ∧ s = true) → roundsUp mode s (t % 2 == 1) r u = decide (r ≠ 0) := by
      rintro (⟨rfl, rfl⟩ | ⟨rfl, rfl⟩) <;> simp [roundsUp]
    intro h
    simp only [hup h, decide_eq_true_eq, decide_eq_false_iff_not] at hk
    omega
  case nearest_away =>
    rintro rfl
    simp only [roundsUp, Bool.and_eq_true, decide_eq_true_eq, Bool.and_eq_false_iff, decide_eq_false_iff_not] at hk
    omega

/-- Table 05.6: what is left over is inexact, and each mode keeps its own distance from the exact value. -/
theorem roundAt_modes {e q : Int} (h : e < q) (mode : Nat) (s : Bool) (m : Nat) :
    let u := 2 ^ (q - e).toNat
    let t := (roundAt mode s m e q).1 * u
    ((roundAt mode s m e q).2 = true ↔ ¬ u ∣ m) ∧
    (mode = 0 → 2 * t ≤ 2 * m + u ∧ 2 * m ≤ 2 * t + u ∧ (2 * t = 2 * m + u ∨ 2 * m = 2 * t + u → (roundAt mode s m e q).1 % 2 = 0)) ∧
    (mode = 1 ∨ (mode = 2 ∧ s = true) ∨ (mode = 3 ∧ s = false) → t ≤ m ∧ m < t + u) ∧
    ((mode = 2 ∧ s = false) ∨ (mode = 3 ∧ s = true) → m ≤ t ∧ t < m + u) ∧
    (mode = 4 → 2 * t ≤ 2 * m + u ∧ 2 * m < 2 * t + u) := by
  rw [roundAt_of_lt h]
  refine ⟨?_, roundsUp_modes mode s (Nat.div_add_mod' m _) (Nat.mod_lt m (Nat.two_pow_pos _))⟩
  simp [Nat.dvd_iff_mod_eq_zero]

/-- The multiple is the truncated one or the next. -/
theorem roundAt_fst_of_lt {e q : Int} (h : e < q) (mode : Nat) (s : Bool) (m : Nat) :
    m / 2 ^ (q - e).toNat ≤ (roundAt mode s m e q).1 ∧ (roundAt mode s m e q).1 ≤ m / 2 ^ (q - e).toNat + 1 := by
  rw [roundAt_of_lt h]
  dsimp only
  split <;> omega

/-- A magnitude below 2^p units rounds to at most 2^p units. -/
theorem roundAt_le_two_pow {m p : Nat} {e q : Int} (h : e + Nat.log2 m < q + p) (mode : Nat) (s : Bool) :
    (roundAt mode s m e q).1 ≤ 2 ^ p := by
  have hlog : m < 2 ^ (Nat.log2 m + 1) := Nat.lt_log2_self
  by_cases hq : q ≤ e
  · rw [roundAt_of_le hq]
    calc m * 2 ^ (e - q).toNat
        ≤ 2 ^ (Nat.log2 m + 1) * 2 ^ (e - q).toNat := Nat.mul_le_mul_right _ (Nat.le_of_lt hlog)
      _ = 2 ^ (Nat.log2 m + 1 + (e - q).toNat) := (Nat.pow_add ..).symm
      _ ≤ 2 ^ p := Nat.pow_le_pow_right (by omega) (by omega)
  · have hlt : m < 2 ^ p * 2 ^ (q - e).toNat := calc
      m < 2 ^ (Nat.log2 m + 1) := hlog
      _ ≤ 2 ^ (p + (q - e).toNat) := Nat.pow_le_pow_right (by omega) (by omega)
      _ = 2 ^ p * 2 ^ (q - e).toNat := Nat.pow_add ..
    exact Nat.le_trans (roundAt_fst_of_lt (by omega) mode s m).2 (Nat.div_lt_of_lt_mul (Nat.mul_comm .. ▸ hlt))

/-- A magnitude of at least 2^p units rounds to at least 2^p units. -/
theorem two_pow_le_roundAt {m p : Nat} {e q : Int} (hm : m ≠ 0) (h : q + p ≤ e + Nat.log2 m) (mode : Nat) (s : Bool) :
    2 ^ p ≤ (roundAt mode s m e q).1 := by
  have hlog : 2 ^ Nat.log2 m ≤ m := Nat.log2_self_le hm
  by_cases hq : q ≤ e
  · rw [roundAt_of_le hq]
    calc 2 ^ p
        ≤ 2 ^ (Nat.log2 m + (e - q).toNat) := Nat.pow_le_pow_right (by omega) (by omega)
      _ = 2 ^ Nat.log2 m * 2 ^ (e - q).toNat := Nat.pow_add ..
      _ ≤ m * 2 ^ (e - q).toNat := Nat.mul_le_mul_right _ hlog
  · have hle : 2 ^ p * 2 ^ (q - e).toNat ≤ m := calc
      2 ^ p * 2 ^ (q - e).toNat = 2 ^ (p + (q - e).toNat) := (Nat.pow_add ..).symm
      _ ≤ 2 ^ Nat.log2 m := Nat.pow_le_pow_right (by omega) (by omega)
      _ ≤ m := hlog
    exact Nat.le_trans ((Nat.le_div_iff_mul_le (Nat.two_pow_pos _)).mpr hle) (roundAt_fst_of_lt (by omega) mode s m).1

end Sys2Proof.Machine
end

section
/-! One rounding into a format (R82, R83, R72): the last place, overflow, the bits and their value, and the flags. -/
namespace Sys2Proof.Machine

/-! The magnitude that exponent and fraction fields stand for. -/

/-- The magnitude of these fields in units of the last place of the subnormals. -/
def fieldUnits (f : FloatFmt) (ex fr : Nat) : Nat := if ex = 0 then fr else (2 ^ f.fbits + fr) * 2 ^ (ex - 1)

theorem unpack_finite {f : FloatFmt} {ex fr : Nat} (hex : ex < 2 ^ f.ebits - 1) (hfr : fr < 2 ^ f.fbits) (sg : Bool) :
    ∃ m e, unpack f (packBits f sg ex fr) = .fin sg m e ∧ m * 2 ^ (e - fmtQmin f).toNat = fieldUnits f ex fr := by
  have hval := unpack_packBits (sg := sg) (show ex < 2 ^ f.ebits by omega) hfr
  rw [if_neg (by omega)] at hval
  by_cases hsub : ex = 0
  · rw [if_pos hsub] at hval
    exact ⟨_, _, hval, by simp [fieldUnits, hsub]⟩
  · rw [if_neg hsub] at hval
    have hplace : (fmtQmin f + ex - 1 - fmtQmin f).toNat = ex - 1 := by omega
    exact ⟨_, _, hval, by rw [hplace, fieldUnits, if_neg hsub]⟩

/-- Exponent fields below `n + 1` hold the magnitudes below one power of two. -/
theorem fieldUnits_lt_iff {f : FloatFmt} {ex fr : Nat} (hfr : fr < 2 ^ f.fbits) (n : Nat) :
    fieldUnits f ex fr < 2 ^ (f.fbits + n) ↔ ex < n + 1 := by
  have hunit : 0 < 2 ^ f.fbits := Nat.two_pow_pos _
  rw [Nat.pow_add, fieldUnits]
  split
  next hsub =>
    have : fr < 2 ^ f.fbits * 2 ^ n := Nat.lt_of_lt_of_le hfr (Nat.le_mul_of_pos_right _ (Nat.two_pow_pos n))
    omega
  next hpos =>
    constructor
    · intro hlt
      refine Nat.lt_of_not_le fun hge => ?_
      have : 2 ^ f.fbits * 2 ^ n ≤ (2 ^ f.fbits + fr) * 2 ^ (ex - 1) :=
        Nat.mul_le_mul (by omega) (Nat.pow_le_pow_right (by omega) (by omega))
      omega
    · intro hlt
      calc (2 ^ f.fbits + fr) * 2 ^ (ex - 1)
          < (2 ^ f.fbits * 2) * 2 ^ (ex - 1) := Nat.mul_lt_mul_of_pos_right (by omega) (Nat.two_pow_pos _)
        _ = 2 ^ f.fbits * 2 ^ (ex - 1 + 1) := by rw [Nat.pow_succ, Nat.mul_assoc, Nat.mul_comm 2]
        _ ≤ 2 ^ f.fbits * 2 ^ n := Nat.mul_le_mul_left _ (Nat.pow_le_pow_right (by omega) (by omega))

/-- A significand of at most two binades, `k` binades above the subnormals, is the fields whose magnitude is `r × 2^k`: a carry out
of the significand goes to the next exponent. -/
theorem exists_fields (f : FloatFmt) {k r : Nat} (hle : r ≤ 2 ^ (f.fbits + 1)) (hlow : k = 0 ∨ 2 ^ f.fbits ≤ r) :
    ∃ ex fr, fr < 2 ^ f.fbits ∧ k * 2 ^ f.fbits + r = ex * 2 ^ f.fbits + fr ∧ r * 2 ^ k = fieldUnits f ex fr := by
  have hunit : 0 < 2 ^ f.fbits := Nat.two_pow_pos _
  have hsucc : 2 ^ (f.fbits + 1) = 2 ^ f.fbits * 2 := Nat.pow_succ ..
  by_cases hsub : r < 2 ^ f.fbits
  · obtain rfl : k = 0 := by omega
    exact ⟨0, r, hsub, by simp, by simp [fieldUnits]⟩
  · by_cases hcarry : r = 2 ^ (f.fbits + 1)
    · refine ⟨k + 2, 0, hunit, ?_, ?_⟩
      · rw [hcarry, hsucc, Nat.add_mul]; omega
      · rw [hcarry, hsucc, fieldUnits, if_neg (by omega), Nat.add_zero, Nat.add_succ_sub_one, Nat.pow_succ, Nat.mul_assoc, Nat.mul_comm 2]
    · refine ⟨k + 1, r - 2 ^ f.fbits, by omega, ?_, ?_⟩
      · rw [Nat.succ_mul]; omega
      · rw [fieldUnits, if_neg (by omega), Nat.add_sub_cancel, Nat.add_sub_cancel' (by omega)]

/-! The last place. -/

theorem bitLen_of_ne_zero {m : Nat} (hm : m ≠ 0) : bitLen m = Nat.log2 m + 1 := if_neg hm

/-- The exponent of the last place of m × 2^e without the exponent's bound. -/
def freePlace (f : FloatFmt) (m : Nat) (e : Int) : Int := e + Nat.log2 m - f.fbits

/-- The exponent of the last place of m × 2^e in the format: that of the subnormals at least. -/
def lastPlace (f : FloatFmt) (m : Nat) (e : Int) : Int := max (freePlace f m e) (fmtQmin f)

/-- The rounded magnitude in units of the last place of the subnormals. -/
def roundedUnits (f : FloatFmt) (mode : Nat) (s : Bool) (m : Nat) (e : Int) : Nat :=
  (roundAt mode s m e (lastPlace f m e)).1 * 2 ^ (lastPlace f m e - fmtQmin f).toNat

/-- Whether it is also tiny after a rounding without the exponent's bound. -/
abbrev TinyRounded (f : FloatFmt) (mode : Nat) (s : Bool) (m : Nat) (e : Int) : Prop :=
  freePlace f m e < fmtQmin f ∧ (roundAt mode s m e (freePlace f m e)).1 < 2 ^ (f.fbits + (fmtQmin f - freePlace f m e).toNat)

theorem roundTo_zero (f : FloatFmt) (mode : Nat) (s : Bool) (e : Int) : roundTo f mode s 0 e = (zeroBits f s, 0) := rfl

/-- The fields of the rounded magnitude, whether or not the format holds them. -/
theorem exists_fields_roundAt (f : FloatFmt) (mode : Nat) (s : Bool) {m : Nat} (hm : m ≠ 0) (e : Int) :
    ∃ ex fr, fr < 2 ^ f.fbits ∧ (lastPlace f m e - fmtQmin f).toNat * 2 ^ f.fbits + (roundAt mode s m e (lastPlace f m e)).1 =
      ex * 2 ^ f.fbits + fr ∧ roundedUnits f mode s m e = fieldUnits f ex fr := by
  refine exists_fields f (roundAt_le_two_pow ?_ mode s) ?_
  · rw [lastPlace, freePlace]; omega
  · by_cases hfree : lastPlace f m e = fmtQmin f
    · left; omega
    · right
      refine two_pow_le_roundAt hm ?_ mode s
      rw [lastPlace, freePlace] at *; omega

/-- The model's test for tininess: only the carry to the least normal number takes a value out of it. -/
theorem tinyRounded_iff (f : FloatFmt) (mode : Nat) (s : Bool) (m : Nat) (e : Int) :
    TinyRounded f mode s m e ↔ (decide (freePlace f m e < fmtQmin f) && !(decide (freePlace f m e = fmtQmin f - 1) &&
      decide ((roundAt mode s m e (freePlace f m e)).1 = 2 ^ (f.fbits + 1)))) = true := by
  have hle : (roundAt mode s m e (freePlace f m e)).1 ≤ 2 ^ (f.fbits + 1) :=
    roundAt_le_two_pow (by rw [freePlace]; omega) mode s
  simp only [TinyRounded, Bool.and_eq_true, decide_eq_true_eq, Bool.not_eq_true', Bool.and_eq_false_iff, decide_eq_false_iff_not]
  refine and_congr_right fun hlt => ?_
  by_cases hone : freePlace f m e = fmtQmin f - 1
  · have : (fmtQmin f - freePlace f m e).toNat = 1 := by omega
    rw [this]
    omega
  · have : 2 ^ (f.fbits + 1) < 2 ^ (f.fbits + (fmtQmin f - freePlace f m e).toNat) :=
      Nat.pow_lt_pow_right (by omega) (by omega)
    omega

/-- UF comes with NX or not at all. -/
theorem inexact_flags (inexact tiny : Bool) :
    (if inexact then flagNX else 0) ||| (if inexact && tiny then flagUF else 0) =
      if inexact = false then 0 else if tiny = true then flagNX ||| flagUF else flagNX := by
  cases inexact <;> cases tiny <;> decide

/-- What `roundTo` gives, once the fields of the rounded magnitude are known. -/
theorem roundTo_of_fields {f : FloatFmt} {mode : Nat} {s : Bool} {m ex fr : Nat} {e : Int} (hm : m ≠ 0)
    (hfr : fr < 2 ^ f.fbits)
    (hbody : (lastPlace f m e - fmtQmin f).toNat * 2 ^ f.fbits + (roundAt mode s m e (lastPlace f m e)).1 = ex * 2 ^ f.fbits + fr) :
    roundTo f mode s m e =
      if 2 ^ f.ebits - 1 ≤ ex then
        (if mode = 1 ∨ (mode = 2 ∧ s = true) ∨ (mode = 3 ∧ s = false) then maxBits f s else infBits f s, flagOF ||| flagNX)
      else (packBits f s ex fr, if (roundAt mode s m e (lastPlace f m e)).2 = false then 0
        else if TinyRounded f mode s m e then flagNX ||| flagUF else flagNX) := by
  have hplace : e + (bitLen m : Int) - 1 - f.fbits = freePlace f m e := by
    rw [bitLen_of_ne_zero hm, freePlace]; omega
  have hover : (2 ^ f.ebits - 1) * 2 ^ f.fbits ≤ ex * 2 ^ f.fbits + fr ↔ 2 ^ f.ebits - 1 ≤ ex := by
    rw [← Nat.le_div_iff_mul_le (Nat.two_pow_pos _), Nat.mul_comm, Nat.mul_add_div (Nat.two_pow_pos _), Nat.div_eq_of_lt hfr,
      Nat.add_zero]
  have hmax : max (freePlace f m e) (fmtQmin f) = lastPlace f m e := rfl
  rw [roundTo, if_neg hm]
  simp only [hplace, hmax, hbody, ge_iff_le, hover, tinyRounded_iff]
  by_cases hex : 2 ^ f.ebits - 1 ≤ ex
  · simp [hex]
  · rw [if_neg hex, if_neg hex, inexact_flags, packBits, Nat.add_assoc]

/-- R82: one rounding of a non-zero value: overflow by the mode, or the bits of the rounded magnitude with UF and NX. -/
theorem roundTo_ne_zero {f : FloatFmt} (hE : 2 ≤ f.ebits) (mode : Nat) (s : Bool) {m : Nat} (hm : m ≠ 0) (e : Int) :
    (2 ^ (f.fbits + 2 ^ f.ebits - 2) ≤ roundedUnits f mode s m e → roundTo f mode s m e =
      (if mode = 1 ∨ (mode = 2 ∧ s = true) ∨ (mode = 3 ∧ s = false) then maxBits f s else infBits f s, flagOF ||| flagNX)) ∧
    (roundedUnits f mode s m e < 2 ^ (f.fbits + 2 ^ f.ebits - 2) →
      (∃ m' e', unpack f (roundTo f mode s m e).1 = .fin s m' e' ∧ m' * 2 ^ (e' - fmtQmin f).toNat = roundedUnits f mode s m e) ∧
      (roundTo f mode s m e).2 = if (roundAt mode s m e (lastPlace f m e)).2 = false then 0
        else if TinyRounded f mode s m e then flagNX ||| flagUF else flagNX) := by
  obtain ⟨ex, fr, hfr, hbody, hunits⟩ := exists_fields_roundAt f mode s hm e
  have hexp : 2 ^ 2 ≤ 2 ^ f.ebits := Nat.pow_le_pow_right (by omega) hE
  have hlimit : roundedUnits f mode s m e < 2 ^ (f.fbits + 2 ^ f.ebits - 2) ↔ ex < 2 ^ f.ebits - 1 := by
    have hsum : f.fbits + 2 ^ f.ebits - 2 = f.fbits + (2 ^ f.ebits - 2) := by omega
    rw [hunits, hsum, fieldUnits_lt_iff hfr]
    omega
  rw [← Nat.not_lt, hlimit, roundTo_of_fields hm hfr hbody]
  refine ⟨fun hge => if_pos (Nat.not_lt.mp hge), fun hlt => ?_⟩
  rw [if_neg (by omega), hunits]
  exact ⟨unpack_finite hlt hfr s, rfl⟩

end Sys2Proof.Machine
end

section
/-! Sums, products, quotients and roots (R176, R178), the order of values (R177, R179) and integral rounding (R181). -/
namespace Sys2Proof.Machine

/-! NaN operands. -/

theorem isSig_iff (x : FVal) : isSig x = true ↔ x = .nan true := by
  rcases x with (_ | _) | _ | _ <;> simp [isSig]

theorem sigFlag_two (x y : FVal) : sigFlag [x, y] = if x = .nan true ∨ y = .nan true then flagNV else 0 := by
  simp [sigFlag, isSig_iff]

theorem sigFlag_nan (a : Bool) : sigFlag [.nan a] = if a = true then flagNV else 0 := by cases a <;> rfl

theorem isNan_iff (x : FVal) : isNan x = true ↔ ∃ a, x = .nan a := by
  cases x <;> simp [isNan]

theorem isSig_of_isNan_eq_false {x : FVal} (h : isNan x = false) : x ≠ .nan true := by
  rintro rfl
  exact absurd h (by decide)

/-- A NaN operand of a sum, a product or a quotient gives the canonical NaN. -/
theorem nan_operand (f : FloatFmt) (mode : Nat) {x y : FVal} (h : isNan x = true ∨ isNan y = true) :
    let r := (nanBits f, if x = .nan true ∨ y = .nan true then flagNV else 0)
    addReal f mode x y = r ∧ mulReal f mode x y = r ∧ divReal f mode x y = r := by
  simp only [← sigFlag_two]
  cases x with
  | nan a => exact ⟨rfl, rfl, rfl⟩
  | inf a =>
    obtain ⟨b, rfl⟩ := (isNan_iff y).mp (h.resolve_left (by simp [isNan]))
    exact ⟨rfl, rfl, rfl⟩
  | fin a m e =>
    obtain ⟨b, rfl⟩ := (isNan_iff y).mp (h.resolve_left (by simp [isNan]))
    exact ⟨rfl, rfl, rfl⟩

theorem productOf_nan {x y : FVal} (h : isNan x = true ∨ isNan y = true) :
    productOf x y = .nan (isSig x || isSig y) := by
  cases x with
  | nan a =>
    rcases y with b | b | ⟨b, n, e⟩ 
    · cases a <;> cases b <;> rfl
    · cases a <;> rfl
    · cases a <;> rfl
  | inf a =>
    obtain ⟨b, rfl⟩ := (isNan_iff y).mp (h.resolve_left (by simp [isNan]))
    cases b <;> rfl
  | fin a m e =>
    obtain ⟨b, rfl⟩ := (isNan_iff y).mp (h.resolve_left (by simp [isNan]))
    cases b <;> rfl

theorem fmaReal_nan (f : FloatFmt) (mode : Nat) {x y : FVal} (h : isNan x = true ∨ isNan y = true) (z : FVal) :
    fmaReal f mode x y z = (nanBits f, if x = .nan true ∨ y = .nan true ∨ z = .nan true then flagNV else 0) := by
  rw [fmaReal, productOf_nan h, (nan_operand f mode (.inl rfl)).1]
  simp [isSig_iff, or_assoc]

/-! Finite operands. -/

theorem addExact_fst (a b : Bool) (m n : Nat) (d e : Int) : (addExact a m d b n e).1 =
    (if a then -1 else 1) * (m : Int) * 2 ^ (d - min d e).toNat + (if b then -1 else 1) * (n : Int) * 2 ^ (e - min d e).toNat := by
  cases a <;> cases b <;> simp only [addExact, Bool.false_eq_true, if_false, if_true, Int.neg_mul, Int.one_mul]

/-- A sum of numbers is their exact sum `x` over the lesser exponent, rounded once; an exact zero has a sign of its own. -/
theorem addReal_fin (f : FloatFmt) (mode : Nat) (a b : Bool) (m n : Nat) (d e : Int) :
    let x := (if a then -1 else 1) * (m : Int) * 2 ^ (d - min d e).toNat + (if b then -1 else 1) * (n : Int) * 2 ^ (e - min d e).toNat
    addReal f mode (.fin a m d) (.fin b n e) =
      if x = 0 then (zeroBits f (if m = 0 ∧ n = 0 ∧ a = b then a else mode == 3), 0)
      else roundTo f mode (decide (x < 0)) x.natAbs (min d e) := by
  intro x
  have hx : (addExact a m d b n e).1 = x := addExact_fst a b m n d e
  rw [← hx]
  rfl

/-- Zero times infinity is invalid, whatever is added to it. -/
theorem fmaReal_inf_fin (f : FloatFmt) (mode : Nat) (a b : Bool) (n : Nat) (e : Int) (z : FVal) :
    fmaReal f mode (.inf a) (.fin b n e) z = if n = 0 then (nanBits f, flagNV) else addReal f mode (.inf (a != b)) z := by
  by_cases hn : n = 0
  · simp [fmaReal, productOf, hn, addReal, sigFlag_two]
  · simp [fmaReal, productOf, hn]

theorem fmaReal_fin_inf (f : FloatFmt) (mode : Nat) (a b : Bool) (n : Nat) (e : Int) (z : FVal) :
    fmaReal f mode (.fin b n e) (.inf a) z = if n = 0 then (nanBits f, flagNV) else addReal f mode (.inf (b != a)) z := by
  by_cases hn : n = 0
  · simp [fmaReal, productOf, hn, addReal, sigFlag_two]
  · simp [fmaReal, productOf, hn]

theorem compareReal_fin (a b : Bool) (m n : Nat) (d e : Int) :
    let x := (if a then -1 else 1) * (m : Int) * 2 ^ (d - min d e).toNat - (if b then -1 else 1) * (n : Int) * 2 ^ (e - min d e).toNat
    compareReal (.fin a m d) (.fin b n e) = if x < 0 then -1 else if x = 0 then 0 else 1 := by
  intro x
  have hx : (addExact a m d (!b) n e).1 = x := by
    rw [addExact_fst]
    cases b <;> simp only [x, Bool.not_false, Bool.not_true, Bool.false_eq_true, if_false, if_true, Int.neg_mul, Int.one_mul,
      Int.sub_eq_add_neg, Int.neg_neg]
  simp only [compareReal, hx]

/-! Quotients and roots that may not end. -/

theorem lt_two_pow_bitLen (n : Nat) : n < 2 ^ bitLen n := by
  by_cases hn : n = 0
  · subst hn; decide
  · rw [bitLen_of_ne_zero hn]
    exact Nat.lt_log2_self

theorem sticky_eq (t : Nat) (c : Prop) [Decidable c] : sticky t (decide c) = if c then 2 * t else 2 * t + 1 := by
  by_cases hc : c <;> simp [sticky, hc]

theorem divReal_by_zero (f : FloatFmt) (mode : Nat) (a b : Bool) (m : Nat) (d e : Int) :
    divReal f mode (.fin a m d) (.fin b 0 e) = if m = 0 then (nanBits f, flagNV) else (infBits f (a != b), flagDZ) := rfl

/-- A quotient: floored with enough bits, and one bit more that says whether it ends there. -/
theorem divReal_fin (f : FloatFmt) (mode : Nat) (a b : Bool) (m : Nat) {n : Nat} (hn : n ≠ 0) (d e : Int) :
    ∃ k t : Nat, (m ≠ 0 → 2 ^ (f.fbits + 4) ≤ t) ∧ t * n ≤ m * 2 ^ k ∧ m * 2 ^ k < (t + 1) * n ∧
      divReal f mode (.fin a m d) (.fin b n e) = roundTo f mode (a != b) (if t * n = m * 2 ^ k then 2 * t else 2 * t + 1) (d - e - k - 1) := by
  have hpos : 0 < n := Nat.pos_of_ne_zero hn
  refine ⟨f.fbits + 4 + bitLen n, m * 2 ^ (f.fbits + 4 + bitLen n) / n, fun hm => ?bits, Nat.div_mul_le_self _ _, ?below, ?rounded⟩
  case bits =>
    rw [Nat.le_div_iff_mul_le hpos, Nat.pow_add _ (f.fbits + 4)]
    calc 2 ^ (f.fbits + 4) * n
        ≤ 2 ^ (f.fbits + 4) * 2 ^ bitLen n := Nat.mul_le_mul_left _ (Nat.le_of_lt (lt_two_pow_bitLen n))
      _ ≤ m * (2 ^ (f.fbits + 4) * 2 ^ bitLen n) := Nat.le_mul_of_pos_left _ (Nat.pos_of_ne_zero hm)
  case below => exact Nat.mul_comm n _ ▸ Nat.lt_mul_div_succ _ hpos
  case rounded =>
    generalize hk : f.fbits + 4 + bitLen n = k
    have hends : (m * 2 ^ k % n == 0) = decide (m * 2 ^ k / n * n = m * 2 ^ k) := by
      simp only [Bool.beq_eq_decide_eq, ← Nat.dvd_iff_div_mul_eq, Nat.dvd_iff_mod_eq_zero]
    rw [← sticky_eq, ← hends]
    simp only [divReal, if_neg hn, hk]

/-- Each bit that is found keeps the root between `r` and `r + 2^b`. -/
theorem isqrtFrom_bounds {n : Nat} : ∀ {b r : Nat}, r * r ≤ n → n < (r + 2 ^ b) * (r + 2 ^ b) →
    isqrtFrom n b r * isqrtFrom n b r ≤ n ∧ n < (isqrtFrom n b r + 1) * (isqrtFrom n b r + 1)
  | 0, r, hle, hlt => ⟨hle, hlt⟩
  | b + 1, r, hle, hlt => by
    have hhalf : r + 2 ^ (b + 1) = r + 2 ^ b + 2 ^ b := by rw [Nat.pow_succ]; omega
    rw [hhalf] at hlt
    rw [isqrtFrom]
    split
    next hup => exact isqrtFrom_bounds hup hlt
    next hdown => exact isqrtFrom_bounds hle (Nat.lt_of_not_le hdown)

/-- It is the floored square root. -/
theorem isqrt_bounds (n : Nat) : isqrt n * isqrt n ≤ n ∧ n < (isqrt n + 1) * (isqrt n + 1) := by
  refine isqrtFrom_bounds (Nat.zero_le n) ?_
  calc n < 2 ^ bitLen n := lt_two_pow_bitLen n
    _ ≤ 2 ^ (bitLen n / 2 + 1 + (bitLen n / 2 + 1)) := Nat.pow_le_pow_right (by omega) (by omega)
    _ = (0 + 2 ^ (bitLen n / 2 + 1)) * (0 + 2 ^ (bitLen n / 2 + 1)) := by rw [Nat.zero_add, Nat.pow_add]

theorem le_isqrt {a n : Nat} (h : a * a ≤ n) : a ≤ isqrt n := by
  refine Nat.le_of_not_lt fun hlt => ?_
  have hsquare : (isqrt n + 1) * (isqrt n + 1) ≤ a * a := Nat.mul_le_mul hlt hlt
  have hroot := (isqrt_bounds n).2
  omega

/-- A root is taken of a magnitude with an even exponent: an odd one gives a factor 2 to the magnitude. -/
theorem even_exponent (m : Nat) (e : Int) :
    (if e % 2 = 1 then 2 * m else m) = m * 2 ^ (e % 2).toNat ∧ (if e % 2 = 1 then e - 1 else e) / 2 = e / 2 := by
  rcases Int.emod_two_eq e with h | h
  · simp [h]
  · rw [h]
    exact ⟨by simp [Nat.mul_comm], by simp; omega⟩

theorem sqrtReal_negative (f : FloatFmt) (mode : Nat) {m : Nat} (hm : m ≠ 0) (e : Int) :
    sqrtReal f mode (.fin true m e) = (nanBits f, flagNV) := if_neg hm

/-- A root: floored with enough bits, and one bit more that says whether it ends there. -/
theorem sqrtReal_fin (f : FloatFmt) (mode : Nat) {m : Nat} (hm : m ≠ 0) (e : Int) :
    ∃ k t : Nat, 2 ^ (f.fbits + 3) ≤ t ∧
      let n := m * 2 ^ (2 * k + (e % 2).toNat)
      t * t ≤ n ∧ n < (t + 1) * (t + 1) ∧
        sqrtReal f mode (.fin false m e) = roundTo f mode false (if t * t = n then 2 * t else 2 * t + 1) (e / 2 - k - 1) := by
  obtain ⟨hle, hlt⟩ := isqrt_bounds (m * 2 ^ (2 * (f.fbits + 3) + (e % 2).toNat))
  refine ⟨f.fbits + 3, _, ?bits, hle, hlt, ?rounded⟩
  case bits =>
    refine le_isqrt ?_
    rw [← Nat.pow_add]
    calc 2 ^ (f.fbits + 3 + (f.fbits + 3))
        ≤ 2 ^ (2 * (f.fbits + 3) + (e % 2).toNat) := Nat.pow_le_pow_right (by omega) (by omega)
      _ ≤ m * 2 ^ (2 * (f.fbits + 3) + (e % 2).toNat) := Nat.le_mul_of_pos_left _ (Nat.pos_of_ne_zero hm)
  case rounded =>
    obtain ⟨hmag, hexp⟩ := even_exponent m e
    have hroot : (if e % 2 = 1 then 2 * m else m) * 2 ^ (2 * (f.fbits + 3)) = m * 2 ^ (2 * (f.fbits + 3) + (e % 2).toNat) := by
      rw [hmag, Nat.pow_add, Nat.mul_assoc, Nat.mul_comm (2 ^ (e % 2).toNat)]
    rw [← sticky_eq, ← Bool.beq_eq_decide_eq]
    simp only [sqrtReal, if_neg hm, Bool.false_eq_true, if_false, hroot, hexp]

/-! Integral rounding. -/

theorem rintReal_nan (f : FloatFmt) (mode : Nat) (a : Bool) : rintReal f mode (.nan a) = (nanBits f, if a then flagNV else 0) :=
  congrArg _ (sigFlag_nan a)

/-- A value whose last place is a whole number is integral already. -/
theorem rintReal_of_nonneg (f : FloatFmt) (mode : Nat) (a : Bool) (m : Nat) {e : Int} (he : 0 ≤ e) :
    rintReal f mode (.fin a m e) = ((roundTo f mode a m e).1, 0) := if_pos he

theorem rintReal_of_neg (f : FloatFmt) (mode : Nat) (a : Bool) (m : Nat) {e : Int} (he : e < 0) : rintReal f mode (.fin a m e) =
    ((roundTo f mode a (roundAt mode a m e 0).1 0).1, if (roundAt mode a m e 0).2 then flagNX else 0) := if_neg (by omega)

end Sys2Proof.Machine
end

section
/-! The order of values (R177, R179). -/
namespace Sys2Proof.Machine

section Nans
variable {f : FloatFmt} {a b : Nat}

/-- Minimum and maximum of two NaNs are the canonical NaN; of a NaN and a number they are the number. -/
theorem minMaxBits_nan_nan (ha : isNan (unpack f a) = true) (hb : isNan (unpack f b) = true) (mx : Bool) :
    minMaxBits f mx a b = (nanBits f, sigFlag [unpack f a, unpack f b]) := by simp [minMaxBits, ha, hb]

theorem minMaxBits_nan_left (ha : isNan (unpack f a) = true) (hb : isNan (unpack f b) = false) (mx : Bool) :
    minMaxBits f mx a b = (b, sigFlag [unpack f a, unpack f b]) := by simp [minMaxBits, ha, hb]

theorem minMaxBits_nan_right (ha : isNan (unpack f a) = false) (hb : isNan (unpack f b) = true) (mx : Bool) :
    minMaxBits f mx a b = (a, sigFlag [unpack f a, unpack f b]) := by simp [minMaxBits, ha, hb]

/-- Unordered operands: EQ and UN are quiet, LT and LE are not. -/
theorem fcmpBits_nan (h : isNan (unpack f a) = true ∨ isNan (unpack f b) = true) :
    fcmpBits f 0 a b = (false, sigFlag [unpack f a, unpack f b]) ∧ fcmpBits f 3 a b = (true, sigFlag [unpack f a, unpack f b]) ∧
      fcmpBits f 1 a b = (false, flagNV) ∧ fcmpBits f 2 a b = (false, flagNV) := by
  have hun : (isNan (unpack f a) || isNan (unpack f b)) = true := by simpa using h
  simp [fcmpBits, hun]

end Nans

section Numbers
variable {f : FloatFmt} {a b : Nat} (ha : isNan (unpack f a) = false) (hb : isNan (unpack f b) = false)
include ha hb

theorem sigFlag_numbers : sigFlag [unpack f a, unpack f b] = 0 := by
  simp [sigFlag_two, isSig_of_isNan_eq_false ha, isSig_of_isNan_eq_false hb]

/-- −0 is less than +0 here. -/
theorem minMaxBits_less (h : compareReal (unpack f a) (unpack f b) < 0 ∨
      compareReal (unpack f a) (unpack f b) = 0 ∧ signOf (unpack f a) = true ∧ signOf (unpack f b) = false) :
    minMaxBits f false a b = (a, 0) ∧ minMaxBits f true a b = (b, 0) := by
  rcases h with h | ⟨h, hx, hy⟩
  · simp [minMaxBits, ha, hb, sigFlag_numbers ha hb, h]
  · simp [minMaxBits, ha, hb, sigFlag_numbers ha hb, h, hx, hy]

theorem minMaxBits_greater (h : 0 < compareReal (unpack f a) (unpack f b) ∨
      compareReal (unpack f a) (unpack f b) = 0 ∧ signOf (unpack f a) = false ∧ signOf (unpack f b) = true) :
    minMaxBits f false a b = (b, 0) ∧ minMaxBits f true a b = (a, 0) := by
  rcases h with h | ⟨h, hx, hy⟩
  · have hlt : ¬ compareReal (unpack f a) (unpack f b) < 0 := by omega
    have hne : compareReal (unpack f a) (unpack f b) ≠ 0 := by omega
    simp [minMaxBits, ha, hb, sigFlag_numbers ha hb, hlt, hne]
  · simp [minMaxBits, ha, hb, sigFlag_numbers ha hb, h, hx, hy]

theorem fcmpBits_numbers : fcmpBits f 0 a b = (decide (compareReal (unpack f a) (unpack f b) = 0), 0) ∧
    fcmpBits f 1 a b = (decide (compareReal (unpack f a) (unpack f b) < 0), 0) ∧
    fcmpBits f 2 a b = (decide (compareReal (unpack f a) (unpack f b) ≤ 0), 0) ∧ fcmpBits f 3 a b = (false, 0) := by
  simp [fcmpBits, ha, hb, sigFlag_numbers ha hb]

end Numbers

end Sys2Proof.Machine
end

section
/-! The approximations (R183, Table 08.7). -/
namespace Sys2Proof.Machine

/-- A NaN gives the canonical NaN of binary32. -/
theorem approximations_nan (a : Bool) : let r := (nanBits fmtF, if a then flagNV else 0)
    rcpF12 (.nan a) = r ∧ rsqF12 (.nan a) = r ∧ exp2F12 (.nan a) = r ∧ log2F12 (.nan a) = r := by
  dsimp only
  rw [← sigFlag_nan]
  exact ⟨rfl, rfl, rfl, rfl⟩

/-- Zeros and infinities. -/
theorem approximations_special (a : Bool) (e : Int) : rcpF12 (.fin a 0 e) = (infBits fmtF a, flagDZ) ∧ rcpF12 (.inf a) = (zeroBits fmtF a, 0) ∧
    rsqF12 (.fin a 0 e) = (infBits fmtF a, flagDZ) ∧ rsqF12 (.inf a) = (if a then (0x7FC00000, flagNV) else (0, 0)) ∧
    exp2F12 (.inf a) = (if a then 0 else 0x7F800000, 0) ∧ exp2F12 (.fin a 0 e) = (0x3F800000, 0) ∧
    log2F12 (.fin a 0 e) = (0xFF800000, flagDZ) ∧ log2F12 (.inf a) = (if a then (0x7FC00000, flagNV) else (0x7F800000, 0)) := by
  have hzero : f12 (infBits fmtF12 (false != a), flagDZ) = (infBits fmtF a, flagDZ) := by cases a <;> decide
  have hinf : f12 (zeroBits fmtF12 (false != a), 0) = (zeroBits fmtF a, 0) := by cases a <;> decide
  exact ⟨hzero, hinf, rfl, rfl, rfl, rfl, rfl, rfl⟩

/-- Root and logarithm of a negative number are invalid. -/
theorem approximations_negative {m : Nat} (hm : m ≠ 0) (e : Int) :
    rsqF12 (.fin true m e) = (0x7FC00000, flagNV) ∧ log2F12 (.fin true m e) = (0x7FC00000, flagNV) :=
  ⟨if_neg hm, if_neg hm⟩

/-- F12 bits stand in binary32 with their sign and exponent in place and 11 zero bits below. -/
theorem f12_bits (sg : Bool) {x : Nat} (fl : Flags) (hx : x < 2 ^ 20) :
    f12 ((if sg then 2 ^ 20 else 0) + x, fl) = ((if sg then 2 ^ 31 else 0) + x * 2 ^ 11, fl) := by
  cases sg
  · simp only [f12, Bool.false_eq_true, if_false, Nat.zero_add, Nat.div_eq_of_lt hx, Nat.mod_eq_of_lt hx, Nat.zero_mul]
  · simp only [f12, if_true, Nat.add_div_left _ (Nat.two_pow_pos 20), Nat.div_eq_of_lt hx, Nat.add_mod_left, Nat.mod_eq_of_lt hx,
      Nat.zero_add, Nat.one_mul]

/-- A reciprocal is the quotient of 1 in F12. -/
theorem rcpF12_fin (a : Bool) (m : Nat) (e : Int) : rcpF12 (.fin a m e) = f12 (divReal fmtF12 0 (.fin false 1 0) (.fin a m e)) := rfl

/-- The floored root of a quotient is the greatest root whose square times the divisor stays within the dividend. -/
theorem isqrt_div_bounds {n : Nat} (hn : 0 < n) (N : Nat) :
    isqrt (N / n) * isqrt (N / n) * n ≤ N ∧ N < (isqrt (N / n) + 1) * (isqrt (N / n) + 1) * n := by
  obtain ⟨hle, hlt⟩ := isqrt_bounds (N / n)
  exact ⟨Nat.le_trans (Nat.mul_le_mul_right n hle) (Nat.div_mul_le_self N n), (Nat.div_lt_iff_lt_mul hn).mp hlt⟩

/-- A reciprocal root, floored in units of 2^-80, and one bit more that says whether it ends there. -/
theorem rsqF12_fin {m : Nat} (hm : m ≠ 0) (e : Int) : ∃ t : Nat,
    let n := m * 2 ^ (e % 2).toNat
    t * t * n ≤ 2 ^ 160 ∧ 2 ^ 160 < (t + 1) * (t + 1) * n ∧
    rsqF12 (.fin false m e) = f12 (roundTo fmtF12 0 false (if t * t * n = 2 ^ 160 then 2 * t else 2 * t + 1) (-(e / 2) - 81)) := by
  obtain ⟨hmag, hexp⟩ := even_exponent m e
  obtain ⟨hle, hlt⟩ := isqrt_div_bounds (n := m * 2 ^ (e % 2).toNat) (Nat.mul_pos (Nat.pos_of_ne_zero hm) (Nat.two_pow_pos _)) (2 ^ 160)
  refine ⟨_, hle, hlt, ?_⟩
  rw [← sticky_eq, ← Bool.beq_eq_decide_eq]
  simp only [rsqF12, if_neg hm, Bool.false_eq_true, if_false, hmag, hexp]

theorem bitLen_le_of_lt {m k : Nat} (h : m < 2 ^ k) : bitLen m ≤ k := by
  by_cases hm : m = 0
  · simp [bitLen, hm]
  · rw [bitLen_of_ne_zero hm]
    exact (Nat.log2_lt hm).mpr h

theorem sign_mul_natAbs (n : Int) : (if decide (n < 0) then (-1 : Int) else 1) * n.natAbs = n := by
  by_cases hn : n < 0
  · simp only [hn, decide_true, if_true]; omega
  · simp only [hn, decide_false, Bool.false_eq_true, if_false]; omega

theorem natCast_two_pow (k : Nat) : ((2 ^ k : Nat) : Int) = 2 ^ k := by simp

/-- A power of two with an integral exponent is exact. -/
theorem exp2F12_int {n : Int} (hn : n ≠ 0) (hlo : -149 ≤ n) (hhi : n ≤ 127) :
    exp2F12 (.fin (decide (n < 0)) n.natAbs 0) = f12 (roundTo fmtF12 0 false 1 n) := by
  have hlen : bitLen n.natAbs ≤ 8 := bitLen_le_of_lt (by omega)
  have hfix : (if decide (n < 0) then (-1 : Int) else 1) * ((n.natAbs * 2 ^ (0 + (fixBits : Int)).toNat : Nat) : Int) = n * 2 ^ fixBits := by
    rw [Int.zero_add, Int.toNat_natCast, Int.natCast_mul, ← Int.mul_assoc, sign_mul_natAbs, natCast_two_pow]
  have hpow : (2 : Int) ^ fixBits ≠ 0 := by
    have hpos := Nat.two_pow_pos fixBits
    rw [← natCast_two_pow]
    omega
  simp only [exp2F12, hfix, Int.mul_ediv_cancel n hpow, Int.mul_emod_left, Int.toNat_zero, if_true]
  rw [if_neg (by omega), if_neg (by omega)]

/-- The logarithm of a power of two is its exponent. -/
theorem log2F12_pow (n : Int) : log2F12 (.fin false 1 n) = f12 (roundTo fmtF12 0 (decide (n < 0)) n.natAbs 0) := by
  have hlen : bitLen 1 = 1 := rfl
  simp [log2F12, hlen]

end Sys2Proof.Machine
end

section
/-! Conversions (R84, Table 05.8). -/
namespace Sys2Proof.Machine

theorem toBinary_eq (f : FloatFmt) (mode : Nat) (x : FVal) : toBinary f mode x = match x with
    | .nan a => (nanBits f, if a then flagNV else 0)
    | .inf a => (infBits f a, 0)
    | .fin a m e => roundTo f mode a m e := by
  cases x <;> simp [toBinary, sigFlag_nan]

/-! Binary formats and integers by their numbers in Table 06.9. -/

def binaryFormats : List (Nat × FloatFmt) := [(0, fmtD), (1, fmtF), (2, fmtH), (3, fmtB)]

/-- i32, i64 and n32, with the least and the greatest integer of each. -/
def integerFormats : List (Nat × Int × Int) := [(6, -(2 ^ 31), 2 ^ 31 - 1), (7, -(2 ^ 63), 2 ^ 63 - 1), (8, 0, 2 ^ 32 - 1)]

/-- The integer that a raw source of each integer format stands for. -/
def integerSources (raw : Nat) : List (Nat × Int) :=
  [(6, (BitVec.ofNat 32 raw).toInt), (7, (BitVec.ofNat 64 raw).toInt), (8, (raw : Int))]

/-- The least and the greatest integer of `w` bits (R73). -/
def intRange (w : Nat) (signed : Bool) : Int × Int :=
  (if signed then -(2 ^ (w - 1)) else 0, if signed then 2 ^ (w - 1) - 1 else 2 ^ w - 1)

/-- An integer as 64 bits. -/
def intBits (v : Int) : Nat := (v % 2 ^ 64).toNat

/-- The exact value of a raw source. -/
def convSource (frm raw : Nat) : FVal := if 6 ≤ frm then ofInt (convInt frm raw) else convValue frm raw

theorem convSource_binary {x : Nat × FloatFmt} (hx : x ∈ binaryFormats) (raw : Nat) :
    convSource x.1 raw = unpack x.2 raw ∧ ¬ 6 ≤ x.1 ∧ convValue x.1 raw = unpack x.2 raw := by
  simp only [binaryFormats, List.mem_cons, List.not_mem_nil, or_false] at hx
  rcases hx with rfl | rfl | rfl | rfl <;> exact ⟨rfl, by decide, rfl⟩

theorem convSource_integer {x : Nat × Int} {raw : Nat} (hx : x ∈ integerSources raw) :
    convSource x.1 raw = ofInt x.2 ∧ 6 ≤ x.1 ∧ convInt x.1 raw = x.2 := by
  simp only [integerSources, List.mem_cons, List.not_mem_nil, or_false] at hx
  rcases hx with rfl | rfl | rfl <;> exact ⟨rfl, by simp, rfl⟩

/-- A binary destination takes the source's value with one rounding. -/
theorem convElem_to_binary {y : Nat × FloatFmt} (hy : y ∈ binaryFormats) (frm mode raw : Nat) :
    convElem frm y.1 mode raw = toBinary y.2 mode (convSource frm raw) := by
  simp only [binaryFormats, List.mem_cons, List.not_mem_nil, or_false] at hy
  rcases hy with rfl | rfl | rfl | rfl <;> rfl

/-- An integer destination takes the rounded or the clamped value, as 64 bits. -/
theorem convElem_to_integer {y : Nat × Int × Int} (hy : y ∈ integerFormats) : ∃ w signed, intRange w signed = y.2 ∧
    y.2.1 ≤ y.2.2 ∧ ∀ frm mode raw, convElem frm y.1 mode raw =
      let r := if 6 ≤ frm then clampInt w signed (convInt frm raw) else toInteger w signed mode (convValue frm raw)
      (intBits r.1, r.2) := by
  have hbits (r : Int × Flags) : ((BitVec.ofInt 64 r.1).toNat, r.2) = (intBits r.1, r.2) := by rw [BitVec.toNat_ofInt]; rfl
  simp only [integerFormats, List.mem_cons, List.not_mem_nil, or_false] at hy
  rcases hy with rfl | rfl | rfl
  · exact ⟨32, true, rfl, by decide, fun _ _ _ => hbits _⟩
  · exact ⟨64, true, rfl, by decide, fun _ _ _ => hbits _⟩
  · exact ⟨32, false, rfl, by decide, fun _ _ _ => hbits _⟩

theorem toInteger_fin (w : Nat) (signed : Bool) (mode : Nat) (a : Bool) (m : Nat) (e : Int) :
    toInteger w signed mode (.fin a m e) =
      let v := (if a then -1 else 1) * ((roundAt mode a m e 0).1 : Int)
      if (intRange w signed).2 < v then ((intRange w signed).2, flagNV)
      else if v < (intRange w signed).1 then ((intRange w signed).1, flagNV)
      else (v, if (roundAt mode a m e 0).2 then flagNX else 0) := by
  cases a <;> simp [toInteger, intRange]

theorem clampInt_eq {w : Nat} {signed : Bool} (h : (intRange w signed).1 ≤ (intRange w signed).2) (i : Int) :
    clampInt w signed i =
      let v := max (intRange w signed).1 (min i (intRange w signed).2)
      (v, if v = i then 0 else flagNV) := by
  have hdef : clampInt w signed i = if (intRange w signed).2 < i then ((intRange w signed).2, flagNV)
      else if i < (intRange w signed).1 then ((intRange w signed).1, flagNV) else (i, 0) := rfl
  rw [hdef]
  dsimp only
  split
  next habove => rw [Int.min_eq_right (Int.le_of_lt habove), Int.max_eq_right h, if_neg (Int.ne_of_lt habove)]
  next hmost =>
    rw [Int.min_eq_left (Int.not_lt.mp hmost)]
    split
    next hbelow => rw [Int.max_eq_left (Int.le_of_lt hbelow), if_neg (Int.ne_of_gt hbelow)]
    next hleast => rw [Int.max_eq_right (Int.not_lt.mp hleast), if_pos rfl]

/-! Each kind of conversion. -/

section Sources
variable (mode raw : Nat)

theorem convElem_binary_binary {x y : Nat × FloatFmt} (hx : x ∈ binaryFormats) (hy : y ∈ binaryFormats) :
    convElem x.1 y.1 mode raw = match unpack x.2 raw with
      | .nan a => (nanBits y.2, if a then flagNV else 0)
      | .inf a => (infBits y.2 a, 0)
      | .fin a m e => roundTo y.2 mode a m e := by
  obtain ⟨hsource, -, -⟩ := convSource_binary hx raw
  rw [convElem_to_binary hy, hsource, toBinary_eq]

theorem convElem_binary_integer {x : Nat × FloatFmt} {y : Nat × Int × Int} (hx : x ∈ binaryFormats) (hy : y ∈ integerFormats) :
    convElem x.1 y.1 mode raw = match unpack x.2 raw with
      | .nan _ => (0, flagNV)
      | .inf a => (intBits (if a then y.2.1 else y.2.2), flagNV)
      | .fin a m e =>
        let r := roundAt mode a m e 0
        let v := (if a then -1 else 1) * (r.1 : Int)
        if y.2.2 < v then (intBits y.2.2, flagNV) else if v < y.2.1 then (intBits y.2.1, flagNV)
        else (intBits v, if r.2 then flagNX else 0) := by
  obtain ⟨-, hfloat, hvalue⟩ := convSource_binary hx raw
  obtain ⟨w, signed, hrange, -, hconv⟩ := convElem_to_integer hy
  rw [hconv, if_neg hfloat, hvalue, ← hrange]
  cases unpack x.2 raw with
  | nan a => rfl
  | inf a => rfl
  | fin a m e =>
    rw [toInteger_fin]
    dsimp only
    generalize (if a then (-1 : Int) else 1) * ((roundAt mode a m e 0).1 : Int) = v
    by_cases habove : (intRange w signed).2 < v
    · simp only [if_pos habove]
    · simp only [if_neg habove]
      split <;> rfl

theorem convElem_integer_binary {x : Nat × Int} {y : Nat × FloatFmt} (hx : x ∈ integerSources raw) (hy : y ∈ binaryFormats) :
    convElem x.1 y.1 mode raw = roundTo y.2 mode (decide (x.2 < 0)) x.2.natAbs 0 := by
  obtain ⟨hsource, -, -⟩ := convSource_integer hx
  rw [convElem_to_binary hy, hsource]
  rfl

theorem convElem_integer_integer {x : Nat × Int} {y : Nat × Int × Int} (hx : x ∈ integerSources raw) (hy : y ∈ integerFormats) :
    convElem x.1 y.1 mode raw =
      let v := max y.2.1 (min x.2 y.2.2)
      (intBits v, if v = x.2 then 0 else flagNV) := by
  obtain ⟨-, hint, hvalue⟩ := convSource_integer hx
  obtain ⟨w, signed, hrange, hle, hconv⟩ := convElem_to_integer hy
  rw [← hrange] at hle ⊢
  rw [hconv, if_pos hint, hvalue, clampInt_eq hle]

end Sources

end Sys2Proof.Machine
end

section
/-! The statement on floating-point values, assembled from the rules above. -/
namespace Sys2Proof.Machine

/-- Settles O52: each clause is the rule of its operation, all of which rest on one rounding (`roundTo_ne_zero`). -/
theorem floatRounding : Obligations.FloatRounding := by
  unfold Obligations.FloatRounding
  refine ⟨⟨by decide, by decide, ?fields⟩, ⟨?whole, ?modes⟩, ?rounding, ⟨?nans, ?infinities, ?sums, ?fused, ?fusedNan, ?quotients, ?roots⟩,
    ⟨?order, ?compares, ?integral⟩, ⟨?approxNan, ?approxSpecial, ?approxNegative, ?approxBits, ?reciprocal, ?reciprocalRoot, ?power,
    ?logarithm, by decide +kernel⟩, ⟨by decide, ?fromBinary, ?fromInteger⟩⟩
  case fields => exact fun f hf sg ex fr hex hfr => fields_of_packBits (two_le_ebits hf) hex hfr
  case whole => exact fun mode s m e q h => roundAt_of_le h mode s m
  case modes => exact fun mode s m e q h _ => roundAt_modes h mode s m
  case rounding =>
    exact fun f hf mode s m e _ => ⟨fun h => h ▸ roundTo_zero f mode s e, fun h => roundTo_ne_zero (two_le_ebits hf) mode s h e⟩
  case nans => exact fun f mode x y h => nan_operand f mode h
  case infinities => exact fun f mode a b m e => ⟨rfl, rfl, rfl, rfl, rfl, rfl, rfl, rfl, rfl⟩
  case sums =>
    exact fun f mode a b m n d e => ⟨fun hx => (addReal_fin f mode a b m n d e).trans (if_pos hx),
      fun hx => (addReal_fin f mode a b m n d e).trans (if_neg hx), rfl⟩
  case fused => exact fun f mode a b m n d e z => ⟨rfl, rfl, fmaReal_inf_fin f mode a b n e z, fmaReal_fin_inf f mode a b n e z⟩
  case fusedNan => exact fun f mode x y z h => fmaReal_nan f mode h z
  case quotients =>
    exact fun f mode a b m n d e => ⟨fun hn => hn ▸ divReal_by_zero f mode a b m d e, fun hn => divReal_fin f mode a b m hn d e⟩
  case roots =>
    exact fun f mode a b m e => ⟨congrArg _ (sigFlag_nan a), rfl, fun hm => hm ▸ rfl, fun hm hb => hb ▸ sqrtReal_negative f mode hm e,
      fun hm hb => hb ▸ sqrtReal_fin f mode hm e⟩
  case order => exact fun a b m n d e => ⟨compareReal_fin a b m n d e, rfl, rfl, rfl⟩
  case compares =>
    intro f a b x y fl
    have hfl : fl = sigFlag [x, y] := (sigFlag_two x y).symm
    rw [hfl]
    exact ⟨minMaxBits_nan_nan, minMaxBits_nan_left, minMaxBits_nan_right,
      fun hx hy => ⟨minMaxBits_less hx hy, minMaxBits_greater hx hy⟩, fcmpBits_nan, fcmpBits_numbers⟩
  case integral => exact fun f mode a m e => ⟨rintReal_nan f mode a, rfl, rintReal_of_nonneg f mode a m, rintReal_of_neg f mode a m⟩
  case approxNan => exact approximations_nan
  case approxSpecial => exact approximations_special
  case approxNegative => exact fun m e hm => approximations_negative hm e
  case approxBits => exact fun sg x fl hx => f12_bits sg fl hx
  case reciprocal => exact rcpF12_fin
  case reciprocalRoot => exact fun m e hm => rsqF12_fin hm e
  case power => exact fun n hn hlo hhi => exp2F12_int hn hlo hhi
  case logarithm => exact log2F12_pow
  case fromBinary =>
    exact fun mode raw x hx => ⟨fun y hy => convElem_binary_binary mode raw hx hy, fun y hy => convElem_binary_integer mode raw hx hy⟩
  case fromInteger =>
    exact fun mode raw x hx => ⟨fun y hy => convElem_integer_binary mode raw hx hy, fun y hy => convElem_integer_integer mode raw hx hy⟩

end Sys2Proof.Machine
end
